-- ==== Sys2Proof/Word.lean ====
section
/-! DEFINITION. The machine's word types. -/

namespace Sys2Proof

/-- A general register, a virtual address, an 8-byte memory word (R2, R82, R212). -/
abbrev Word := BitVec 64

/-- The smallest addressable unit (R2). -/
abbrev Byte := BitVec 8

/-- A 6-bit register specifier: g0–g31, v0–v15, t0–t7, p0–p7 (R202). -/
abbrev Spec := BitVec 6

end Sys2Proof
end

