-- ==== Sys2Proof/Config.lean ====
section
/-! DEFINITION. The free values and what each implementation decides. None has a body that a proof can see. -/

namespace Sys2Proof.Config

/-- A value that the manual leaves undefined or does not state: g24–g31 of a fresh window (R31), pools
after a partition reset (R522), fields of records that no rule gives.
The argument is the model's counter `State.free`, one number a value.  Log entry 4. -/
opaque freeValue : Nat → Word

/-- The KIND of a piece that the encoder of a checkpoint stream would choose (R411): each implementation
has its own way. The argument is the number of the piece.  Log entry 32. -/
opaque pieceKind : Nat → BitVec 2

/-- The channel of its stack on which a line lies, by the number of the line: not architectural (R97).
Log entry 33. -/
opaque channel : Nat → BitVec 5

/-- Bytes of the digests of the identity key, of the Amigra root firmware and of the scheduling firmware, in this order
of 64 bytes each: the device has them, the manual does not give them (R523).  Log entry 21. -/
opaque digestByte : Nat → BitVec 8

end Sys2Proof.Config
end

