-- ==== Sys2Proof/Syntax.lean ====
section
/-! DEFINITION. The abstract syntax: one constructor per row of the table of operations and events.
The 155 encoded instructions carry one of the shapes below, which are the manual's eight formats
(R199; the S format is the I format). The 107 machine events have no encoding: their operands name
the place where the event happens, or carry what an agent outside the device supplies. -/

namespace Sys2Proof

/-- The TYPE codes 00h to 12h of R201, in order. -/
inductive Ty where
  | none | i8 | i16 | i32 | i64 | n8 | n16 | n32 | n64
  | f64 | f32 | f16 | bf16 | e4m3 | e5m2 | e2m1 | l6 | i4 | n4
deriving DecidableEq, Repr

/-- The not-ready action of R62. -/
inductive Nra where
  | set | branch | park | yield
deriving DecidableEq, Repr

/-- The ORD field of R201. -/
inductive Ord where
  | none | acq | rel | ar
deriving DecidableEq, Repr

/-- The guard of R200: predicate `p`, negated when `neg`. -/
structure Guard where
  neg : Bool
  p : BitVec 3
deriving DecidableEq, Repr

/-- R format (R199, R210): MOD is `sel` [7:4], `sat` [3], `rm` [2:0]. -/
structure ROp where
  grd : Guard
  ty : Ty
  var : BitVec 3
  d : Spec
  a : Spec
  b : Spec
  c : Spec
  sel : BitVec 4
  sat : Bool
  rm : BitVec 3
deriving DecidableEq, Repr

/-- I format and S format (R199, R209). -/
structure IOp where
  grd : Guard
  ty : Ty
  var : BitVec 3
  d : Spec
  a : Spec
  imm : Word
deriving DecidableEq, Repr

/-- M format (R199, R203, R257). -/
structure MOp where
  grd : Guard
  ty : Ty
  ord : Ord
  v0 : Bool
  d : Spec
  a : Spec
  b : Spec
  nra : Nra
  tgt : BitVec 32
  disp : BitVec 24
deriving DecidableEq, Repr

/-- E format (R199, R205, R283). -/
structure EOp where
  grd : Guard
  ord : Ord
  v0 : Bool
  d : Spec
  a : Spec
  b : Spec
  nra : Nra
  tgt : BitVec 32
  sem : BitVec 8
  imm : BitVec 16
deriving DecidableEq, Repr

/-- B format (R199, R206). -/
structure BOp where
  grd : Guard
  d : Spec
  a : Spec
  b : Spec
  tgt : BitVec 32
  imm : BitVec 24
deriving DecidableEq, Repr

/-- V format (R199, R207): MOD is `bS` and `aS` (bits 4 and 5) and `low` [3:0]. -/
structure VOp where
  grd : Guard
  ty : Ty
  var : Bool
  d : Spec
  a : Spec
  b : Spec
  cnt : BitVec 12
  sd : BitVec 10
  sa : BitVec 10
  sb : BitVec 10
  sem : BitVec 8
  inc : BitVec 4
  aS : Bool
  bS : Bool
  low : BitVec 4
deriving DecidableEq, Repr

/-- X format (R199, R208): `fmt` is FN[5:2], `var` is FN[1:0]. -/
structure XOp where
  grd : Guard
  fmt : BitVec 4
  var : BitVec 2
  d : Spec
  a : Spec
  b : Spec
  c : Spec
  e : Spec
  ak : Bool
  bk : Bool
  sa : Bool
  sb : Bool
  accf : BitVec 4
  mode : BitVec 2
  sem : BitVec 8
  inc : BitVec 4
  rnd : BitVec 2
  kcnt : BitVec 12
deriving DecidableEq, Repr

/-- The combining steps of the atomics (R274). -/
inductive AtomOp where
  | add | and | or | xor | min | max | swap | cas | fadd
deriving DecidableEq, Repr

/-- What a home, or the owning core of a local store, is asked to perform as one indivisible step
(R271, R274, R275, R253, R266). `ty` is the element type, `hi` the odd 4-bit element. -/
inductive HomeOp where
  | load (ty : Ty) (hi : Bool)
  | store (ty : Ty) (hi : Bool) (v : Word)
  | ldw | ldc | feq | feset
  | stf (v : Word)
  | ste (v : Word)
  | atomic (op : AtomOp) (ty : Ty) (u cmp : Word)
  | rsta (ty : Ty) (u : Word)
  | park (v : Word)
  /-- an engine's write of the bytes of `mask`, with the bit `fe` when there is one (R180, R182) -/
  | put (v : Word) (mask : Nat) (fe : Option Bool) (poison : Bool)
  /-- an engine's read of a word with its bit, in one step (R180) -/
  | peek
deriving DecidableEq, Repr

/-- What a remote device answers to an access that this device sent it (R174, R177, R483). -/
inductive FabricAnswer where
  /-- performed with value `v` (a load, an atomic, FEQ) -/
  | done (v : Word)
  /-- a word with its bit and its poison, for an engine -/
  | both (v : Word) (full poison : Bool)
  /-- the word is poisoned, and its consumer is one that traps (R475) -/
  | poisoned
  /-- the word was in the unwanted state; `watch` says whether a watch stands at the remote home -/
  | unready (watch : Bool)
  /-- refused by the import table or the leaf there (R408, R483) -/
  | refused
deriving DecidableEq, Repr

/-- A FABRIC_ACCESS: one that arrives here from device `src`, domain `dom`, for the device-window
offset `off`, with the source's core, context and generation, whether it parks, and whether its watch goes back to
the head of its list (R81); the answer of a remote device to request `id` (a reply-slot request) or to the buffered
store `seq` of core `pid`; or a remote home's wake of a watch of a context here (R177). -/
inductive FabricArg where
  | inbound (src dom off : Nat) (op : HomeOp) (park : Bool) (pid ctx gen : Nat) (front : Bool)
  /-- a context of device `src` begins generation `gen` (R116, R177) -/
  | generation (src pid ctx gen : Nat)
  | wake (pid ctx gen : Nat) (changing : Bool)
  | answer (id : Nat) (r : FabricAnswer)
  | storeAnswer (pid seq : Nat) (ok : Bool)
  /-- the oldest flit that this device sends leaves through a port -/
  | depart
deriving DecidableEq, Repr

/-- Work of a millisecond that is charged on its own (R418): a copy record of a chain; a swap that brought a team in;
the move of a rank that a domain asked for, or none for a thermal migration. -/
inductive Job where
  | copy (chain : Nat)
  | swap (team : Nat)
  | move (dom : Option Nat)
deriving DecidableEq, Repr

/-- The unit whose work met a fault (R450). -/
inductive WorkUnit where
  | sweep (pid : Nat)
  | matrix (pid : Nat)
  | chain (h : Nat)
deriving DecidableEq, Repr

/-- A PRI response (R407, R467). -/
inductive PriResult where
  | success | invalidRequest | responseFailure
deriving DecidableEq, Repr

/-- One reading of a zone's sensors (R397, R421): flow, outlet and inlet temperature, the position of the valve, and
the core temperatures of the zone in row order, in the units of the registers. -/
structure Sensors where
  flow : Nat
  valve : Nat
  outT : Int
  inT : Int
  cores : List Int
deriving DecidableEq, Repr

/-- Where an error strikes a word (R474): in memory of any kind by its address, in the line of a slice, in a core's
data cache or constant path by the word, in an instruction-cache line. -/
inductive ErrPlace where
  | mem (addr : Nat)
  | slice (key word : Nat)
  | dcache (pid wk : Nat)
  | kcache (pid wk : Nat)
  | icache (pid line word : Nat)
deriving DecidableEq, Repr

/-- What an agent outside the contexts may write: a register without behaviour of its own
(R6, R386, R403, R404, R408, R412, R414, R421, R429, R434), by its place; what the driver and the host write in their
turn; and an error. -/
inductive RegPlace where
  /-- system register number of a core -/
  | core (pid num : Nat)
  /-- system register number of a die (400h–4FFh) -/
  | die (die num : Nat)
  /-- dev. register 500h + n -/
  | dev (num : Nat)
  /-- BAR0 offset -/
  | bar0 (off : Nat)
  /-- MBCMD, by an agent that lacks the privilege for the command -/
  | mbcmdDenied
  /-- cp.bpa, cp.bpc, cp.trbase of the debug block -/
  | bpa (n : Nat)
  | bpc (n : Nat)
  | trbase
  /-- the root page-table address of the resolvers (R99) -/
  | root
  /-- PERM by the scheduling firmware on entry `i` of the table of another core (R282): the written value is the mask -/
  | perm (pid i : Nat)
  /-- the trap entry that the driver registers for a domain (R440) -/
  | tvec (dom : Nat)
  /-- the enable of PRI, by system software (R467) -/
  | pri
  /-- the host's page tables for a page of a PASID (R402): bits [3:0] resident, executable, writable, readable, and
  from bit 12 the physical address of the page -/
  | hostPage (pasid page : Nat)
  /-- eight bytes of the host's memory at a physical address, stored by a processor of the host (R402) -/
  | hostMem (hpa : Nat)
  /-- a word that an error strikes (R474, R525). Bit 0: its full/empty bit is lost too; bit 1: the error is
  corrected, on an access -/
  | struck (p : ErrPlace)
deriving DecidableEq, Repr

/-- One constructor per row of the table. -/
inductive Instr where
  | nop
  | add (o : ROp)
  | sub (o : ROp)
  | addi (o : IOp)
  | mul (o : ROp)
  | mulh (o : ROp)
  | divI (o : ROp)
  | remI (o : ROp)
  | andI (o : ROp)
  | orI (o : ROp)
  | xorI (o : ROp)
  | andn (o : ROp)
  | shl (o : ROp)
  | shr (o : ROp)
  | sra (o : ROp)
  | rot (o : ROp)
  | clz (o : ROp)
  | ctz (o : ROp)
  | popc (o : ROp)
  | minI (o : ROp)
  | maxI (o : ROp)
  | cmp (o : ROp)
  | sel (o : ROp)
  | movi (o : IOp)
  | lea (o : ROp)
  | bfx (o : ROp)
  | bfi (o : ROp)
  | bswap (o : ROp)
  | movp (o : ROp)
  | pset (o : ROp)
  | fadd (o : ROp)
  | fsub (o : ROp)
  | fmul (o : ROp)
  | ffma (o : ROp)
  | fdiv (o : ROp)
  | fsqrt (o : ROp)
  | fmin (o : ROp)
  | fmax (o : ROp)
  | fcmp (o : ROp)
  | fcvt (o : ROp)
  | fclass (o : ROp)
  | fsgn (o : ROp)
  | br (o : BOp)
  | boc (o : BOp)
  | call (o : BOp)
  | ret (o : ROp)
  | jmp (o : ROp)
  | calli (o : ROp)
  | loopI (o : BOp)
  | yieldI (o : ROp)
  | park (o : ROp)
  | enter (o : IOp)
  | leave (o : ROp)
  | endI (o : ROp)
  | ld (o : MOp)
  | st (o : MOp)
  | ldw (o : MOp)
  | ldc (o : MOp)
  | stf (o : MOp)
  | ste (o : MOp)
  | feq (o : MOp)
  | feset (o : MOp)
  | ldl (o : MOp)
  | stl (o : MOp)
  | ldb (o : MOp)
  | stb (o : MOp)
  | ldk (o : MOp)
  | wld (o : MOp)
  | pfx (o : MOp)
  | acq (o : ROp)
  | rel (o : MOp)
  | fence (o : MOp)
  | aadd (o : MOp)
  | aand (o : MOp)
  | aor (o : MOp)
  | axor (o : MOp)
  | amin (o : MOp)
  | amax (o : MOp)
  | aswp (o : MOp)
  | acas (o : MOp)
  | afadd (o : MOp)
  | rsta (o : MOp)
  | swait (o : EOp)
  | ssig (o : EOp)
  | sset (o : EOp)
  | msend (o : EOp)
  | mrd (o : EOp)
  | bara (o : EOp)
  | barw (o : EOp)
  | doneI (o : ROp)
  | startI (o : EOp)
  | hchk (o : EOp)
  | rpop (o : EOp)
  | rdec (o : EOp)
  | take (o : EOp)
  | give (o : EOp)
  | mret (o : ROp)
  | vadd (o : VOp)
  | vsub (o : VOp)
  | vmul (o : VOp)
  | vfma (o : VOp)
  | vmin (o : VOp)
  | vmax (o : VOp)
  | vabs (o : VOp)
  | vcmp (o : VOp)
  | vsel (o : VOp)
  | vand (o : VOp)
  | vor (o : VOp)
  | vxor (o : VOp)
  | vshl (o : VOp)
  | vshr (o : VOp)
  | vcvt (o : VOp)
  | vexp2 (o : VOp)
  | vlog2 (o : VOp)
  | vrcp (o : VOp)
  | vrsq (o : VOp)
  | vred (o : VOp)
  | vscan (o : VOp)
  | vperm (o : VOp)
  | vgath (o : VOp)
  | vscat (o : VOp)
  | vqnt (o : VOp)
  | vdq (o : VOp)
  | vmov (o : VOp)
  | vld (o : VOp)
  | vst (o : VOp)
  | vmrg (o : VOp)
  | vbsr (o : VOp)
  | mld (o : XOp)
  | mst (o : XOp)
  | mma (o : XOp)
  | mzero (o : XOp)
  | mtrn (o : XOp)
  | mcvt (o : XOp)
  | mscl (o : XOp)
  | macc (o : XOp)
  | mstat (o : XOp)
  | capp (o : EOp)
  | cadv (o : EOp)
  | cseq (o : EOp)
  | clck (o : EOp)
  | culk (o : EOp)
  | evpop (o : EOp)
  | csrr (o : IOp)
  | csrw (o : IOp)
  | csrs (o : IOp)
  | csrc (o : IOp)
  | trap (o : IOp)
  | eret (o : ROp)
  | invl (o : ROp)
  | wbk (o : ROp)
  | perm (o : ROp)
  | bkpt (o : IOp)
  | markI (o : IOp)
  | dstp (o : ROp)
  /-- ISSUE_SELECTION (R28): each core cycle the selector issues one group from a ready context by rotation and the context-0 floor. -/
  | issueSelection (pid : Nat)
  /-- WINDOW_SPILL (R32): writes the oldest resident register half to the window stack. -/
  | windowSpill (pid ctx : Nat)
  /-- WINDOW_FILL (R32): fills a non-resident register half from the window stack. -/
  | windowFill (pid ctx : Nat)
  /-- LINE_FETCH (R487): a fetch line arrives, is parity-checked, refetched once or marked failed, and wakes the fetching context. -/
  | lineFetch (pid ctx : Nat)
  /-- LINE_REQUEST (R101): a home slice serves a line request, translating at the resolver and checking rights and owner. -/
  | lineRequest (pid line : Nat)
  /-- LINE_ARRIVAL (R74): a requested line arrives at the core cache, is held for waiting contexts and wakes them. -/
  | lineArrival (pid line : Nat)
  /-- HOME_STORE_PERFORM (R110): the home performs a buffered store, STE or FESET, registers the owner and acknowledges. -/
  | homeStorePerform (pid seq : Nat)
  /-- HOME_FULL_EMPTY_STEP (R271): the home performs a full/empty form, registering a watch or waking watches. -/
  | homeFullEmptyStep (id : Nat)
  /-- HOME_ATOMIC_STEP (R274): the home performs an atomic as one indivisible step. -/
  | homeAtomicStep (id : Nat)
  /-- NEAR_CACHE_ADD (R93): the near-cache adders add an RSTA operand into a word. -/
  | nearCacheAdd (id : Nat)
  /-- REPLY_ARRIVAL (R67): a reply reaches the context's reply slot and wakes the context. -/
  | replyArrival (id : Nat)
  /-- STORE_ENTRY_FAULT (R469): a store-buffer entry faults, posts a kind-04h record and holds a deferred trap. -/
  | storeEntryFault (pid seq : Nat)
  /-- TRAP_DELIVERY (R439): a held or precise trap is delivered, entering the handler in system mode. -/
  | trapDelivery (pid ctx : Nat)
  /-- MONITOR_TIMEOUT (R79): a monitor-parked context wakes after 65,536 core cycles. -/
  | monitorTimeout (pid ctx : Nat)
  /-- PARK_TIMEOUT (R253): a PARK's timeout expires and the context continues. -/
  | parkTimeout (pid ctx : Nat)
  /-- TIMED_REEXECUTE (R177): a context parked 16 µs without a watch executes its instruction again. -/
  | timedReexecute (pid ctx : Nat)
  /-- PARK_HEAP_TIMEOUT (R478): a context with a heap watch unwoken for 2^24 cycles executes again. -/
  | parkHeapTimeout (pid ctx : Nat)
  /-- BUSY_WAKE_TIMEOUT (R65): a context parked on BUSY reason 0 wakes no later than 2^20 cycles. -/
  | busyWakeTimeout (pid ctx : Nat)
  /-- WATCHDOG (R448): a context parked for 2^36 cycles raises 15h. -/
  | watchdog (pid ctx : Nat)
  /-- REFRESH_WINDOW_END (R95): a weight-store bank's refresh window ends and BUSY(5) waiters wake. -/
  | refreshWindowEnd (die bank : Nat)
  /-- LOAD_MESSAGE (R296): an owning core performs a remote load message. -/
  | loadMessage (id : Nat)
  /-- STORE_MESSAGE (R296): an owning core performs a remote store message, sub-byte by read-modify-write. -/
  | storeMessage (id : Nat)
  /-- FULL_EMPTY_MESSAGE (R296): an owning core performs a remote full/empty form with its watch. -/
  | fullEmptyMessage (id : Nat)
  /-- ATOMIC_MESSAGE (R296): an owning core performs a remote atomic. -/
  | atomicMessage (id : Nat)
  /-- SIGNAL_MESSAGE (R286): an owning core performs a remote semaphore signal. -/
  | signalMessage (id : Nat)
  /-- DECREMENT_MESSAGE (R39): an owning core decrements a dependence counter and pushes the record at zero. -/
  | decrementMessage (id : Nat)
  /-- ARRIVAL_MESSAGE (R297): the barrier unit counts an arrival and completes a phase at team.size arrivals. -/
  | arrivalMessage (id : Nat)
  /-- BARRIER_PHASE_ARRIVAL (R298): the new PH reaches a core and wakes parked BARA and BARW. -/
  | barrierPhaseArrival (pid : Nat)
  /-- PARK_MESSAGE (R253): an owning core performs a remote PARK check and registers its watch. -/
  | parkMessage (id : Nat)
  /-- MESSAGE_HANDLING_START (R293): a queued software message becomes current and its handler context starts. -/
  | messageHandlingStart (pid ctx : Nat)
  /-- MESSAGE_RETURN (R451): an undeliverable message returns to its sender, filling the slot or raising a trap. -/
  | messageReturn (id : Nat)
  /-- SWEEP_PERFORM (R317): the vector unit performs the next accepted sweep segment by segment. -/
  | sweepPerform (pid : Nat)
  /-- SWEEP_COMPLETE (R316): a sweep completes: writes acknowledged, locks and interlocks released, semaphore signalled. -/
  | sweepComplete (pid : Nat)
  /-- MATRIX_COMPLETE (R340): a matrix operation is performed and completes, releasing locks and signalling. -/
  | matrixComplete (pid : Nat)
  /-- WORK_FAULT (R450): accepted work meets a fault and stops, raising a deferred trap. -/
  | workFault (u : WorkUnit)
  /-- COPY_RECORD_START (R502): an engine takes a record when its wait and locks allow and checks it. -/
  | copyRecordStart (chain : Nat)
  /-- COPY_RECORD_ROW (R355): an engine moves one row of a record, waiting at source words as its mode requires. -/
  | copyRecordRow (chain : Nat)
  /-- COW (R360): an engine decrements a block count and clones the block when shared. -/
  | cowStep (chain : Nat)
  /-- COPY_RECORD_COMPLETE (R184): a record completes: acknowledged, locks released, sequence written, record posted, semaphore signalled. -/
  | copyRecordComplete (chain : Nat)
  /-- FOLLOW_ON_OFFER (R361): an engine offers a follow-on MMA image to a destination array. -/
  | followOnOffer (id : Nat)
  /-- EVENT_RECORD_POST (R368): a completion record is posted to the core event queue when space exists. -/
  | eventRecordPost (pid : Nat)
  /-- ATS_INVALIDATION (R173): the endpoint receives an ATS invalidation and drops translations and lines of the range. -/
  | atsInvalidation (pasid va size : Nat)
  /-- PRI_RESPONSE (R407): a PRI page response arrives and wakes ABSENT waiters or turns them into faults. -/
  | priResponse (pasid page : Nat) (res : PriResult)
  /-- DOORBELL_WRITE (R405): a host write to a doorbell page stores TAIL and fires the queue watch. -/
  | doorbellWrite (q tail : Nat)
  /-- TAIL_CHECK (R511): the command processor checks TAIL when the queue's line watch fires. -/
  | tailCheck (q : Nat)
  /-- LAUNCH (R375): a LAUNCH packet starts a grid after checking its tables and breakpoints. -/
  | launchPacket (q : Nat)
  /-- COPY_PACKET (R381): a COPY packet runs records on chain 63 of an engine. -/
  | copyPacket (q : Nat)
  /-- SIGNAL (R372): a SIGNAL packet adds to a signal word. -/
  | signalPacket (q : Nat)
  /-- WAIT (R372): a WAIT packet starts once its signal word reaches the threshold. -/
  | waitPacket (q : Nat)
  /-- WFILL (R382): a WFILL packet empties a die and fills its weight store. -/
  | wfillPacket (q : Nat)
  /-- MARKER (R383): a MARKER packet writes MARK and may raise the queue's interrupt. -/
  | markerPacket (q : Nat)
  /-- CKPT (R410): a CKPT packet stops partitions and streams them over Pelub. -/
  | ckptPacket (q : Nat)
  /-- PACKET_COMPLETION (R372): a packet completes and makes its signal with release. -/
  | packetCompletion (q idx : Nat)
  /-- DISPATCH_ROUND (R379): a die dispatcher visits dispatch queue heads and places teams. -/
  | dispatchRound (die : Nat)
  /-- QUANTUM_END (R54): a die's quantum expires and a resident team may be chosen for swap. -/
  | quantumEnd (die : Nat)
  /-- WHOLE_TEAM_SWAP (R54): a team is stopped, drained and saved to its save slot. -/
  | wholeTeamSwap (team : Nat)
  /-- SWAP_IN (R55): a swapped-out team is restored and its parked contexts resumed. -/
  | swapIn (team : Nat)
  /-- MIGRATION_REQUEST (R526): the firmware requests a thermal migration honoured at a clause edge, full park or 1 ms. -/
  | migrationRequest (pid : Nat)
  /-- SPATIAL_PRE_EMPTION (R56): a rank is stopped, saved and restored onto a reserved core. -/
  | spatialPreEmption (pid target : Nat)
  /-- TEAM_FAILURE (R460): a team fails, is stopped without save and its queue stopped. -/
  | teamFailure (pid : Nat)
  /-- DISPENSER_FLOOR (R43): every 64 µs a withheld grid's dispenser hands one record to the coolest zone's TAKE. -/
  | dispenserFloor (die : Nat)
  /-- DISPENSER_ENTRY_ERROR (R512): an uncorrectable dispenser entry is discarded and reported. -/
  | dispenserEntryError (die idx : Nat) (parityLost : Bool)
  /-- RAMP_WINDOW_BOUNDARY (R384): a 1 µs limiter window ends, ballast is set and reservations granted. -/
  | rampWindowBoundary
  /-- GRANT (R413): a GRANT flit sets the package's token grant. -/
  | grant (w0 w1 : Word) (now : Nat)
  /-- GRANT_EFFECTIVE (R413): a lowering GRANT takes effect at its time T. -/
  | grantEffective
  /-- LEND (R414): a LEND flit offers tokens until T, accepted or refused by the borrower. -/
  | lend (w0 w1 w2 rest : Word) (now : Nat)
  /-- RETURN (R414): a RETURN flit gives back or refuses a lease. -/
  | returnLease (w0 w2 : Word)
  /-- LEASE_EXPIRY (R414): a borrower subtracts a lease's tokens at T. -/
  | leaseExpiry (src id : Nat)
  /-- LEASE_REGAIN (R414): a lender regains an open lease's tokens at T + 1 ms. -/
  | leaseRegain (id : Nat)
  /-- GRANT_TIMEOUT (R519): after 1 s without a GRANT, GRANT is limited to 3,600. -/
  | grantTimeout
  /-- ZONE_DRAW_UPDATE (R417): a zone's draw is measured and SPENT set or cleared. -/
  | zoneDrawUpdate (zone watts : Nat)
  /-- CLOCK_ADJUST (R417): every 256 µs the controller steps zone core clocks down or up. -/
  | clockAdjust (zone : Nat)
  /-- CLOCK_CHANGE (R419): a new core clock step takes effect with voltage sequencing. -/
  | clockChange (pid n : Nat)
  /-- ZONE_BUDGET_WRITE (R415): a write of a zone budget register, discarded if it breaks the sum or step limits. -/
  | zoneBudgetWrite (zone : Nat) (v : Word)
  /-- FLOW_SHARE_WRITE (R422): a write of SHARE or FLOOR, discarded if effective shares would exceed 256. -/
  | flowShareWrite (zone : Nat) (v : Word)
  /-- ENERGY_BOOKING (R418): every 1 ms each domain's energy is added into its table word. -/
  | energyBooking (cores : List (Nat × Nat)) (jobs : List (Job × Nat)) (ballast : List (Nat × Nat)) (base upkeep : Nat)
  /-- CACHE_COUNTER_FLUSH (R484): every 1 ms slices add per-domain cache counts into their blocks. -/
  | cacheCounterFlush (die slice : Nat)
  /-- VALVE_STEP (R422): every 1 ms each valve moves one step toward its commanded flow. -/
  | valveStep (zone : Nat)
  /-- SENSOR_READING (R421): every 100 µs zone and core sensors are read and thresholds tested. -/
  | sensorReading (zone : Nat) (r : Sensors)
  /-- VALVE_FAULT (R514): a valve off its commanded position for 10 ms raises a valve-fault event. -/
  | valveFault (zone : Nat)
  /-- DRY_CHANNEL_EVACUATION (R515): amigra root advances the timed evacuation of a dry channel by one step. -/
  | dryChannelEvacuation (zone : Nat) (more : Bool)
  /-- CLUSTER_RETIRE (R516): a failing cluster is retired and replaced by a spare or withdrawn. -/
  | clusterRetire (die cluster : Nat)
  /-- PATROL_SCRUB (R98): patrol scrubbing reads and corrects a line, poisoning uncorrectable words. -/
  | patrolScrub (frame line words : Nat)
  /-- FIRMWARE_RELOAD (R518): on a missed report Amigra root verifies and reloads the scheduling firmware. -/
  | firmwareReload (verified : Bool)
  /-- PORT_TRAINING_LOSS (R520): a Pelub port loses training and traffic reroutes. -/
  | portTrainingLoss (port : Nat)
  /-- FABRIC_ACCESS (R408): a target device performs or refuses a fabric-window access by its import table. -/
  | fabricAccess (a : FabricArg)
  /-- FABRIC_TIMEOUT (R520): a fabric access unanswered for 1 ms is treated as refused. -/
  | fabricTimeout (id : Nat)
  /-- SET_FRAME_OWNER (R406): mailbox command 01h records a frame's owner. -/
  | setFrameOwner (frame : Nat) (v : Word)
  /-- CLEAR_FRAME_OWNER (R406): mailbox command 02h clears a frame's owner. -/
  | clearFrameOwner (frame : Nat)
  /-- WRITE_PERMISSION_ENTRY (R406): mailbox command 03h writes a core permission entry. -/
  | writePermissionEntry (arg0 arg1 arg2 : Word)
  /-- SET_QUEUE_STATE (R406): mailbox command 04h sets a queue's STATE. -/
  | setQueueState (arg0 arg1 : Word)
  /-- WRITE_HOME_GROUP_ENTRY (R406): mailbox command 05h writes a home-group table entry. -/
  | writeHomeGroupEntry (arg0 arg1 : Word)
  /-- PARTITION_RESET (R522): mailbox command 06h resets a partition while others run. -/
  | partitionReset (arg0 : Word)
  /-- ATTEST (R523): mailbox command 07h writes a signed attestation report. -/
  | attest (arg0 : Word)
  /-- SET_PARTITION_RESET_POLICY (R524): mailbox command 08h sets a partition's reset policy. -/
  | setPartitionResetPolicy (arg0 arg1 : Word)
  /-- MAILBOX_BAD_OP (R406): an undefined mailbox OP returns RESULT 02h. -/
  | mailboxBadOp (op : Nat)
  /-- TRACE_TIME_RECORD (R426): after 3FFFFh cycles without a record a core repeats its state record. -/
  | traceTimeRecord (pid : Nat)
  /-- TRACE_DRAIN (R430): a trace section's records are drained as a line to device memory. -/
  | traceDrain (pid : Nat)
  /-- FIELD_RECORD_COMMIT (R436): amigra root commits lifetime records to non-volatile storage. -/
  | fieldRecordCommit
  /-- ZONE_MINUTE_TICK (R436): each minute every zone adds 1 to its temperature bin. -/
  | zoneMinuteTick
  /-- REGISTER_WRITE (R6): a write to a register without behaviour of its own stores its RW fields. -/
  | registerWrite (r : RegPlace) (v : Word)
  /-- DEVICE_RESET (R95): device reset sets counters, registers and records to their reset values. -/
  | deviceReset
  /-- REGULATOR_DROOP (R525): a core's regulator falls below 95 % of its target for more than 20 ns, pausing that core's clock and counting a droop event. -/
  | regulatorDroop (pid : Nat)
  /-- PORT_TRAINING (R404): a Pelub port completes training and its PUP bit is set, so the port carries fabric traffic again. -/
  | portTraining (port : Nat)
  /-- PORT_TRAINING_LOST_FOR_1_S (R517): a Pelub port that has lost training stays untrained for more than 1 s, and the health word records condition 2 and becomes at least DEGRADED. -/
  | portTrainingLostFor1S (port : Nat)
  /-- IO_DIE_UNCORRECTABLE_ERROR (R517): an uncorrectable error strikes I/O-die state, and Amigra root sets the health word to FAILED and stops every queue. -/
  | ioDieUncorrectableError
  /-- HOLD_WINDOW_END (R74): a line held for a waiting context passes the end of its hold window, after which another fill may evict it and a load may miss again. -/
  | holdWindowEnd (pid ctx line : Nat)
deriving DecidableEq, Repr

end Sys2Proof
end

