-- ==== Sys2Proof/Decode.lean ====
section
/-! DEFINITION. The decoder and the encoder of the 96-bit slots (R190, R199–R211, R215), and the
encoding checks of R485 and R486. -/

namespace Sys2Proof

/-! ### Field codes -/

def Ty.code : Ty → Nat
  | .none => 0 | .i8 => 1 | .i16 => 2 | .i32 => 3 | .i64 => 4 | .n8 => 5 | .n16 => 6 | .n32 => 7
  | .n64 => 8 | .f64 => 9 | .f32 => 10 | .f16 => 11 | .bf16 => 12 | .e4m3 => 13 | .e5m2 => 14
  | .e2m1 => 15 | .l6 => 16 | .i4 => 17 | .n4 => 18

/-- The TYPE codes of R201; 13h to 1Fh are reserved. -/
def Ty.ofCode : Nat → Option Ty
  | 0 => some .none | 1 => some .i8 | 2 => some .i16 | 3 => some .i32 | 4 => some .i64
  | 5 => some .n8 | 6 => some .n16 | 7 => some .n32 | 8 => some .n64 | 9 => some .f64
  | 10 => some .f32 | 11 => some .f16 | 12 => some .bf16 | 13 => some .e4m3 | 14 => some .e5m2
  | 15 => some .e2m1 | 16 => some .l6 | 17 => some .i4 | 18 => some .n4 | _ => none

def Nra.code : Nra → Nat
  | .set => 0 | .branch => 1 | .park => 2 | .yield => 3

def Nra.ofCode (n : Nat) : Nra :=
  if n = 0 then .set else if n = 1 then .branch else if n = 2 then .park else .yield

def Ord.code : Ord → Nat
  | .none => 0 | .acq => 1 | .rel => 2 | .ar => 3

def Ord.ofCode (n : Nat) : Ord :=
  if n = 0 then .none else if n = 1 then .acq else if n = 2 then .rel else .ar

def Guard.code (g : Guard) : Nat := g.p.toNat + if g.neg then 8 else 0

def Guard.ofCode (n : Nat) : Guard := ⟨bitAt n 3, BitVec.ofNat 3 n⟩

def bcode (b : Bool) : Nat := if b then 1 else 0

/-- One value from fields (width, value), lowest first. -/
def pack : List (Nat × Nat) → Nat
  | [] => 0
  | (n, v) :: fs => v % 2 ^ n + 2 ^ n * pack fs

/-- The values of fields of the widths given, lowest first. -/
def unpack : List Nat → Nat → List Nat
  | [], _ => []
  | n :: ns, w => w % 2 ^ n :: unpack ns (w / 2 ^ n)

/-! ### The formats (R199): fields from bit 0 up, below OPC -/

def ROp.fields (o : ROp) : List (Nat × Nat) :=
  [(44, 0), (3, o.rm.toNat), (1, bcode o.sat), (4, o.sel.toNat), (6, o.c.toNat), (6, o.b.toNat),
   (6, o.a.toNat), (6, o.d.toNat), (3, o.var.toNat), (5, o.ty.code), (4, o.grd.code)]

def ROp.read (w : Nat) : Option ROp :=
  match unpack [44, 3, 1, 4, 6, 6, 6, 6, 3, 5, 4] w with
  | [_, rm, sat, sel, c, b, a, d, var, ty, grd] =>
    (Ty.ofCode ty).map fun t =>
      { grd := .ofCode grd, ty := t, var := .ofNat 3 var, d := .ofNat 6 d, a := .ofNat 6 a,
        b := .ofNat 6 b, c := .ofNat 6 c, sel := .ofNat 4 sel, sat := sat == 1, rm := .ofNat 3 rm }
  | _ => none

def IOp.fields (o : IOp) : List (Nat × Nat) :=
  [(64, o.imm.toNat), (6, o.a.toNat), (6, o.d.toNat), (3, o.var.toNat), (5, o.ty.code),
   (4, o.grd.code)]

def IOp.read (w : Nat) : Option IOp :=
  match unpack [64, 6, 6, 3, 5, 4] w with
  | [imm, a, d, var, ty, grd] =>
    (Ty.ofCode ty).map fun t =>
      { grd := .ofCode grd, ty := t, var := .ofNat 3 var, d := .ofNat 6 d, a := .ofNat 6 a,
        imm := .ofNat 64 imm }
  | _ => none

def MOp.fields (o : MOp) : List (Nat × Nat) :=
  [(24, o.disp.toNat), (32, o.tgt.toNat), (2, o.nra.code), (6, o.b.toNat), (6, o.a.toNat),
   (6, o.d.toNat), (1, bcode o.v0), (2, o.ord.code), (5, o.ty.code), (4, o.grd.code)]

def MOp.read (w : Nat) : Option MOp :=
  match unpack [24, 32, 2, 6, 6, 6, 1, 2, 5, 4] w with
  | [disp, tgt, nra, b, a, d, v0, ord, ty, grd] =>
    (Ty.ofCode ty).map fun t =>
      { grd := .ofCode grd, ty := t, ord := .ofCode ord, v0 := v0 == 1, d := .ofNat 6 d,
        a := .ofNat 6 a, b := .ofNat 6 b, nra := .ofCode nra, tgt := .ofNat 32 tgt,
        disp := .ofNat 24 disp }
  | _ => none

def EOp.fields (o : EOp) : List (Nat × Nat) :=
  [(16, o.imm.toNat), (8, o.sem.toNat), (32, o.tgt.toNat), (2, o.nra.code), (6, o.b.toNat),
   (6, o.a.toNat), (6, o.d.toNat), (1, bcode o.v0), (2, o.ord.code), (5, 0), (4, o.grd.code)]

def EOp.read (w : Nat) : Option EOp :=
  match unpack [16, 8, 32, 2, 6, 6, 6, 1, 2, 5, 4] w with
  | [imm, sem, tgt, nra, b, a, d, v0, ord, _, grd] =>
    some { grd := .ofCode grd, ord := .ofCode ord, v0 := v0 == 1, d := .ofNat 6 d, a := .ofNat 6 a,
           b := .ofNat 6 b, nra := .ofCode nra, tgt := .ofNat 32 tgt, sem := .ofNat 8 sem,
           imm := .ofNat 16 imm }
  | _ => none

def BOp.fields (o : BOp) : List (Nat × Nat) :=
  [(24, o.imm.toNat), (32, o.tgt.toNat), (2, 0), (6, o.b.toNat), (6, o.a.toNat), (6, o.d.toNat),
   (8, 0), (4, o.grd.code)]

def BOp.read (w : Nat) : Option BOp :=
  match unpack [24, 32, 2, 6, 6, 6, 8, 4] w with
  | [imm, tgt, _, b, a, d, _, grd] =>
    some { grd := .ofCode grd, d := .ofNat 6 d, a := .ofNat 6 a, b := .ofNat 6 b,
           tgt := .ofNat 32 tgt, imm := .ofNat 24 imm }
  | _ => none

def VOp.fields (o : VOp) : List (Nat × Nat) :=
  [(4, o.low.toNat), (1, bcode o.bS), (1, bcode o.aS), (4, o.inc.toNat), (8, o.sem.toNat),
   (10, o.sb.toNat), (10, o.sa.toNat), (10, o.sd.toNat), (12, o.cnt.toNat), (6, o.b.toNat),
   (6, o.a.toNat), (6, o.d.toNat), (1, bcode o.var), (5, o.ty.code), (4, o.grd.code)]

def VOp.read (w : Nat) : Option VOp :=
  match unpack [4, 1, 1, 4, 8, 10, 10, 10, 12, 6, 6, 6, 1, 5, 4] w with
  | [low, bS, aS, inc, sem, sb, sa, sd, cnt, b, a, d, var, ty, grd] =>
    (Ty.ofCode ty).map fun t =>
      { grd := .ofCode grd, ty := t, var := var == 1, d := .ofNat 6 d, a := .ofNat 6 a,
        b := .ofNat 6 b, cnt := .ofNat 12 cnt, sd := .ofNat 10 sd, sa := .ofNat 10 sa,
        sb := .ofNat 10 sb, sem := .ofNat 8 sem, inc := .ofNat 4 inc, aS := aS == 1, bS := bS == 1,
        low := .ofNat 4 low }
  | _ => none

def XOp.fields (o : XOp) : List (Nat × Nat) :=
  [(12, 0), (12, o.kcnt.toNat), (2, o.rnd.toNat), (4, o.inc.toNat), (8, o.sem.toNat),
   (2, o.mode.toNat), (4, o.accf.toNat), (1, bcode o.sb), (1, bcode o.sa), (1, bcode o.bk),
   (1, bcode o.ak), (6, o.e.toNat), (6, o.c.toNat), (6, o.b.toNat), (6, o.a.toNat), (6, o.d.toNat),
   (2, o.var.toNat), (4, o.fmt.toNat), (4, o.grd.code)]

def XOp.read (w : Nat) : Option XOp :=
  match unpack [12, 12, 2, 4, 8, 2, 4, 1, 1, 1, 1, 6, 6, 6, 6, 6, 2, 4, 4] w with
  | [_, kcnt, rnd, inc, sem, mode, accf, sb, sa, bk, ak, e, c, b, a, d, var, fmt, grd] =>
    some { grd := .ofCode grd, fmt := .ofNat 4 fmt, var := .ofNat 2 var, d := .ofNat 6 d,
           a := .ofNat 6 a, b := .ofNat 6 b, c := .ofNat 6 c, e := .ofNat 6 e, ak := ak == 1,
           bk := bk == 1, sa := sa == 1, sb := sb == 1, accf := .ofNat 4 accf, mode := .ofNat 2 mode,
           sem := .ofNat 8 sem, inc := .ofNat 4 inc, rnd := .ofNat 2 rnd, kcnt := .ofNat 12 kcnt }
  | _ => none

/-! ### The encoding checks (R485, R486) -/

/-- g0–g31. -/
def isG (s : Spec) : Bool := s.toNat < 32
/-- g1–g31. -/
def isG1 (s : Spec) : Bool := 0 < s.toNat && s.toNat < 32
/-- v0–v15. -/
def isV (s : Spec) : Bool := 32 ≤ s.toNat && s.toNat < 48
/-- t0–t7. -/
def isT (s : Spec) : Bool := 48 ≤ s.toNat && s.toNat < 56
/-- p0–p7. -/
def isP (s : Spec) : Bool := 56 ≤ s.toNat
/-- An even register from g2 to g30, the first of a pair (R208, R334, R363). -/
def isPair (s : Spec) : Bool := 2 ≤ s.toNat && s.toNat ≤ 30 && s.toNat % 2 == 0

/-- R200: GRD 1000b is reserved. -/
def Guard.ok (g : Guard) : Bool := !(g.neg && g.p == 0)

def Ty.isInt (t : Ty) : Bool := 1 ≤ t.code && t.code ≤ 8
def Ty.isF (t : Ty) : Bool := 9 ≤ t.code && t.code ≤ 12
/-- The set I of R321. -/
def Ty.isI (t : Ty) : Bool := t.isInt || t == .i4 || t == .n4
def Ty.is4 (t : Ty) : Bool := t == .e2m1 || t == .i4 || t == .n4
def Ty.isWord (t : Ty) : Bool := t == .i64 || t == .n64 || t == .f64
def Ty.isAtom (t : Ty) : Bool := t == .i32 || t == .i64 || t == .n32 || t == .n64

/-- R204, R205: TGT is zero unless NRA is 01b, and names a slot 0 to 4. -/
def tgtOk (nra : Nra) (tgt : BitVec 32) : Bool :=
  (nra == .branch || tgt == 0) && tgt.toNat % 8 ≤ 4

/-- MOD zero. -/
def ROp.mod0 (o : ROp) : Bool := o.sel == 0 && !o.sat && o.rm == 0
/-- MOD[2:0] a rounding mode of R133. -/
def ROp.rmOk (o : ROp) : Bool := o.rm.toNat ≤ 4
/-- Every field but OPC and GRD zero. -/
def ROp.bare (o : ROp) : Bool :=
  o.grd.ok && o.ty == .none && o.var == 0 && o.d == 0 && o.a == 0 && o.b == 0 && o.c == 0 && o.mod0
/-- The two-source integer group (R226). -/
def ROp.int2 (sat : Bool) (o : ROp) : Bool :=
  o.grd.ok && o.ty.isInt && o.var == 0 && isG o.d && isG o.a && isG o.b && o.c == 0 && o.sel == 0 &&
  o.rm == 0 && (sat || !o.sat)
/-- The unary integer group (R229). -/
def ROp.int1 (o : ROp) : Bool :=
  o.grd.ok && o.ty.isInt && o.var == 0 && isG o.d && isG o.a && o.b == 0 && o.c == 0 && o.mod0
/-- The two-source float group (R238). -/
def ROp.flt2 (o : ROp) : Bool :=
  o.grd.ok && o.ty.isF && o.var == 0 && isG o.d && isG o.a && isG o.b && o.c == 0 && o.sel == 0 &&
  o.rmOk
/-- A instruction on general registers that has no type and no modifier. -/
def ROp.plain (o : ROp) : Bool := o.grd.ok && o.ty == .none && o.var == 0 && o.mod0

def IOp.sys (o : IOp) (bound : Nat) : Bool :=
  o.grd.ok && o.ty == .none && o.var == 0 && o.imm.toNat < bound

/-- The parts common to the memory group (R257). -/
def MOp.base (o : MOp) : Bool := o.grd.ok && isG o.a && isG o.b && tgtOk o.nra o.tgt
/-- LD, ST, LDK, LDL, STL (R261). -/
def MOp.elem (o : MOp) : Bool :=
  o.base && isG o.d && o.ty != .none && o.ord == .none && (!o.v0 || o.ty.is4)
/-- LDW, LDC, STF, STE (R261). -/
def MOp.fe (o : MOp) : Bool := o.base && isG o.d && o.ty.isWord && !o.v0
/-- The atomics (R261). -/
def MOp.atom (o : MOp) : Bool := o.base && isG o.d && o.ty.isAtom && !o.v0
/-- No type, no ordering, no VAR. -/
def MOp.plain (o : MOp) : Bool := o.base && o.ty == .none && o.ord == .none && !o.v0

/-- The parts common to the E format (R283): NRA and TGT. -/
def EOp.base (o : EOp) : Bool := o.grd.ok && tgtOk o.nra o.tgt
def EOp.noVar (o : EOp) : Bool := o.base && o.ord == .none && !o.v0

/-- TYPE codes that WLD and tagof list (R269). -/
def Ty.wldOk (t : Ty) : Bool :=
  !(t == .i16 || t == .n16 || t == .n32 || t == .n64)

/-- One operand field of a sweep (R310). -/
def vopd (s : Spec) (step : BitVec 10) (scalar allow : Bool) : Bool :=
  if isV s then step == 0 && !scalar
  else isG s && (!scalar || (allow && step == 0))

/-- A memory operand of a sweep. -/
def vmem (s : Spec) (scalar : Bool) : Bool := isG s && !scalar

/-- The rounding field of a sweep that rounds, and no rounding on integers (R320). -/
def VOp.rnd (o : VOp) (t : Ty) (sat : Bool) : Bool :=
  (if t.isF then o.low.toNat % 8 ≤ 4 else o.low.toNat % 8 == 0) && (sat || o.low.toNat < 8)
def VOp.base (o : VOp) : Bool := o.grd.ok && o.cnt != 0 && vopd o.d o.sd false false
def VOp.binary (o : VOp) (sA sB : Bool) : Bool :=
  o.base && vopd o.a o.sa o.aS sA && vopd o.b o.sb o.bS sB && !o.var
def VOp.noB (o : VOp) : Bool := o.sb == 0 && !o.bS
def VOp.unary (o : VOp) (sA : Bool) : Bool :=
  o.base && vopd o.a o.sa o.aS sA && o.b == 0 && o.noB && !o.var
/-- VRED and VSCAN (R325, R326). A rounding code is allowed with .add alone: DESIGN CHOICE, log entry 119. -/
def VOp.reduce (o : VOp) : Bool :=
  o.base && vopd o.a o.sa o.aS false && o.b.toNat < 3 && o.noB && (o.ty.isF || o.ty.isI) &&
  o.rnd o.ty (o.b == 0) && (o.b == 0 || o.low == 0)
/-- VQNT and VDQ (R329, R330). -/
def VOp.quant (o : VOp) : Bool :=
  o.base && vmem o.d false && vmem o.a o.aS && (o.ty == .e2m1 || o.ty == .e4m3 || o.ty == .e5m2) &&
  (o.b.toNat == 10 || o.b.toNat == 12) && o.sd == 0 && o.sa == 0 && o.noB && o.low == 0

/-- A tile or pair operand (R208, R500), with its signedness bit on a pair. -/
def xopd (s : Spec) (k : Bool) (sgn : Bool) (fmt kcnt : Nat) : Bool :=
  if k then isPair s && (!sgn || (8 ≤ fmt && fmt ≤ 11)) else isT s && s.toNat - 48 + kcnt ≤ 8
/-- The accumulator field (R337). -/
def XOp.acc (o : XOp) : Bool := if o.mode.getLsbD 0 then isT o.d else isG1 o.d
def accfOk (n : Nat) : Bool := n == 1 || n == 2 || n == 12 || n == 13
/-- The accumulator format of an operand format, by the rows of R140. -/
def accOfTag (t : Nat) : Nat :=
  if t = 1 then 1 else if t ≤ 7 then 2 else if t ≤ 11 then 13 else 12
def XOp.noA (o : XOp) : Bool := o.a == 0 && !o.ak && !o.sa
def XOp.noB (o : XOp) : Bool := o.b == 0 && !o.bk && !o.sb
def XOp.tagOk (o : XOp) : Bool := o.fmt != 0 && o.fmt != 15
/-- The scale base field, with .sc and without. -/
def XOp.sc (o : XOp) : Bool := o.var.getLsbD 1
def XOp.scOk (o : XOp) : Bool :=
  if o.sc then isG1 o.e && (o.fmt == 5 || o.fmt == 6 || o.fmt == 7) else o.e == 0 && o.fmt != 7
def XOp.one (o : XOp) : Bool := o.grd.ok && o.c == 0 && o.kcnt == 1

/-- The system register numbers that R392 lists. -/
def csrListed (n : Nat) : Bool :=
  n ≤ 6 || (8 ≤ n && n ≤ 0xA) || (0x10 ≤ n && n ≤ 0x12) || (0x20 ≤ n && n ≤ 0x24) ||
  (0x100 ≤ n && n ≤ 0x106) || (0x108 ≤ n && n ≤ 0x11C) || (0x120 ≤ n && n ≤ 0x122) ||
  (0x140 ≤ n && n ≤ 0x15F) || (0x200 ≤ n && n ≤ 0x23F) || (0x300 ≤ n && n ≤ 0x303) ||
  (0x310 ≤ n && n ≤ 0x313) || (0x340 ≤ n && n ≤ 0x37F) || n == 0x400 || n == 0x401 ||
  (0x410 ≤ n && n ≤ 0x43F) || (0x440 ≤ n && n ≤ 0x479) || (0x500 ≤ n && n ≤ 0x502)

/-- R486: the slot is an instruction of the manual. Machine events are none. RND is zero on MLD, MST, MZERO, MTRN and
MSTAT: DESIGN CHOICE, log entry 117. -/
def legal : Instr → Bool
  | .nop => true
  | .add o | .sub o | .mul o => o.int2 true
  | .mulh o | .divI o | .remI o | .andI o | .orI o | .xorI o | .andn o | .shl o | .shr o | .sra o
  | .rot o | .minI o | .maxI o => o.int2 false
  | .addi o => o.grd.ok && o.ty.isInt && o.var.toNat ≤ 1 && isG o.d && isG o.a
  | .movi o => o.grd.ok && o.ty == .none && o.var == 0 && isG o.d && o.a == 0
  | .clz o | .ctz o | .popc o => o.int1
  | .bswap o => o.int1 && o.ty != .i8 && o.ty != .n8
  | .cmp o => o.grd.ok && o.ty.isInt && o.var == 0 && isP o.d && isG o.a && isG o.b && o.c == 0 &&
      o.sel.toNat ≤ 5 && !o.sat && o.rm == 0
  | .sel o => o.plain && isG o.d && isG o.a && isG o.b && isP o.c
  | .lea o => o.grd.ok && o.ty == .none && o.var == 0 && isG o.d && isG o.a && isG o.b && o.c == 0 &&
      o.sel.toNat ≤ 7 && !o.sat && o.rm == 0
  | .bfx o => o.grd.ok && (o.ty == .i64 || o.ty == .n64) && o.var == 0 && isG o.d && isG o.a &&
      isG o.b && o.c == 0 && o.mod0
  | .bfi o => o.plain && isG o.d && isG o.a && isG o.b && isG o.c
  | .movp o => o.grd.ok && o.ty == .none && o.var == 0 && o.b == 0 && o.c == 0 && !o.sat &&
      o.rm == 0 &&
      ((o.sel == 0 && ((isG o.d && isP o.a) || (isP o.d && isG o.a))) ||
       (o.sel == 1 && ((isG o.d && o.a == 0x38) || (o.d == 0x38 && isG o.a))))
  | .pset o => o.grd.ok && o.ty == .none && o.var == 0 && isP o.d && isP o.a && isP o.b && o.c == 0 &&
      o.sel.toNat ≤ 3 && !o.sat && o.rm == 0
  | .fadd o | .fsub o | .fmul o | .fdiv o => o.flt2
  | .fmin o | .fmax o => o.flt2 && o.mod0
  | .ffma o => o.grd.ok && o.ty.isF && o.var == 0 && isG o.d && isG o.a && isG o.b && isG o.c &&
      o.sel == 0 && o.rmOk
  | .fsqrt o => o.grd.ok && o.ty.isF && o.var == 0 && isG o.d && isG o.a && o.b == 0 && o.c == 0 &&
      o.sel == 0 && !o.sat && o.rmOk
  | .fcmp o => o.grd.ok && o.ty.isF && o.var == 0 && isP o.d && isG o.a && isG o.b && o.c == 0 &&
      o.sel.toNat ≤ 7 && !o.sat && o.rm == 0
  | .fcvt o => o.grd.ok && o.ty != .none && o.var == 0 && isG o.d && isG o.a && o.b == 0 &&
      1 ≤ o.c.toNat && o.c.toNat ≤ 18 && o.sel == 0 && o.rmOk
  | .fclass o => o.grd.ok && 9 ≤ o.ty.code && o.ty.code ≤ 15 && o.var == 0 && isG o.d && isG o.a &&
      o.b == 0 && o.c == 0 && o.mod0
  | .fsgn o => o.grd.ok && o.ty.isF && o.var == 0 && isG o.d && isG o.a && isG o.b && o.c == 0 &&
      o.sel.toNat ≤ 2 && !o.sat && o.rm == 0
  | .br o | .call o => o.grd.ok && o.d == 0 && o.a == 0 && o.b == 0 && o.imm == 0 &&
      o.tgt.toNat % 8 ≤ 4
  | .boc o => o.grd.ok && o.d == 0 && o.a == 0 && o.b == 0 && o.imm.toNat < 256 &&
      o.tgt.toNat % 8 ≤ 4
  | .loopI o => o.grd.ok && isG1 o.d && o.a == 0 && o.b == 0 && o.imm == 0 && o.tgt.toNat % 8 ≤ 4
  | .ret o | .yieldI o | .leave o | .endI o | .doneI o | .mret o | .eret o | .acq o => o.bare
  | .jmp o | .calli o | .dstp o => o.plain && o.d == 0 && isG o.a && o.b == 0 && o.c == 0
  | .park o => o.plain && o.d == 0 && isG o.a && isG o.b && isG o.c
  | .enter o => o.sys 65536 && o.d == 0 && o.a == 0
  | .ld o | .st o | .ldl o | .stl o | .ldk o => o.elem
  | .ldw o | .ldc o | .stf o | .ste o => o.fe
  | .feq o => o.base && (isG o.d || isP o.d) && o.ty == .none && !o.v0
  | .feset o => o.base && o.d == 0 && o.ty == .none && !o.v0
  | .ldb o => o.base && isG o.d && (o.ty == .i64 || o.ty == .n64) && o.ord == .none && !o.v0 &&
      o.disp.toNat < 64
  | .stb o => o.plain && isG o.d && o.disp.toNat < 64
  | .wld o => o.base && (isV o.d || isT o.d) && o.ty.wldOk && o.ord == .none && !o.v0
  | .pfx o => o.plain && o.d == 0
  | .rel o | .fence o => o.plain && o.d == 0 && o.a == 0 && o.b == 0 && o.disp == 0
  | .aadd o | .aand o | .aor o | .axor o | .amin o | .amax o | .aswp o | .acas o => o.atom
  | .afadd o => o.base && isG o.d && (o.ty == .f64 || o.ty == .f32) && !o.v0
  | .rsta o => o.base && o.d == 0 && (o.ty == .i64 || o.ty == .f64 || o.ty == .f32) && !o.v0 &&
      (o.ord == .none || o.ord == .rel)
  | .swait o => o.base && (o.ord == .none || o.ord == .acq) && o.d == 0 && o.a == 0 && isG o.b
  | .ssig o => o.base && (o.ord == .none || o.ord == .rel) && o.d == 0 && isG o.b &&
      (if o.v0 then isG1 o.a else o.a == 0)
  | .sset o => o.noVar && o.nra == .set && o.d == 0 && o.a == 0 && isG o.b
  | .msend o => o.base && o.ord == .none && isG o.d && isG1 o.a && isG o.b && o.sem.toNat < 4 &&
      (!o.v0 || o.sem == 0)
  | .mrd o => o.noVar && isG o.d && o.a == 0 && o.b == 0 && o.sem == 0 && o.imm.toNat ≤ 2
  | .bara o => o.base && (o.ord == .none || o.ord == .rel) && !o.v0 && o.d == 0 && o.a == 0 &&
      o.b == 0 && o.sem == 0 && o.imm == 0
  | .barw o => o.base && (o.ord == .none || o.ord == .acq) && !o.v0 && o.d == 0 && o.a == 0 &&
      o.b == 0 && o.sem == 0 && o.imm == 0
  | .startI o => o.noVar && isG o.d && isG1 o.a && o.b == 0 && o.sem == 0 && o.imm == 0
  | .hchk o | .take o | .give o => o.noVar && o.d == 0 && isG1 o.a && o.b == 0 && o.sem == 0 &&
      o.imm == 0
  | .rpop o => o.noVar && isG o.d && o.a == 0 && o.b == 0 && o.sem == 0 && o.imm == 0
  | .rdec o => o.noVar && o.d == 0 && isG1 o.a && isG o.b && o.sem == 0 && o.imm == 0
  | .capp o => o.noVar && o.d == 0 && isG o.a && isG o.b && o.sem == 0 && o.imm == 0
  | .cadv o => o.noVar && o.d == 0 && o.a == 0 && isG o.b && o.sem == 0 && o.imm == 0
  | .cseq o => o.base && (o.ord == .none || o.ord == .acq) && !o.v0 && o.d == 0 && isG o.a &&
      isG o.b && o.sem == 0 && o.imm == 0
  | .clck o => o.noVar && isG o.d && isG o.a && o.b == 0 && o.sem == 0 && 1 ≤ o.imm.toNat &&
      o.imm.toNat ≤ 16384
  | .culk o => o.noVar && o.nra == .set && o.d == 0 && isG o.a && o.b == 0 && o.sem == 0 && o.imm == 0
  | .evpop o => o.noVar && isPair o.d && o.a == 0 && o.b == 0 && o.sem == 0 && o.imm == 0
  | .vadd o | .vsub o | .vmul o => o.binary true true && (o.ty.isF || o.ty.isI) && o.rnd o.ty true
  | .vfma o => o.binary true true && o.ty.isF && o.rnd o.ty true
  | .vmin o | .vmax o => o.binary true true && (o.ty.isF || o.ty.isI) && o.low == 0
  | .vabs o => o.unary false && (if o.ty.isF then o.low == 0 else o.ty.isI && o.rnd o.ty true)
  | .vcmp o => o.binary true true &&
      (if o.ty.isF then o.low.toNat ≤ 7 else o.ty.isI && o.low.toNat ≤ 5)
  | .vsel o => o.binary true true && o.ty != .none && o.low == 0
  | .vand o | .vor o | .vxor o => o.binary true true && o.low == 0
  | .vshl o | .vshr o => o.binary false true && o.ty.isI && o.low == 0
  | .vcvt o => o.base && vopd o.a o.sa o.aS false && o.noB && !o.var && o.ty != .none &&
      1 ≤ o.b.toNat && o.b.toNat ≤ 18 && o.low.toNat % 8 ≤ 4
  | .vexp2 o | .vlog2 o | .vrcp o | .vrsq o => o.unary false && o.ty.isF && o.rnd o.ty true
  | .vred o => o.reduce && o.sd == 0
  | .vscan o => o.reduce
  | .vperm o => o.binary true false && o.ty != .none && !o.ty.is4 && o.low == 0
  | .vgath o => o.binary false false && vmem o.a o.aS && o.ty != .none && !o.ty.is4 && o.low == 0
  | .vscat o => o.binary false false && vmem o.d false && o.ty != .none && !o.ty.is4 && o.low == 0
  | .vqnt o => o.quant && (!o.var || o.ty == .e2m1)
  | .vdq o => o.quant && !o.var
  | .vmov o => o.unary true && o.low == 0
  | .vld o => o.unary false && vmem o.a o.aS && o.low == 0
  | .vst o => o.unary false && vmem o.d false && o.low == 0
  | .vmrg o => o.binary false false && vmem o.a o.aS && vmem o.b o.bS && o.sa == 0 && o.sb == 0 &&
      o.ty.isInt && o.low == 0
  | .vbsr o => o.base && isPair o.a && o.sa == 0 && !o.aS && vopd o.b o.sb o.bS true && o.ty.isAtom &&
      o.low == 0
  | .mld o => o.grd.ok && isT o.d && o.ak && xopd o.a o.ak o.sa o.fmt.toNat 0 && o.noB && o.c == 0 &&
      o.tagOk && o.scOk && o.mode.toNat ≤ 1 && (o.mode == 0 || o.fmt == 7) && o.accf == 0 &&
      o.rnd == 0 && o.kcnt != 0 && o.d.toNat - 48 + o.kcnt.toNat ≤ 8 &&
      (!o.var.getLsbD 0 || (o.fmt == 5 && o.kcnt.toNat % 2 == 0) ||
        ((o.fmt == 7 || o.fmt == 10) && o.kcnt.toNat % 4 == 0))
  | .mst o => o.grd.ok && o.d == 0 && !o.ak && xopd o.a o.ak o.sa o.fmt.toNat o.kcnt.toNat && o.bk &&
      xopd o.b o.bk o.sb o.fmt.toNat 0 && o.c == 0 && o.tagOk && o.scOk && !o.var.getLsbD 0 &&
      o.mode == 0 && o.accf == 0 && o.rnd == 0 && o.kcnt != 0
  | .mma o => o.grd.ok && o.acc && o.mode.toNat ≤ 1 && xopd o.a o.ak o.sa o.fmt.toNat o.kcnt.toNat &&
      xopd o.b o.bk o.sb o.fmt.toNat o.kcnt.toNat && o.c == 0 && o.e == 0 && o.var == 0 &&
      1 ≤ o.fmt.toNat && o.fmt.toNat ≤ 12 && !(o.fmt == 7 && (o.ak || o.bk)) &&
      o.accf.toNat == accOfTag o.fmt.toNat && o.kcnt != 0
  | .mzero o => o.one && o.acc && o.mode.toNat ≤ 1 && o.noA && o.noB && o.e == 0 && o.fmt == 0 &&
      o.var == 0 && accfOk o.accf.toNat && o.rnd == 0
  | .mtrn o => o.one && isT o.d && !o.ak && isT o.a && o.noB && o.e == 0 && o.fmt == 0 && o.var == 0 &&
      o.mode == 0 && o.accf == 0 && o.rnd == 0
  | .mcvt o => o.one && o.acc && o.noA && o.noB && isT o.e && o.var == 0 && o.tagOk && o.fmt != 7 &&
      accfOk o.accf.toNat
  | .mscl o => o.one && o.acc && o.noA && isG1 o.b && !o.bk && !o.sb && o.e == 0 && o.fmt == 0 &&
      o.var == 0 && (o.accf == 1 || o.accf == 2)
  | .macc o => o.one && o.acc && o.mode.toNat ≤ 1 && xopd o.a o.ak o.sa o.fmt.toNat 1 && o.noB &&
      o.e == 0 && o.var == 0 && accfOk o.accf.toNat && o.fmt == o.accf
  | .mstat o => o.grd.ok && isG1 o.d && o.noA && o.noB && o.c == 0 && o.e == 0 && o.fmt == 0 &&
      o.var == 0 && o.mode == 0 && o.accf == 0 && o.rnd == 0 && o.kcnt == 0 && o.sem == 0 && o.inc == 0
  | .csrr o => o.sys 4096 && isG o.d && o.a == 0 && csrListed o.imm.toNat
  | .csrw o | .csrs o | .csrc o => o.sys 4096 && o.d == 0 && isG o.a && csrListed o.imm.toNat
  | .trap o | .bkpt o => o.sys 65536 && o.d == 0 && o.a == 0
  | .markI o => o.sys 262144 && o.d == 0 && o.a == 0
  | .invl o => o.grd.ok && o.ty == .none && o.var.toNat ≤ 1 && o.d == 0 && isG o.a && isG o.b &&
      o.c == 0 && o.mod0
  | .wbk o | .perm o => o.plain && o.d == 0 && isG o.a && isG o.b && o.c == 0
  | _ => false

/-! ### The opcode map (R215) -/

/-- The major opcode and the fields below it; none for a machine event. -/
def opcFields : Instr → Option (Nat × List (Nat × Nat))
  | .nop => some (0, [(88, 0)])
  | .add o => some (0x01, ROp.fields o)
  | .sub o => some (0x02, ROp.fields o)
  | .addi o => some (0x03, IOp.fields o)
  | .mul o => some (0x04, ROp.fields o)
  | .mulh o => some (0x05, ROp.fields o)
  | .divI o => some (0x06, ROp.fields o)
  | .remI o => some (0x07, ROp.fields o)
  | .andI o => some (0x08, ROp.fields o)
  | .orI o => some (0x09, ROp.fields o)
  | .xorI o => some (0x0A, ROp.fields o)
  | .andn o => some (0x0B, ROp.fields o)
  | .shl o => some (0x0C, ROp.fields o)
  | .shr o => some (0x0D, ROp.fields o)
  | .sra o => some (0x0E, ROp.fields o)
  | .rot o => some (0x0F, ROp.fields o)
  | .clz o => some (0x10, ROp.fields o)
  | .ctz o => some (0x11, ROp.fields o)
  | .popc o => some (0x12, ROp.fields o)
  | .minI o => some (0x13, ROp.fields o)
  | .maxI o => some (0x14, ROp.fields o)
  | .cmp o => some (0x15, ROp.fields o)
  | .sel o => some (0x16, ROp.fields o)
  | .movi o => some (0x17, IOp.fields o)
  | .lea o => some (0x18, ROp.fields o)
  | .bfx o => some (0x19, ROp.fields o)
  | .bfi o => some (0x1A, ROp.fields o)
  | .bswap o => some (0x1B, ROp.fields o)
  | .movp o => some (0x1C, ROp.fields o)
  | .pset o => some (0x1D, ROp.fields o)
  | .fadd o => some (0x20, ROp.fields o)
  | .fsub o => some (0x21, ROp.fields o)
  | .fmul o => some (0x22, ROp.fields o)
  | .ffma o => some (0x23, ROp.fields o)
  | .fdiv o => some (0x24, ROp.fields o)
  | .fsqrt o => some (0x25, ROp.fields o)
  | .fmin o => some (0x26, ROp.fields o)
  | .fmax o => some (0x27, ROp.fields o)
  | .fcmp o => some (0x28, ROp.fields o)
  | .fcvt o => some (0x29, ROp.fields o)
  | .fclass o => some (0x2A, ROp.fields o)
  | .fsgn o => some (0x2B, ROp.fields o)
  | .br o => some (0x30, BOp.fields o)
  | .boc o => some (0x31, BOp.fields o)
  | .call o => some (0x32, BOp.fields o)
  | .ret o => some (0x33, ROp.fields o)
  | .jmp o => some (0x34, ROp.fields o)
  | .calli o => some (0x35, ROp.fields o)
  | .loopI o => some (0x36, BOp.fields o)
  | .yieldI o => some (0x37, ROp.fields o)
  | .park o => some (0x38, ROp.fields o)
  | .enter o => some (0x39, IOp.fields o)
  | .leave o => some (0x3A, ROp.fields o)
  | .endI o => some (0x3B, ROp.fields o)
  | .ld o => some (0x40, MOp.fields o)
  | .st o => some (0x41, MOp.fields o)
  | .ldw o => some (0x42, MOp.fields o)
  | .ldc o => some (0x43, MOp.fields o)
  | .stf o => some (0x44, MOp.fields o)
  | .ste o => some (0x45, MOp.fields o)
  | .feq o => some (0x46, MOp.fields o)
  | .feset o => some (0x47, MOp.fields o)
  | .ldl o => some (0x48, MOp.fields o)
  | .stl o => some (0x49, MOp.fields o)
  | .ldb o => some (0x4A, MOp.fields o)
  | .stb o => some (0x4B, MOp.fields o)
  | .ldk o => some (0x4C, MOp.fields o)
  | .wld o => some (0x4D, MOp.fields o)
  | .pfx o => some (0x4E, MOp.fields o)
  | .acq o => some (0x4F, ROp.fields o)
  | .rel o => some (0x50, MOp.fields o)
  | .fence o => some (0x51, MOp.fields o)
  | .aadd o => some (0x60, MOp.fields o)
  | .aand o => some (0x61, MOp.fields o)
  | .aor o => some (0x62, MOp.fields o)
  | .axor o => some (0x63, MOp.fields o)
  | .amin o => some (0x64, MOp.fields o)
  | .amax o => some (0x65, MOp.fields o)
  | .aswp o => some (0x66, MOp.fields o)
  | .acas o => some (0x67, MOp.fields o)
  | .afadd o => some (0x68, MOp.fields o)
  | .rsta o => some (0x69, MOp.fields o)
  | .swait o => some (0x70, EOp.fields o)
  | .ssig o => some (0x71, EOp.fields o)
  | .sset o => some (0x72, EOp.fields o)
  | .msend o => some (0x73, EOp.fields o)
  | .mrd o => some (0x74, EOp.fields o)
  | .bara o => some (0x75, EOp.fields o)
  | .barw o => some (0x76, EOp.fields o)
  | .doneI o => some (0x77, ROp.fields o)
  | .startI o => some (0x78, EOp.fields o)
  | .hchk o => some (0x79, EOp.fields o)
  | .rpop o => some (0x7A, EOp.fields o)
  | .rdec o => some (0x7B, EOp.fields o)
  | .take o => some (0x7C, EOp.fields o)
  | .give o => some (0x7D, EOp.fields o)
  | .mret o => some (0x7E, ROp.fields o)
  | .vadd o => some (0x80, VOp.fields o)
  | .vsub o => some (0x81, VOp.fields o)
  | .vmul o => some (0x82, VOp.fields o)
  | .vfma o => some (0x83, VOp.fields o)
  | .vmin o => some (0x84, VOp.fields o)
  | .vmax o => some (0x85, VOp.fields o)
  | .vabs o => some (0x86, VOp.fields o)
  | .vcmp o => some (0x87, VOp.fields o)
  | .vsel o => some (0x88, VOp.fields o)
  | .vand o => some (0x89, VOp.fields o)
  | .vor o => some (0x8A, VOp.fields o)
  | .vxor o => some (0x8B, VOp.fields o)
  | .vshl o => some (0x8C, VOp.fields o)
  | .vshr o => some (0x8D, VOp.fields o)
  | .vcvt o => some (0x8E, VOp.fields o)
  | .vexp2 o => some (0x8F, VOp.fields o)
  | .vlog2 o => some (0x90, VOp.fields o)
  | .vrcp o => some (0x91, VOp.fields o)
  | .vrsq o => some (0x92, VOp.fields o)
  | .vred o => some (0x93, VOp.fields o)
  | .vscan o => some (0x94, VOp.fields o)
  | .vperm o => some (0x95, VOp.fields o)
  | .vgath o => some (0x96, VOp.fields o)
  | .vscat o => some (0x97, VOp.fields o)
  | .vqnt o => some (0x98, VOp.fields o)
  | .vdq o => some (0x99, VOp.fields o)
  | .vmov o => some (0x9A, VOp.fields o)
  | .vld o => some (0x9B, VOp.fields o)
  | .vst o => some (0x9C, VOp.fields o)
  | .vmrg o => some (0x9D, VOp.fields o)
  | .vbsr o => some (0x9E, VOp.fields o)
  | .mld o => some (0xB0, XOp.fields o)
  | .mst o => some (0xB1, XOp.fields o)
  | .mma o => some (0xB2, XOp.fields o)
  | .mzero o => some (0xB3, XOp.fields o)
  | .mtrn o => some (0xB4, XOp.fields o)
  | .mcvt o => some (0xB5, XOp.fields o)
  | .mscl o => some (0xB6, XOp.fields o)
  | .macc o => some (0xB7, XOp.fields o)
  | .mstat o => some (0xB8, XOp.fields o)
  | .capp o => some (0xC0, EOp.fields o)
  | .cadv o => some (0xC1, EOp.fields o)
  | .cseq o => some (0xC2, EOp.fields o)
  | .clck o => some (0xC3, EOp.fields o)
  | .culk o => some (0xC4, EOp.fields o)
  | .evpop o => some (0xC5, EOp.fields o)
  | .csrr o => some (0xD0, IOp.fields o)
  | .csrw o => some (0xD1, IOp.fields o)
  | .csrs o => some (0xD2, IOp.fields o)
  | .csrc o => some (0xD3, IOp.fields o)
  | .trap o => some (0xD4, IOp.fields o)
  | .eret o => some (0xD5, ROp.fields o)
  | .invl o => some (0xD6, ROp.fields o)
  | .wbk o => some (0xD7, ROp.fields o)
  | .perm o => some (0xD8, ROp.fields o)
  | .bkpt o => some (0xD9, IOp.fields o)
  | .markI o => some (0xDA, IOp.fields o)
  | .dstp o => some (0xDB, ROp.fields o)
  | _ => none

/-- The instruction of opcode `opc` with the fields of `w` (R215). -/
def rawAt (opc w : Nat) : Option Instr :=
  match opc with
  | 0x00 => some .nop
  | 0x01 => (ROp.read w).map .add
  | 0x02 => (ROp.read w).map .sub
  | 0x03 => (IOp.read w).map .addi
  | 0x04 => (ROp.read w).map .mul
  | 0x05 => (ROp.read w).map .mulh
  | 0x06 => (ROp.read w).map .divI
  | 0x07 => (ROp.read w).map .remI
  | 0x08 => (ROp.read w).map .andI
  | 0x09 => (ROp.read w).map .orI
  | 0x0A => (ROp.read w).map .xorI
  | 0x0B => (ROp.read w).map .andn
  | 0x0C => (ROp.read w).map .shl
  | 0x0D => (ROp.read w).map .shr
  | 0x0E => (ROp.read w).map .sra
  | 0x0F => (ROp.read w).map .rot
  | 0x10 => (ROp.read w).map .clz
  | 0x11 => (ROp.read w).map .ctz
  | 0x12 => (ROp.read w).map .popc
  | 0x13 => (ROp.read w).map .minI
  | 0x14 => (ROp.read w).map .maxI
  | 0x15 => (ROp.read w).map .cmp
  | 0x16 => (ROp.read w).map .sel
  | 0x17 => (IOp.read w).map .movi
  | 0x18 => (ROp.read w).map .lea
  | 0x19 => (ROp.read w).map .bfx
  | 0x1A => (ROp.read w).map .bfi
  | 0x1B => (ROp.read w).map .bswap
  | 0x1C => (ROp.read w).map .movp
  | 0x1D => (ROp.read w).map .pset
  | 0x20 => (ROp.read w).map .fadd
  | 0x21 => (ROp.read w).map .fsub
  | 0x22 => (ROp.read w).map .fmul
  | 0x23 => (ROp.read w).map .ffma
  | 0x24 => (ROp.read w).map .fdiv
  | 0x25 => (ROp.read w).map .fsqrt
  | 0x26 => (ROp.read w).map .fmin
  | 0x27 => (ROp.read w).map .fmax
  | 0x28 => (ROp.read w).map .fcmp
  | 0x29 => (ROp.read w).map .fcvt
  | 0x2A => (ROp.read w).map .fclass
  | 0x2B => (ROp.read w).map .fsgn
  | 0x30 => (BOp.read w).map .br
  | 0x31 => (BOp.read w).map .boc
  | 0x32 => (BOp.read w).map .call
  | 0x33 => (ROp.read w).map .ret
  | 0x34 => (ROp.read w).map .jmp
  | 0x35 => (ROp.read w).map .calli
  | 0x36 => (BOp.read w).map .loopI
  | 0x37 => (ROp.read w).map .yieldI
  | 0x38 => (ROp.read w).map .park
  | 0x39 => (IOp.read w).map .enter
  | 0x3A => (ROp.read w).map .leave
  | 0x3B => (ROp.read w).map .endI
  | 0x40 => (MOp.read w).map .ld
  | 0x41 => (MOp.read w).map .st
  | 0x42 => (MOp.read w).map .ldw
  | 0x43 => (MOp.read w).map .ldc
  | 0x44 => (MOp.read w).map .stf
  | 0x45 => (MOp.read w).map .ste
  | 0x46 => (MOp.read w).map .feq
  | 0x47 => (MOp.read w).map .feset
  | 0x48 => (MOp.read w).map .ldl
  | 0x49 => (MOp.read w).map .stl
  | 0x4A => (MOp.read w).map .ldb
  | 0x4B => (MOp.read w).map .stb
  | 0x4C => (MOp.read w).map .ldk
  | 0x4D => (MOp.read w).map .wld
  | 0x4E => (MOp.read w).map .pfx
  | 0x4F => (ROp.read w).map .acq
  | 0x50 => (MOp.read w).map .rel
  | 0x51 => (MOp.read w).map .fence
  | 0x60 => (MOp.read w).map .aadd
  | 0x61 => (MOp.read w).map .aand
  | 0x62 => (MOp.read w).map .aor
  | 0x63 => (MOp.read w).map .axor
  | 0x64 => (MOp.read w).map .amin
  | 0x65 => (MOp.read w).map .amax
  | 0x66 => (MOp.read w).map .aswp
  | 0x67 => (MOp.read w).map .acas
  | 0x68 => (MOp.read w).map .afadd
  | 0x69 => (MOp.read w).map .rsta
  | 0x70 => (EOp.read w).map .swait
  | 0x71 => (EOp.read w).map .ssig
  | 0x72 => (EOp.read w).map .sset
  | 0x73 => (EOp.read w).map .msend
  | 0x74 => (EOp.read w).map .mrd
  | 0x75 => (EOp.read w).map .bara
  | 0x76 => (EOp.read w).map .barw
  | 0x77 => (ROp.read w).map .doneI
  | 0x78 => (EOp.read w).map .startI
  | 0x79 => (EOp.read w).map .hchk
  | 0x7A => (EOp.read w).map .rpop
  | 0x7B => (EOp.read w).map .rdec
  | 0x7C => (EOp.read w).map .take
  | 0x7D => (EOp.read w).map .give
  | 0x7E => (ROp.read w).map .mret
  | 0x80 => (VOp.read w).map .vadd
  | 0x81 => (VOp.read w).map .vsub
  | 0x82 => (VOp.read w).map .vmul
  | 0x83 => (VOp.read w).map .vfma
  | 0x84 => (VOp.read w).map .vmin
  | 0x85 => (VOp.read w).map .vmax
  | 0x86 => (VOp.read w).map .vabs
  | 0x87 => (VOp.read w).map .vcmp
  | 0x88 => (VOp.read w).map .vsel
  | 0x89 => (VOp.read w).map .vand
  | 0x8A => (VOp.read w).map .vor
  | 0x8B => (VOp.read w).map .vxor
  | 0x8C => (VOp.read w).map .vshl
  | 0x8D => (VOp.read w).map .vshr
  | 0x8E => (VOp.read w).map .vcvt
  | 0x8F => (VOp.read w).map .vexp2
  | 0x90 => (VOp.read w).map .vlog2
  | 0x91 => (VOp.read w).map .vrcp
  | 0x92 => (VOp.read w).map .vrsq
  | 0x93 => (VOp.read w).map .vred
  | 0x94 => (VOp.read w).map .vscan
  | 0x95 => (VOp.read w).map .vperm
  | 0x96 => (VOp.read w).map .vgath
  | 0x97 => (VOp.read w).map .vscat
  | 0x98 => (VOp.read w).map .vqnt
  | 0x99 => (VOp.read w).map .vdq
  | 0x9A => (VOp.read w).map .vmov
  | 0x9B => (VOp.read w).map .vld
  | 0x9C => (VOp.read w).map .vst
  | 0x9D => (VOp.read w).map .vmrg
  | 0x9E => (VOp.read w).map .vbsr
  | 0xB0 => (XOp.read w).map .mld
  | 0xB1 => (XOp.read w).map .mst
  | 0xB2 => (XOp.read w).map .mma
  | 0xB3 => (XOp.read w).map .mzero
  | 0xB4 => (XOp.read w).map .mtrn
  | 0xB5 => (XOp.read w).map .mcvt
  | 0xB6 => (XOp.read w).map .mscl
  | 0xB7 => (XOp.read w).map .macc
  | 0xB8 => (XOp.read w).map .mstat
  | 0xC0 => (EOp.read w).map .capp
  | 0xC1 => (EOp.read w).map .cadv
  | 0xC2 => (EOp.read w).map .cseq
  | 0xC3 => (EOp.read w).map .clck
  | 0xC4 => (EOp.read w).map .culk
  | 0xC5 => (EOp.read w).map .evpop
  | 0xD0 => (IOp.read w).map .csrr
  | 0xD1 => (IOp.read w).map .csrw
  | 0xD2 => (IOp.read w).map .csrs
  | 0xD3 => (IOp.read w).map .csrc
  | 0xD4 => (IOp.read w).map .trap
  | 0xD5 => (ROp.read w).map .eret
  | 0xD6 => (ROp.read w).map .invl
  | 0xD7 => (ROp.read w).map .wbk
  | 0xD8 => (ROp.read w).map .perm
  | 0xD9 => (IOp.read w).map .bkpt
  | 0xDA => (IOp.read w).map .markI
  | 0xDB => (ROp.read w).map .dstp
  | _ => none

/-- The instruction an opcode and its fields stand for, before the checks of R486. -/
def rawDecode (w : Nat) : Option Instr := rawAt (w / 2 ^ 88) w

/-- The 96 bits of an instruction (R190); none for a machine event. -/
def encode (i : Instr) : Option Nat :=
  (opcFields i).map fun p => pack (p.2 ++ [(8, p.1)])

/-- The instruction in a slot. A slot with a bit set that the format leaves zero, or that breaks a
check of R486, holds none (R485, R486). -/
def decodeSlot (w : Nat) : Option Instr :=
  match rawDecode w with
  | some i => if legal i && encode i == some w then some i else none
  | none => none

/-- The twelve bytes of a slot as a fetch line stores them, lowest first (R190). -/
def slotBytes (w : Nat) : List Byte := bytesOf w 12

/-- The instruction in twelve bytes of a fetch line. -/
def decodeBytes (bs : List Byte) : Option Instr :=
  if bs.length = 12 then decodeSlot (ofBytes bs) else none

/-- The decoder on a word of the table: `nbits` bits `w`, every higher bit of the slot zero. -/
def decodeTableWord (nbits w : Nat) : Option Instr :=
  decodeBytes (slotBytes (w % 2 ^ min nbits 96))

/-- The general registers that an instruction writes by its D field, and LOOP's counter: the
registers that R196 compares between the members of a pair. -/
def destSpecs : Instr → List Spec
  | .add o | .sub o | .mul o | .mulh o | .divI o | .remI o | .andI o | .orI o | .xorI o | .andn o
  | .shl o | .shr o | .sra o | .rot o | .minI o | .maxI o | .clz o | .ctz o | .popc o | .bswap o
  | .cmp o | .sel o | .lea o | .bfx o | .bfi o | .pset o | .fadd o | .fsub o | .fmul o | .fdiv o
  | .fmin o | .fmax o | .ffma o | .fsqrt o | .fcmp o | .fcvt o | .fclass o | .fsgn o => [o.d]
  | .movp o => if o.sel == 1 && isP o.d then [0x39, 0x3A, 0x3B, 0x3C, 0x3D, 0x3E, 0x3F] else [o.d]
  | .addi o | .movi o => [o.d]
  | .loopI o => [o.d]
  | .call _ | .calli _ => [0x18]
  | .ld o | .ldw o | .ldc o | .feq o | .ldl o | .ldb o | .ldk o | .wld o | .aadd o | .aand o | .aor o
  | .axor o | .amin o | .amax o | .aswp o | .acas o | .afadd o => [o.d]
  | .mrd o | .rpop o | .clck o => [o.d]
  | .evpop o => [o.d, o.d + 1]
  | .mstat o => [o.d]
  | _ => []

end Sys2Proof
end

