-- ==== Sys2Proof/Machine/Formats.lean ====
section
/-! DEFINITION. Number formats, exact values and rounding (R119–R145). An exact value is a dyadic
number: every operand is one, and an operation whose result is none (a quotient, a root, 2^x, log2)
is carried to far more bits than any format has, with a last bit that says "and more" (sticky), so
that the one rounding of R132 picks what the exact value would. -/

namespace Sys2Proof

/-- An exact value of R132: NaN, an infinity, or (−1)^neg × m × 2^e. A zero keeps its sign. -/
inductive Val where
  | nan
  | inf (neg : Bool)
  | fin (neg : Bool) (m : Nat) (e : Int)
deriving DecidableEq, Repr

/-- The rounding modes of R133. -/
inductive Rm where
  | rne | rtz | rup | rdn | rna
deriving DecidableEq, Repr

/-- The mode of a 3-bit code; the codes above 4 are no instruction (R486). -/
def Rm.ofCode (n : Nat) : Rm :=
  if n = 1 then .rtz else if n = 2 then .rup else if n = 3 then .rdn else if n = 4 then .rna else .rne

/-- A binary floating-point format (R119): exponent and fraction widths, bias, the code of the
largest finite magnitude, the canonical NaN (R122), and whether it has infinities. -/
structure Fmt where
  eb : Nat
  fb : Nat
  bias : Nat
  maxCode : Nat
  nan : Nat
  hasInf : Bool
  hasNan : Bool
deriving DecidableEq, Repr

def Fmt.width (f : Fmt) : Nat := 1 + f.eb + f.fb

def fmtOf : Ty → Option Fmt
  | .f64 => some ⟨11, 52, 1023, 0x7FEFFFFFFFFFFFFF, 0x7FF8000000000000, true, true⟩
  | .f32 => some ⟨8, 23, 127, 0x7F7FFFFF, 0x7FC00000, true, true⟩
  | .f16 => some ⟨5, 10, 15, 0x7BFF, 0x7E00, true, true⟩
  | .bf16 => some ⟨8, 7, 127, 0x7F7F, 0x7FC0, true, true⟩
  | .e4m3 => some ⟨4, 3, 7, 0x7E, 0x7F, false, true⟩
  | .e5m2 => some ⟨5, 2, 15, 0x7B, 0x7E, true, true⟩
  | .e2m1 => some ⟨2, 1, 1, 0x7, 0, false, false⟩
  | _ => none

/-- width(T) of R258; 64 for code 00h, the lane width of R311. -/
def Ty.width : Ty → Nat
  | .none | .i64 | .n64 | .f64 => 64
  | .i32 | .n32 | .f32 => 32
  | .i16 | .n16 | .f16 | .bf16 => 16
  | .i8 | .n8 | .e4m3 | .e5m2 | .l6 => 8
  | .e2m1 | .i4 | .n4 => 4

def Ty.signed : Ty → Bool
  | .i8 | .i16 | .i32 | .i64 | .i4 => true
  | _ => false

def Ty.integer (t : Ty) : Bool := t.isI

/-- lo(T) and hi(T): the bounds of an integer format (R125). -/
def Ty.lo (t : Ty) : Int := if t.signed then -((2 ^ (t.width - 1) : Nat) : Int) else 0
def Ty.hi (t : Ty) : Int :=
  if t.signed then ((2 ^ (t.width - 1) : Nat) : Int) - 1 else ((2 ^ t.width : Nat) : Int) - 1

/-- The format tag of R119 and R125 as a type; tags 0 and 15 name none. -/
def Ty.ofTag : Nat → Option Ty
  | 1 => some .f64 | 2 => some .f32 | 3 => some .f16 | 4 => some .bf16 | 5 => some .e4m3
  | 6 => some .e5m2 | 7 => some .e2m1 | 8 => some .i8 | 9 => some .n8 | 10 => some .i4
  | 11 => some .n4 | 12 => some .l6 | 13 => some .i32 | 14 => some .i64 | _ => none

/-- tagof(T) of R312: the table of R269, and 0 for the types without a tag. -/
def Ty.tag : Ty → Nat
  | .f64 => 1 | .f32 => 2 | .f16 => 3 | .bf16 => 4 | .e4m3 => 5 | .e5m2 => 6 | .e2m1 => 7
  | .i8 => 8 | .n8 => 9 | .i4 => 10 | .n4 => 11 | .l6 => 12 | .i32 => 13 | .i64 => 14 | _ => 0

/-! ### Reading (R120, R124, R128) -/

def Fmt.val (f : Fmt) (x : Nat) : Val :=
  let s := bitAt x (f.eb + f.fb)
  let e := fld x f.fb f.eb
  let fr := fld x 0 f.fb
  let top := 2 ^ f.eb - 1
  if e = top ∧ f.hasInf ∧ fr = 0 then .inf s
  else if e = top ∧ f.hasNan ∧ (f.hasInf ∨ fr = 2 ^ f.fb - 1) then .nan
  else if e = 0 then .fin s fr (1 - (f.bias : Int) - f.fb)
  else .fin s (2 ^ f.fb + fr) ((e : Int) - f.bias - f.fb)

/-- The table T of R128. -/
def l6T (f : Nat) : Nat := if f = 0 then 256 else if f = 1 then 304 else if f = 2 then 362 else 431

/-- The tabled magnitude of code m ≥ 1 in units of 2^−12 (R128), exact: it is a multiple of 2^−12. -/
def l6Mag (m : Nat) : Nat := l6T (m % 4) * 2 ^ (m / 4)

def l6Val (x : Nat) : Val :=
  let m := x % 32
  if m = 0 then .fin false 0 0 else .fin (bitAt x 5) (l6Mag m) (-12)

def intVal (x : Int) : Val := .fin (x < 0) x.natAbs 0

/-- The integer a pattern stands for in an integer format (R125). -/
def Ty.int (t : Ty) (x : Nat) : Int :=
  if t.signed then sextInt x t.width else ((x % 2 ^ t.width : Nat) : Int)

/-- The value of the low bits of `x` in format `t`. -/
def Ty.val (t : Ty) (x : Nat) : Val :=
  match fmtOf t with
  | some f => f.val x
  | .none => if t = .l6 then l6Val x else intVal (t.int x)

/-! ### Rounding (R132–R134) -/

/-- Nearest multiple of 2^q: the quotient, chosen among floor and floor + 1 by the mode. -/
def quantize (M : Rm) (neg : Bool) (m : Nat) (e q : Int) : Nat :=
  if q ≤ e then m * 2 ^ (e - q).toNat
  else
    let d := 2 ^ (q - e).toNat
    let lo := m / d
    let r := m % d
    if r = 0 then lo
    else match M with
      | .rtz => lo
      | .rup => if neg then lo else lo + 1
      | .rdn => if neg then lo + 1 else lo
      | .rne => if 2 * r < d then lo else if d < 2 * r then lo + 1 else lo + lo % 2
      | .rna => if 2 * r < d then lo else lo + 1

def Fmt.signBit (f : Fmt) (neg : Bool) : Nat := if neg then 2 ^ (f.eb + f.fb) else 0

/-- big of R132 for a value beyond the largest finite; `isInf` when the value is an infinity. -/
def Fmt.big (f : Fmt) (neg : Bool) (M : Rm) (sat isInf : Bool) : Nat :=
  let mx := f.signBit neg + f.maxCode
  if !isInf && (M == .rtz || (M == .rup && neg) || (M == .rdn && !neg)) then mx
  else if sat then mx
  else if f.hasInf then f.signBit neg + (2 ^ f.eb - 1) * 2 ^ f.fb
  else if f.hasNan then f.nan
  else mx

/-- round(x, F, M, sat) of R132 as a pattern. -/
def Fmt.round (f : Fmt) (M : Rm) (sat : Bool) : Val → Nat
  | .nan => f.nan
  | .inf s => f.big s M sat true
  | .fin s m e =>
    if m = 0 then f.signBit s
    else
      let emin : Int := 1 - (f.bias : Int)
      let q : Int := max ((Nat.log2 m : Int) + e) emin - f.fb
      let y := quantize M s m e q
      let (y, q) := if 2 ^ (f.fb + 1) ≤ y then (y / 2, q + 1) else (y, q)
      let code := if y < 2 ^ f.fb then y
        else (q + f.fb + f.bias).toNat * 2 ^ f.fb + (y - 2 ^ f.fb)
      if code ≤ f.maxCode then f.signBit s + code else f.big s M sat false

/-- R134: rounded to an integer, then clamped to [lo, hi]; NaN gives 0. -/
def roundInt (M : Rm) (lo hi : Int) : Val → Int
  | .nan => 0
  | .inf s => if s then lo else hi
  | .fin s m e =>
    let n : Int := quantize M s m e 0
    max lo (min hi (if s then -n else n))

/-- The pattern of A·2^−12 units compared: sign of m·2^e − t·2^−12 as an ordering. -/
def cmpUnits (m : Nat) (e : Int) (t : Nat) : Ordering :=
  if -12 ≤ e then compare (m * 2 ^ (e + 12).toNat) t
  else compare m (t * 2 ^ (-12 - e).toNat)

/-- The largest code k ≤ n whose tabled magnitude is at most m·2^e (code 0 is zero). -/
def l6Below (m : Nat) (e : Int) : Nat → Nat
  | 0 => 0
  | k + 1 => if cmpUnits m e (l6Mag (k + 1)) != .lt then k + 1 else l6Below m e k

/-- Conversion to L6 (R131). -/
def roundL6 (M : Rm) : Val → Nat
  | .nan => 0
  | .inf s => 31 + if s then 32 else 0
  | .fin s m e =>
    let k := l6Below m e 31
    let lo := if k = 0 then 0 else l6Mag k
    let exact := cmpUnits m e lo == .eq
    let c := if exact || k == 31 then k
      else
        -- twice the value against the sum of the neighbours
        let side := cmpUnits (2 * m) e (lo + l6Mag (k + 1))
        match M with
        | .rtz => k
        | .rup => if s then k else k + 1
        | .rdn => if s then k + 1 else k
        | .rne => if side == .lt then k else if side == .gt then k + 1 else k + k % 2
        | .rna => if side == .lt then k else k + 1
    if c = 0 then 0 else c + if s then 32 else 0

/-- An integer at the width of an integer format: clamped or its low bits (R135). -/
def Ty.wrapInt (t : Ty) (sat : Bool) (x : Int) : Nat :=
  toBits (if sat then max t.lo (min t.hi x) else x) t.width

/-- Conversion of the pattern `x` of format `ts` to format `td` (R136, R242): the pattern at
width(td). -/
def convert (td ts : Ty) (M : Rm) (sat : Bool) (x : Nat) : Nat :=
  if td.integer && ts.integer then td.wrapInt sat (ts.int x)
  else if td.integer then toBits (roundInt M td.lo td.hi (ts.val x)) td.width
  else if td = .l6 then roundL6 M (ts.val x)
  else match fmtOf td with
    | some f => f.round M sat (ts.val x)
    | none => 0

/-! ### Exact arithmetic (R132, R238, R239, R142) -/

def Val.isNan : Val → Bool
  | .nan => true
  | _ => false

def Val.neg : Val → Val
  | .nan => .nan
  | .inf s => .inf !s
  | .fin s m e => .fin (!s) m e

def Val.abs : Val → Val
  | .nan => .nan
  | .inf _ => .inf false
  | .fin _ m e => .fin false m e

/-- Signed integer of a finite value scaled to exponent `q ≤ e`. -/
def scaled (s : Bool) (m : Nat) (e q : Int) : Int :=
  let n : Int := (m * 2 ^ (e - q).toNat : Nat)
  if s then -n else n

/-- The exact sum; a zero sum has the sign of R132 (IEEE 754: of like-signed zeros their sign,
otherwise +0, and −0 under RDN). -/
def Val.add (M : Rm) : Val → Val → Val
  | .nan, _ => .nan
  | _, .nan => .nan
  | .inf s, .inf t => if s = t then .inf s else .nan
  | .inf s, _ => .inf s
  | _, .inf t => .inf t
  | .fin s m e, .fin t n g =>
    if m = 0 ∧ n = 0 then .fin (if s = t then s else M == .rdn) 0 0
    else
      let q := min e g
      let x := scaled s m e q + scaled t n g q
      if x = 0 then .fin (M == .rdn) 0 0 else .fin (x < 0) x.natAbs q

def Val.mul : Val → Val → Val
  | .nan, _ => .nan
  | _, .nan => .nan
  | .inf s, .inf t => .inf (s != t)
  | .inf s, .fin t n _ => if n = 0 then .nan else .inf (s != t)
  | .fin s m _, .inf t => if m = 0 then .nan else .inf (s != t)
  | .fin s m e, .fin t n g => .fin (s != t) (m * n) (e + g)

/-- A quotient of naturals to at least 80 bits, sticky. -/
def quot (s : Bool) (a b : Nat) (e : Int) : Val :=
  let k := 80 + (Nat.log2 b + 1 - Nat.log2 a)
  let n := a * 2 ^ k
  if n % b = 0 then .fin s (n / b) (e - k) else .fin s (2 * (n / b) + 1) (e - k - 1)

/-- a / b (R238). -/
def Val.div : Val → Val → Val
  | .nan, _ => .nan
  | _, .nan => .nan
  | .inf _, .inf _ => .nan
  | .inf s, .fin t _ _ => .inf (s != t)
  | .fin s _ _, .inf t => .fin (s != t) 0 0
  | .fin s m e, .fin t n g =>
    if n = 0 then if m = 0 then .nan else .inf (s != t)
    else if m = 0 then .fin (s != t) 0 0
    else quot (s != t) m n (e - g)

/-- The integer square root, bit by bit from bit `b` down. -/
def isqrtFrom (n : Nat) : Nat → Nat → Nat
  | 0, r => r
  | b + 1, r => let c := r + 2 ^ b; isqrtFrom n b (if c * c ≤ n then c else r)

def isqrt (n : Nat) : Nat := isqrtFrom n (Nat.log2 n / 2 + 1) 0

/-- The square root of m·2^e, m > 0, to at least 80 bits, sticky. -/
def root (m : Nat) (e : Int) : Val :=
  let k : Nat := 160 + (if e % 2 = 0 then 0 else 1)
  let n := m * 2 ^ k
  let r := isqrt n
  let h := (e - k) / 2
  if r * r = n then .fin false r h else .fin false (2 * r + 1) (h - 1)

def Val.sqrt : Val → Val
  | .nan => .nan
  | .inf s => if s then .nan else .inf false
  | .fin s m e => if m = 0 then .fin s 0 0 else if s then .nan else root m e

/-- 1/a of R324. -/
def Val.rcp (a : Val) : Val := Val.div (.fin false 1 0) a

/-- 1/√a of R324: the root of the quotient, rounded once because the quotient is kept to 600 bits. -/
def Val.rsq : Val → Val
  | .nan => .nan
  | .inf s => if s then .nan else .fin false 0 0
  | .fin s m e =>
    if m = 0 then .inf s
    else if s then .nan
    else
      -- 1/√(m·2^e) = √(2^(2k)/m) · 2^(−k) · 2^(−e/2), with e made even
      let (m, e) := if e % 2 = 0 then (m, e) else (2 * m, e - 1)
      let k := 100 + Nat.log2 m
      let n := 2 ^ (2 * k)
      let r := isqrt (n / m)
      if r * r * m = n then .fin false r (-(k : Int) - e / 2)
      else .fin false (2 * r + 1) (-(k : Int) - e / 2 - 1)

/-- Comparison of two values that are no NaN. −0 equals +0. -/
def Val.cmp : Val → Val → Ordering
  | .inf s, .inf t => compare (if s then 0 else 1) (if t then 0 else 1)
  | .inf s, _ => if s then .lt else .gt
  | _, .inf t => if t then .gt else .lt
  | .fin s m e, .fin t n g => let q := min e g; compare (scaled s m e q) (scaled t n g q)
  | _, _ => .eq

/-! ### 2^a and log2 a (R324) -/

/-- The products of the roots 2^(2^−i), i ≥ 1, over the set bits of a fraction of `j` bits, at `P`
fraction bits, each step rounded down: (the product so far, the next root). -/
def exp2Prod (P f j : Nat) : Nat → Nat → Nat → Nat → Nat
  | 0, _, acc, _ => acc
  | n + 1, i, acc, c =>
    let acc := if i ≤ j ∧ bitAt f (j - i) then acc * c / 2 ^ P else acc
    exp2Prod P f j n (i + 1) acc (isqrt (c * 2 ^ P))

/-- Round an irrational value between lo·2^e and (lo + w)·2^e, no boundary of a rounding lying within
one unit: the pattern, or none when the two ends round apart. -/
def roundBetween (f : Fmt) (M : Rm) (sat s : Bool) (lo w : Nat) (e : Int) : Option Nat :=
  let x := f.round M sat (.fin s (2 * lo + 1) (e - 1))
  if x = f.round M sat (.fin s (2 * (lo + w) + 1) (e - 1)) then some x else none

/-- 2^a rounded once. Log entry 9: 320 fraction bits decide every case. -/
def exp2Round (f : Fmt) (M : Rm) (sat : Bool) : Val → Nat
  | .nan => f.nan
  | .inf s => if s then 0 else f.round M sat (.inf false)
  | .fin s m e =>
    if m = 0 then f.round M sat (.fin false 1 0)
    else
      let big : Int := Nat.log2 m + e
      if 12 ≤ big then
        if s then f.round M sat (.fin false 1 (-5000)) else f.round M sat (.fin false 1 5000)
      else
        -- |a| < 2^12: a = k + fr / 2^j with k an integer and 0 ≤ fr < 2^j
        let j := (-e).toNat
        let a : Int := scaled s m e (min e 0)
        let k := a / ((2 ^ j : Nat) : Int)
        let fr := (a % ((2 ^ j : Nat) : Int)).toNat
        if fr = 0 then f.round M sat (.fin false 1 k)
        else
          let P := 320
          let c := isqrt (2 * 2 ^ P * 2 ^ P)
          let lo := exp2Prod P fr j 300 1 (2 ^ P) c
          match roundBetween f M sat false lo (2 ^ 24) (k - P) with
          | some x => x
          | none => f.round M sat (.fin false (2 * lo + 1) (k - P - 1))

/-- Bits of log2 of a number between y and z (at P fraction bits, both in [1, 2)), by squaring:
(the bits found, how many). It stops where the two ends give different bits. -/
def log2Bits (P : Nat) : Nat → Nat → Nat → Nat → Nat → Nat × Nat
  | 0, _, _, acc, n => (acc, n)
  | t + 1, y, z, acc, n =>
    let y2 := y * y / 2 ^ P
    let z2 := z * z / 2 ^ P + 1
    if 2 * 2 ^ P ≤ y2 then log2Bits P t (y2 / 2) (z2 / 2 + 1) (2 * acc + 1) (n + 1)
    else if z2 < 2 * 2 ^ P then log2Bits P t y2 z2 (2 * acc) (n + 1)
    else (acc, n)

/-- log2 a rounded once. Log entry 9. -/
def log2Round (f : Fmt) (M : Rm) (sat : Bool) : Val → Nat
  | .nan => f.nan
  | .inf s => if s then f.nan else f.round M sat (.inf false)
  | .fin s m e =>
    if m = 0 then f.round M sat (.inf true)
    else if s then f.nan
    else
      let t := Nat.log2 m
      let k : Int := t + e
      if m = 2 ^ t then f.round M sat (intVal k)
      else
        let P := 700
        let y := if t ≤ P then m * 2 ^ (P - t) else m / 2 ^ (t - P)
        let (acc, n) := log2Bits P 320 y (y + 1) 0 0
        -- k + acc/2^n < log2 a < k + (acc + 1)/2^n
        let lo : Int := k * ((2 ^ n : Nat) : Int) + acc
        let pick := fun (neg : Bool) (a : Nat) =>
          match roundBetween f M sat neg a 0 (-(n : Int)) with
          | some x => x
          | none => 0
        if 0 ≤ lo then pick false lo.toNat else pick true (-(lo + 1)).toNat

/-! ### Minimum and maximum (R238) -/

/-- FMIN (`mx` false) and FMAX: the pattern of one operand, unrounded. −0 is below +0. -/
def Fmt.minmax (f : Fmt) (mx : Bool) (x y : Nat) : Nat :=
  let a := f.val x
  let b := f.val y
  if a.isNan then (if b.isNan then f.nan else y)
  else if b.isNan then x
  else
    let lt := match a.cmp b with
      | .lt => true
      | .gt => false
      | .eq => bitAt x (f.eb + f.fb)
    if lt != mx then x else y

/-! ### L6 accumulation (R129) -/

def sat32 (x : Int) : Int := max (-(2 ^ 31 : Int)) (min (2 ^ 31 - 1) x)

/-- l6prod of R129 in units of 2^−12, from two L6 bytes. -/
def l6prod (x y : Nat) : Int :=
  let ma := x % 32
  let mb := y % 32
  if ma = 0 ∨ mb = 0 then 0
  else
    let d : Int := (ma : Int) + mb - 32
    let q := d / 4
    let f := (d % 4).toNat
    let k := q + 4
    let mag : Nat := if 0 ≤ k then l6T f * 2 ^ k.toNat else l6T f / 2 ^ (-k).toNat
    if bitAt x 5 != bitAt y 5 then -(mag : Int) else mag

/-! ### Block scales (R137–R145) -/

/-- The value of an element with an E8M0 scale code (R139): x × 2^(e − 127), NaN for FFh. -/
def scaleVal (v : Val) (e : Nat) : Val :=
  if e = 255 then .nan
  else match v with
    | .nan => .nan
    | .inf s => .inf s
    | .fin s m g => .fin s m (g + (e : Int) - 127)

/-- A scaled element converted to a float format (R139): RNE, no saturation. -/
def dequant (td ts : Ty) (x e : Nat) : Nat :=
  match fmtOf td with
  | some f => f.round .rne false (scaleVal (ts.val x) e)
  | none => 0

/-- emax of R143. -/
def emaxOf (t : Ty) : Int := if t = .e2m1 then 2 else if t = .e4m3 then 8 else 15

/-- floor(log2 |x|) of a finite non-zero value, and the greatest of several; none when all are 0. -/
def maxLog : List Val → Option Int
  | [] => none
  | .fin _ m e :: vs =>
    let r := maxLog vs
    if m = 0 then r else
      let l : Int := Nat.log2 m + e
      some (match r with | some x => max l x | none => l)
  | _ :: vs => maxLog vs

/-- vqnt_block of R143: the scale code and the element patterns. -/
def vqntBlock (t : Ty) (xs : List Val) : Nat × List Nat :=
  if xs.any (fun v => match v with | .fin _ _ _ => false | _ => true) then (255, xs.map fun _ => 0)
  else match maxLog xs, fmtOf t with
    | some l, some f =>
      let code : Nat := (max 0 (min 254 (l - emaxOf t + 127))).toNat
      (code, xs.map fun v => match v with
        | .fin s m e => f.round .rne true (.fin s m (e - ((code : Int) - 127)))
        | _ => 0)
    | _, _ => (127, xs.map fun _ => 0)

/-- The position of element k of a block under a layout code (R138). -/
def layoutPos (code k : Nat) : Nat := if code = 1 then k % 16 * 16 + k / 16 else k

end Sys2Proof
end

