-- ==== Sys2Proof/Machine/KMap.lean ====
section
/-! DEFINITION. Sparse tables as sorted association lists, the one form every table of the state has. -/

namespace Sys2Proof

/-- A table with Nat keys, ascending. A missing key stands for an entry as at reset. -/
abbrev KMap (α : Type) := List (Nat × α)

namespace KMap

variable {α : Type}

def find? : KMap α → Nat → Option α
  | [], _ => none
  | (j, x) :: m, k => if j = k then some x else find? m k

def get (m : KMap α) (k : Nat) (d : α) : α := (find? m k).getD d

/-- Replace the entry of key `k`, or insert it in ascending place. -/
def put : KMap α → Nat → α → KMap α
  | [], k, x => [(k, x)]
  | (j, y) :: m, k, x =>
    if k < j then (k, x) :: (j, y) :: m
    else if k = j then (k, x) :: m
    else (j, y) :: put m k x

def del (m : KMap α) (k : Nat) : KMap α := m.filter (fun p => p.1 != k)

/-- Change the entry of key `k`, if there is one. -/
def modify (m : KMap α) (k : Nat) (f : α → α) : KMap α :=
  match find? m k with
  | some x => put m k (f x)
  | none => m

def mapVals (m : KMap α) (f : α → α) : KMap α := m.map (fun e => (e.1, f e.2))

end KMap
end Sys2Proof
end

