-- ==== Sys2Proof/Machine/State.lean ====
section
/-! DEFINITION. The state of the whole package as plain data, and the state at device reset.
Every table is a `KMap`: an entry that is not listed stands as its reset value. Durations never
enter; `ticks` and `cyc` count what the manual counts. -/

namespace Sys2Proof.Machine

/-- Why the machine stops. -/
inductive Fault where
  /-- Raised by `step`: the agenda, which is the model's own field, names an encoded instruction,
  where only machine events may stand. Safe: no state that a run of the device reaches has it. -/
  | agendaInstr
deriving DecidableEq, Repr

/-- Why the model gives no meaning. -/
inductive Refusal where
  /-- Raised by `exec` for an instruction without a meaning in this model, by name. Safe. -/
  | notModelled (mnemonic : String)
deriving DecidableEq, Repr

/-! ### Contexts -/

/-- A trap as it is delivered (R437–R439). `tip` is fixed for a precise trap; a deferred one takes
the context's next IP. -/
structure Trap where
  cause : Nat
  tip : Option Word := none
  info : Word := 0
  src : Word := 0
  srcx : Word := 0
deriving DecidableEq, Repr

/-- The result that a home, an owner or a remote device sends for a request (R67, R466, R451). -/
inductive Answer where
  | ok (v : Word)
  /-- EMPTY or FULL; `watch`: a watch stands -/
  | unready (watch : Bool)
  | absent (host : Bool)
  | trap (cause : Nat) (info : Word)
deriving DecidableEq, Repr

/-- The reply slot of a context (R67). `remote`: another rank's local store, BUSY(12); otherwise
MISS(2). -/
structure Slot where
  id : Nat
  ip : Word
  addr : Word
  gen : Nat
  remote : Bool
  ans : Option Answer := none
deriving DecidableEq, Repr

/-- What a context that does not issue waits for (R65, R73, R253, R79). -/
inductive WaitOn where
  /-- a requested line -/
  | line (key : Nat)
  | reply
  /-- a watch on a word: at its home, or in the local-store watch table; at another device -/
  | word
  | far
  /-- the awaited change has already come: the context stays ready -/
  | now
  /-- no watch was registered: 16 µs (R177, R273, R478) -/
  | timed
  | ring | dispenser | events | message
  | busy (reason : Nat)
  /-- a page-in or a page request -/
  | page (key : Nat)
  | sem (i : Nat)
  | barrier
  | seq (handle : Nat)
  | helper
  | withheld (reason : Nat)
  /-- the line of the next issue group is being fetched -/
  | fetch (line : Nat)
  | fetchPage (key : Nat)
  /-- parked by the ellipsis monitor on a line -/
  | monitor
  /-- PARK: its check is under way; the context is not parked but not ready -/
  | parkAsk (timeout : Nat)
  /-- PARK: a line watch stands; `timeout` 0 is none -/
  | parkWatch (line timeout : Nat)
  /-- PARK: no watch could be registered: at another rank (R253), at a home (R478) -/
  | parkTimed (line : Nat)
  | parkAgain
  /-- PARK: a range lock stands on its bytes (R159) -/
  | parkLock
  | parkPage (key : Nat)
  /-- END or MRET: the reply slot must empty first (R37, R295) -/
  | ending (mret : Bool)
  /-- the core's work of DONE (R53) -/
  | done
deriving DecidableEq, Repr

/-- A context out of the issue selection: since `cyc` of its core, at `ticks`. -/
structure Wait where
  on : WaitOn
  cyc : Nat
  ticks : Nat
deriving DecidableEq, Repr

/-- A message of R291 and R296 on the request or the reply network, in flight or held. -/
inductive MsgKind where
  | access (op : HomeOp) (off : Nat) (park : Bool)
  | parkCheck (off : Nat) (v : Word)
  | signal (sem inc : Nat)
  | decrement (off : Nat)
  | arrival (phase : Nat)
  | software (rep : Bool) (cls tag : Nat) (w1 w2 : Word)
deriving DecidableEq, Repr

structure Msg where
  id : Nat
  kind : MsgKind
  team : Nat
  /-- sending core, context, generation, rank -/
  pid : Nat
  ctx : Nat
  gen : Nat
  srank : Nat
  /-- destination rank -/
  rank : Nat
  ip : Word
  /-- top two clauses of the sender -/
  cls : Word
  /-- a woken watch that goes back to the head of its list (R81) -/
  front : Bool := false
  /-- a software message that its destination has queued, and counted (R456, R457) -/
  queued : Bool := false
  /-- cannot be performed: cause and reason of R453 -/
  returned : Option (Nat × Nat) := none
deriving DecidableEq, Repr

/-- What the ellipsis monitor remembers of the passes of a loop (R79): the branch, the registers, the
predicates and the outcome at it, the last plain load before it and since, and whether anything but
scalar instructions, branches and plain loads has been issued since. -/
structure Monitor where
  br : Option Word := none
  regs : List Word := []
  p : BitVec 8 := 0
  oc : BitVec 8 := 0
  prev : Option (Word × Word) := none
  load : Option (Word × Word) := none
  dirty : Bool := false
deriving DecidableEq, Repr

/-- A context of a core (R27, R212, R392). -/
structure Ctx where
  /-- allocated: it holds an instruction pointer (R27) -/
  live : Bool := false
  ip : Word := 0
  /-- g1–g15 -/
  g : KMap Word := []
  /-- the register halves by number: half `h` holds keys 8h to 8h + 7 (R31, R32) -/
  win : KMap Word := []
  /-- the half that g16–g23 name -/
  wbase : Nat := 0
  /-- the oldest resident half -/
  wlow : Nat := 0
  /-- p1–p7 in bits 1–7 (R212) -/
  p : BitVec 8 := 0
  oc : BitVec 8 := 0
  nrip : Word := 0
  budPark : Bool := false
  armed : Bool := false
  init : BitVec 16 := 4096
  count : BitVec 16 := 4096
  spinsOff : Bool := false
  spins : BitVec 32 := 0
  gen : BitVec 8 := 0
  cnum : BitVec 8 := 0
  /-- ctx.stat.MODE: system mode (R395) -/
  mode : Bool := false
  wsb : Nat := 0
  wsp : Nat := 0
  wsl : Nat := 0
  /-- clause stack, top first, at most 8 (R254) -/
  cls : List (BitVec 16) := []
  ovf : BitVec 16 := 0
  tip : Word := 0
  tcause : BitVec 8 := 0
  tinfo : Word := 0
  tsrc : Word := 0
  tsrcx : Word := 0
  /-- held deferred traps (R442) -/
  held : List Trap := []
  /-- pending debug stop and its source code of R449 (R431) -/
  stop : Option Nat := none
  /-- window depth (R495), and the depth that the last trap delivery produced -/
  depth : Nat := 0
  tdepth : Nat := 0
  slot : Option Slot := none
  wait : Option Wait := none
  /-- the watch that stands for the operation in the slot, or for the check of a PARK, has been woken
  before the context parked on it; whether it was a changing one (R69, R253) -/
  rung : Option Bool := none
  /-- the number of the check of a PARK that has not been answered (R253) -/
  asked : Option Nat := none
  /-- the next issue group is a retry (R77) -/
  retry : Bool := false
  /-- YIELD: the cycle, and the contexts that must issue first (R252) -/
  yielded : Option (Nat × List Nat) := none
  /-- woken, with the place at the head of its list kept (R81, R289) -/
  front : Bool := false
  /-- a fetched line that failed for this context: its address and the cause (R468, R487) -/
  fetchFail : Option (Word × Nat) := none
  /-- the line that it last issued from, whose rights are not checked again (R195) -/
  line : Option Word := none
  /-- the next group was entered through a record, team or handler entry whose landing is still to
  be checked (R490) -/
  entryCheck : Bool := false
  vbase : Nat := 0
  vcnt : Nat := 0
  tbase : Nat := 0
  tcnt : Nat := 0
  /-- the current message of a handler (R293) -/
  msg : Option Msg := none
  mon : Monitor := {}
deriving DecidableEq, Repr

/-! ### The core -/

/-- An entry of the late-fault store buffer (R109). `nib`: it carries one element of its byte alone
(R267): the high one when true. -/
structure SEntry where
  seq : Nat
  va : Word
  data : Word
  bmask : Nat
  fe : Nat
  ip : Word
  gen : Nat
  ctx : Nat
  /-- 1 awaiting acknowledgement, 2 awaiting page-in, 3 faulted -/
  state : Nat
  dom : Nat
  cls : Word
  nib : Option Bool := none
  /-- the cause of a faulted entry -/
  cause : Nat := 0
  /-- when it entered the buffer, for the 1 ms of a store to another device (R520) -/
  ticks : Nat := 0
deriving DecidableEq, Repr

/-- A word of the core data cache (R90). -/
structure CWord where
  v : Word
  owned : Bool
  poison : Bool
deriving DecidableEq, Repr

/-- A line held for a context, or the fault note in its place (R74, R75, R465). Bit i of `valid`:
word i may still be read. -/
structure Hold where
  ctx : Nat
  line : Nat
  data : List Word
  valid : Nat
  poison : Nat
  cyc : Nat
  fault : Option Nat
deriving DecidableEq, Repr

/-- The answer of a home to a line request (R101, R465). -/
inductive Fill where
  | data (ws : List Word) (valid poison owned : Nat)
  | absent
  | fault (cause : Nat)
deriving DecidableEq, Repr

/-- Who waits on a line request. -/
inductive Want where
  | ld | ldk | pfx
deriving DecidableEq, Repr

structure LineReq where
  line : Nat
  va : Word
  dom : Nat
  waiters : List (Nat × Want)
  /-- an ACQ came after it (R163) -/
  stale : Bool := false
  fill : Option Fill := none
deriving DecidableEq, Repr

/-- The last reply for a line said not resident (R263). -/
structure Absent where
  ctx : Nat
  line : Nat
  page : Nat
  host : Bool
  /-- ABSENT(0) or ABSENT(1) has been returned -/
  told : Bool := false
  /-- the page request failed (R467) -/
  failed : Bool := false
  pfx : Bool := false
deriving DecidableEq, Repr

/-- A line of the instruction cache: five slots, the line word, poisoned words (R190, R475). -/
structure ILine where
  slots : List Nat
  word : Nat
  poison : Nat
deriving DecidableEq, Repr

/-- An entry of the range-lock table (R399). `ls`: own local store. KIND 0 sweep, 1 matrix,
2 copy record, 3 CLCK. -/
structure Lock where
  kind : Nat
  ctx : Nat
  ls : Bool
  base : Nat
  len : Nat
  /-- the work that holds it -/
  owner : Nat
deriving DecidableEq, Repr

/-- An entry of the permission table (R107). -/
structure Perm where
  w0 : Word := 0
  w1 : Word := 0
deriving DecidableEq, Repr

/-- A waiter on a semaphore (R289, R359): a context of the core, or a chain's record. -/
structure SemWaiter where
  ctx : Option Nat
  chain : Nat := 0
  thr : Nat
  dec : Bool
deriving DecidableEq, Repr

/-- A watch (R113, R273). `want` none is a line watch. An engine waits as `chain`. A watch of
another device has `dev`. -/
structure Watch where
  word : Nat
  want : Option Bool
  changing : Bool
  pid : Nat
  ctx : Nat
  gen : Nat
  chain : Option Nat := none
  dev : Option Nat := none
  /-- of a watch read from the park heap: the offset of its record (R115). None in the tables of the
  state, whose watches are those of the directories and of local stores -/
  heap : Option Nat := none
deriving DecidableEq, Repr

/-- One allotment of the pools (R46): the helper slots it holds and its ranges. -/
structure Allot where
  cnum : Nat
  slots : List Nat
  entry0 : Bool
  /-- (base, length) in bytes, registers, semaphores -/
  ls : List (Nat × Nat)
  vs : List (Nat × Nat)
  ts : List (Nat × Nat)
  ss : List (Nat × Nat)
deriving DecidableEq, Repr

/-- A register of a pool: its bytes as a number, its format tag, the scale column of a tile: entry r
in bits [16r+15:16r], scale low, layout high (R213, R335). -/
structure PReg where
  v : Nat := 0
  tag : Nat := 0
  sc : Nat := 0
deriving DecidableEq, Repr

/-- An accepted sweep or matrix operation: what R310 and R341 read at acceptance. -/
structure Work where
  id : Nat
  instr : Instr
  ctx : Nat
  gen : Nat
  ip : Word
  cls : Word
  /-- stores of its context before it have lower sequence numbers (R186) -/
  seq : Nat := 0
  /-- base values of D, A, B, C, E, then the second register of the A and B pairs -/
  d : Word
  a : Word
  b : Word
  e : Word
  a2 : Word
  b2 : Word
  /-- first pool registers of v0 and t0 -/
  vbase : Nat
  tbase : Nat
  dom : Nat
  /-- pool registers that it names (R318); the register it writes, and the tag (R312) -/
  vregs : List Nat
  tregs : List Nat
  dreg : Option Nat := none
  dtag : Nat := 0
  /-- a follow-on image: the chain whose record carried it (R361) -/
  chain : Option Nat := none
  /-- the writes are performed -/
  performed : Bool := false
  /-- it stopped at a fault: cause, ctx.tinfo, index (R450) -/
  fault : Option (Nat × Word × Nat) := none
deriving DecidableEq, Repr

/-- A record waiting for a place in the event queue, and the trap that is held only once it stands
there (R368, R471). -/
structure Post where
  w0 : Word
  w1 : Word
  trap : Option (Nat × Nat × Trap) := none
deriving DecidableEq, Repr

/-- A core: its contexts, its system registers (R392), pools, caches, queues and power state. -/
structure Core where
  ctxs : KMap Ctx := []
  team : Option Nat := none
  rank : Nat := 0
  dom : Nat := 0
  cyc : Nat := 0
  clk : Nat := 8
  temp : Int := 0
  tthr : BitVec 16 := 0x5F0
  /-- rotation position, the cycle of context 0's last issue, and of its last floor issue (R28) -/
  rot : Nat := 15
  last0 : Nat := 0
  floor : Option Nat := none
  rrbase : Nat := 0
  rrhead : Nat := 0
  rrtail : Nat := 0
  cnum : Nat := 0
  evqEn : Bool := false
  evqBase : Nat := 0
  evqhead : Nat := 0
  evqtail : Nat := 0
  fobase : Nat := 0
  /-- V and HANDLE of core.chn0–7 (R398) -/
  chn : KMap Nat := []
  mhent : KMap Word := []
  barq : Nat := 0
  ph : Nat := 0
  semsat : Nat := 0
  tvec : Word := 0
  locks : KMap Lock := []
  perms : KMap Perm := []
  sems : KMap Nat := []
  semWait : KMap (List SemWaiter) := []
  vregs : KMap PReg := []
  tregs : KMap PReg := []
  allots : List Allot := []
  /-- data cache by word, LDK copies by word, instruction cache by line -/
  dcache : KMap CWord := []
  kcache : KMap CWord := []
  icache : KMap ILine := []
  lineReqs : List LineReq := []
  holds : List Hold := []
  absents : List Absent := []
  sbuf : List SEntry := []
  seq : Nat := 0
  /-- local-store watches, oldest first (R273) -/
  watches : List Watch := []
  sweeps : List Work := []
  mats : List Work := []
  posts : List Post := []
  /-- dropped replies not yet reported, and the last one's address (R455) -/
  dropped : Nat := 0
  dropAddr : Word := 0
  /-- counters whose poison an own-core decrement has reported: once per START of the record (R476) -/
  poisonTold : List Nat := []
  trace : List Word := []
  /-- when each of them was made (R430), and the record that waits for space (R428) -/
  made : List Nat := []
  waitRec : Option (Nat × Word) := none
  /-- lines drained of `trace`, losses, cycle and state of the last record -/
  lines : Nat := 0
  loss : Nat := 0
  lastRec : Nat := 0
  tstate : Nat := 3
  stopped : Bool := false
  stopCyc : Nat := 0
  stopSent : Nat := 0
  stopRecv : Nat := 0
  stopEpoch : Nat := 0
  stopReason : Nat := 0
  msent : Nat := 0
  mrecv : Nat := 0
  /-- the context that executed DONE (R53); 16 once the done counter has been decremented -/
  finishing : Option Nat := none
  gated : Bool := false
  /-- 13h has been raised and not re-armed (R513) -/
  hot : Bool := false
  /-- N is held at 1 (R513) -/
  clkHeld : Bool := false
  /-- a migration request since this time (R526) -/
  migrate : Option Nat := none
  /-- power-class watts and cooling class of the placed core (R417, R423) -/
  watts : Nat := 0
  cool : Nat := 0
  /-- reserved by a move (R56): the core that the rank leaves, and the save slot -/
  reserved : Option (Nat × Nat) := none
deriving DecidableEq, Repr

/-! ### Homes, memory side -/

/-- A line of a home slice (R93, R98): eight words, bit i of `fe` set when word i is full, of
`poison` when it is poisoned; the frame address it was translated to; the domain that filled it. -/
structure Line where
  ws : List Word
  fe : Nat
  poison : Nat
  parked : Bool
  dirty : Bool
  frame : Nat
  fillDom : Nat
deriving DecidableEq, Repr

/-- A cached translation (R101): physical base of the page piece, rights F A X W R, the address of
the leaf and whether its D bit is set. -/
structure Xlate where
  base : Nat
  rights : Nat
  leaf : Nat
  d : Bool
deriving DecidableEq, Repr

/-- What the host's page tables and its ATS say of one 4 KiB page. Log entry 20. -/
structure HostPage where
  hpa : Nat
  read : Bool
  write : Bool
  exec : Bool
  resident : Bool
deriving DecidableEq, Repr

/-- A request of the reply-slot kinds, or of PARK, on its way to a home or to a remote device
(R67, R69, R253). -/
structure HomeReq where
  id : Nat
  pid : Nat
  ctx : Nat
  gen : Nat
  dom : Nat
  va : Word
  op : HomeOp
  park : Bool
  front : Bool
  /-- the context's stores before it have lower sequence numbers (R149) -/
  seq : Nat
  /-- when it left, for the 1 ms of R520 -/
  ticks : Nat
  /-- a request of the engine that runs this chain, for a remote word -/
  chain : Option Nat := none
deriving DecidableEq, Repr

structure ReplyMsg where
  id : Nat
  pid : Nat
  ctx : Nat
  gen : Nat
  addr : Word
  /-- an answer to PARK (R253) -/
  park : Bool
  ans : Answer
deriving DecidableEq, Repr

/-- Cache counters of a domain in a slice (R484); keyed by slice × 65536 + domain. -/
structure CacheCnt where
  hit : Nat := 0
  miss : Nat := 0
  evown : Nat := 0
  dispo : Nat := 0
  wbk : Nat := 0
deriving DecidableEq, Repr

/-! ### Teams, grids, queues -/

/-- A rank's core while it is saved (R50, R55). -/
structure Saved where
  rank : Nat
  core : Core
  /-- words of its local store that were poisoned when it was saved, by their numbers (R475) -/
  poison : List Nat := []
deriving DecidableEq, Repr

structure Team where
  grid : Nat
  number : Nat
  die : Nat
  size : Nat
  /-- physical core of each rank (R48) -/
  map : List Nat
  done : Nat
  ph : Nat := 0
  /-- arrivals for PH and PH + 1 -/
  arr0 : Nat := 0
  arr1 : Nat := 0
  slot : Option Nat := none
  saved : List Saved := []
  swapped : Bool := false
  /-- residence began at -/
  since : Nat := 0
  /-- the order in which it was swapped out -/
  outAt : Nat := 0
  failed : Bool := false
  chains : List Nat := []
deriving DecidableEq, Repr

structure Grid where
  queue : Nat
  pkt : Nat
  prio : Nat
  dom : Nat
  entry : Word
  arg : Word
  ttab : Word
  /-- word 0 and word 1 of the 16 task types (R44) -/
  types : List (Word × Word)
  save : Word
  nsave : Nat
  /-- the four words of each chain binding (R376) -/
  binds : List (List Word)
  teams : Nat
  size : Nat
  dies : Nat
  /-- teams started, completed, failed -/
  next : Nat := 0
  ended : Nat := 0
  lastDie : Option Nat := none
  failed : Bool := false
  /-- save slots in use -/
  slots : List Nat := []
  /-- a stop is requested for context 0 of each team (R435) -/
  stopAtStart : Bool := false
  complete : Bool := false
deriving DecidableEq, Repr

/-- One record in the dispenser of a die (R42, R512). -/
structure DRec where
  grid : Nat
  ws : List Word
  rank : Nat
  off : Nat
  team : Nat
deriving DecidableEq, Repr

structure Dispenser where
  recs : List DRec := []
  /-- when the floor of R43 last handed a record out, per grid; and grids it may serve now -/
  floor : KMap Nat := []
  grant : List Nat := []
deriving DecidableEq, Repr

/-- A record appended to a chain (R352, R364). -/
structure CRec where
  va : Word
  advanced : Bool
  /-- its rising number, given when it is advanced (R184) -/
  num : Nat := 0
  /-- of the CADVs of all chains, which one advanced it -/
  order : Nat := 0
  dom : Nat
  /-- records of its COPY packet still to follow it (R381) -/
  more : Nat := 0
  /-- the context of its CADV -/
  ctx : Nat
  gen : Nat
  ip : Word
  cls : Word
  /-- its CAPP stores -/
  seqs : List Nat
  ws : List Word
deriving DecidableEq, Repr

/-- A word that an engine has read of a row: its value, its bit, its poison. -/
structure RWord where
  v : Word
  full : Bool
  poison : Bool
deriving DecidableEq, Repr

/-- A record under way (R355): its words, the next row and plane, and what it has met. -/
structure Run where
  ws : List Word
  rc : CRec
  row : Nat := 0
  plane : Nat := 0
  /-- entries that moved a block, and RES (R368) -/
  moved : Nat := 0
  res : Nat := 0
  ended : Bool := false
  fault : Option (Nat × Word) := none
  /-- source words of the row that have been read -/
  got : List RWord := []
  /-- the address that the row's list entry gave -/
  link : Option Word := none
  /-- steps 1 to 3 of R184 are over; the completion record waits for a place -/
  posting : Bool := false
  /-- it waits for a watch on a source word, or for the request of that number, whose watch stands at a
  remote home; it goes back to the head of that word's list (R81) -/
  waiting : Option Nat := none
  afar : Bool := false
  front : Bool := false
  /-- the watch that a request asks for has been woken before its answer came -/
  rung : Bool := false
  /-- writes to remote devices that are not acknowledged -/
  acks : List Nat := []
deriving DecidableEq, Repr

structure Chain where
  /-- team and rank; none for the chains 63 of the command processors -/
  team : Option Nat := none
  rank : Nat := 0
  seqVa : Word := 0
  pend : Word := 0
  tail : Word := 0
  recs : List CRec := []
  run : Option Run := none
  /-- the number of the record last advanced; the number last delivered (R184, R366) -/
  seq : Nat := 0
  delivered : Nat := 0
  /-- stopped by a fault until a CADV (R450) -/
  stopped : Bool := false
  /-- its head record waits in a semaphore list, or has its wait met -/
  semAsked : Bool := false
  semMet : Bool := false
deriving DecidableEq, Repr

/-- A follow-on image being offered (R361). -/
structure Offer where
  id : Nat
  pid : Nat
  image : Nat
  chain : Nat
  rc : CRec
  /-- the record still holds its locks -/
  locked : Bool := true
deriving DecidableEq, Repr

/-- A packet under way (R372, R373). -/
structure Packet where
  q : Nat
  idx : Nat
  ws : List Word
  /-- its work is done; only its signal remains -/
  ended : Bool := false
  /-- one of its copy records has stopped at a fault: it never completes -/
  lost : Bool := false
deriving DecidableEq, Repr

/-- The command processors (R374, R435, R518). -/
structure CP where
  packets : List Packet := []
  /-- queue whose packet of each PRIO was started last -/
  lastQ : KMap Nat := []
  /-- queue and HEAD that start without a further comparison (R435) -/
  released : List (Nat × Nat) := []
  reloading : Bool := false
  /-- trap entry of each domain (R440) -/
  tvecs : KMap Word := []
  /-- what the scheduling firmware has been told, oldest first: 1 a core at its thermal threshold (R513), 2 a migration
  request that lapsed for want of a save slot (R527), with the core -/
  told : List (Nat × Nat) := []
deriving DecidableEq, Repr

/-- A die: quantum, dispatch bookkeeping, clusters (R12, R13, R379, R380, R516). -/
structure Die where
  qnt : BitVec 16 := 4000
  /-- queue whose head was placed last, per PRIO -/
  lastQ : KMap Nat := []
  /-- when the quantum began (R54) -/
  since : Nat := 0
  /-- by queue: the head that failed to fit, and at how many quantum ends -/
  misfits : KMap (Nat × Nat) := []
  /-- WFILLs under way, the first of which waits for the die to empty: queue × 2^32 + ring index -/
  filling : List Nat := []
  /-- the quantum end after the first of them has come, and its swaps have been made (R382) -/
  emptied : Bool := false
  /-- physical cluster of a logical one; unlisted: itself -/
  cmap : KMap Nat := []
  spares : List Nat := [64, 65, 66, 67]
  withdrawn : List Nat := []
deriving DecidableEq, Repr

/-! ### Power, coolant, platform -/

/-- A lease (R414): of this lender, or held from another; `due`: the time of its T. -/
structure Lease where
  src : Nat
  id : Nat
  tok : Nat
  due : Nat
  /-- its T as flits carry it, and the device at its other end -/
  t : Word := 0
  peer : Nat := 0
deriving DecidableEq, Repr

/-- A lowering GRANT under way (R413): its TOK, the time of its T, and whether it came less than 10 ms
before it. -/
structure Pending where
  tok : Nat
  due : Nat
  late : Bool
deriving DecidableEq, Repr

structure Power where
  grant : Nat := 4800
  lent : Nat := 0
  borrowed : Nat := 0
  unc : BitVec 16 := 1250
  lease : BitVec 8 := 100
  bmax : BitVec 16 := 0
  lmax : BitVec 16 := 0
  lentLeases : List Lease := []
  heldLeases : List Lease := []
  nextLease : Nat := 1
  /-- lowering GRANTs whose T has not come -/
  pending : List Pending := []
  /-- when the last GRANT came -/
  lastGrant : Nat := 0
  ebase : Word := 0
  pcls0 : Word := 0
  pcls1 : Word := 0
  ccls0 : Word := 0x0202020202020202
  ccls1 : Word := 0x0202020202020202
  hke : Nat := 0
  idle : Nat := 0
  /-- µJ of each domain that its next addition carries (R418) -/
  booked : KMap Nat := []
  /-- what cores and jobs worked for before now, since the last booking, oldest first: their keys and domains, none
  for an idle core -/
  ran : List (Nat × Option Nat) := []
deriving DecidableEq, Repr

/-- A core's place with the ramp limiter (R384). -/
structure Ramp where
  pid : Nat
  /-- units of the last refused MMA -/
  units : Nat
  reserved : Bool
  /-- the refused MMAs of the core that have not been admitted -/
  ops : List Nat := []
deriving DecidableEq, Repr

/-- A zone: budget, limiter, coolant (R384–R386, R415, R421, R515). -/
structure Zone where
  budget : BitVec 16 := 25
  nmin : BitVec 4 := 1
  nmax : BitVec 4 := 8
  spent : Bool := false
  spentAt : Nat := 0
  /-- clocks are lowered without waiting 1 ms (R413) -/
  urgent : Bool := false
  commit : Nat := 0
  draw : Nat := 0
  rup : BitVec 16 := 250
  rdn : BitVec 16 := 250
  act : Nat := 0
  r : Nat := 0
  /-- units of each domain in this window and in the one before; ballast units charged to each domain since the
  last booking (R385) -/
  units : KMap Nat := []
  before : KMap Nat := []
  ballast : KMap Nat := []
  refused : List Ramp := []
  held : Bool := false
  share : BitVec 8 := 2
  need : Nat := 0
  floor : BitVec 8 := 2
  evac : Bool := false
  vmin : Nat := 0
  valve : Nat := 0
  /-- the position that is commanded, and since when the valve has been more than 16 off it (R514) -/
  want : Nat := 0
  offSince : Option Nat := none
  /-- the fault of this deviation has been raised -/
  offTold : Bool := false
  flow : Nat := 0
  outt : BitVec 16 := 0
  int : BitVec 16 := 0
  otrap : BitVec 16 := 0x460
  itrap : BitVec 16 := 0x2D0
  wthr : BitVec 16 := 0x5A0
  /-- the zone temperature is above WTHR, until it falls 2 °C below (R424) -/
  hot : Bool := false
  /-- consecutive readings: inlet hot, outlet hot, dry, good -/
  nIn : Nat := 0
  nOut : Nat := 0
  nDry : Nat := 0
  nGood : Nat := 0
  /-- step of R515 under way, 0 for none, and failed verifications -/
  step : Nat := 0
  fails : Nat := 0
  retired : Bool := false
  purge : Bool := false
  /-- highest zone temperature of the minute (R436) -/
  peak : Int := 0
deriving DecidableEq, Repr

/-- A partition (R461): physical cores, slices, HBM stacks. -/
structure Part where
  cores : List Nat
  slices : List Nat
  hbm : List Nat
deriving DecidableEq, Repr

/-- Amigra root and the platform records (R406, R436, R517, R521, R524). -/
structure Root where
  mbBusy : Bool := false
  /-- the agent of the command has the privilege for it -/
  mbPriv : Bool := true
  mbOp : Nat := 0
  mbResult : Nat := 0
  mbArg : KMap Word := []
  /-- partitions (R461); log entry 7 -/
  parts : KMap Part := []
  policy : KMap Nat := []
  health : Nat := 0
  why : Nat := 0
  events : Nat := 0
  /-- field records by offset (R436), as committed, and as counted -/
  fields : KMap Nat := []
  committed : KMap Nat := []
  /-- times of dry-channel events by zone, of reloads (R517) -/
  dryTimes : KMap (List Nat) := []
  reloads : List Nat := []
  /-- when each port that is not trained lost its training (R517) -/
  portLost : KMap Nat := []
  /-- I3C alerts raised (R517) -/
  alerts : Nat := 0
  /-- times of corrected errors of each HBM channel within the hour (R517) -/
  eccTimes : KMap (List Nat) := []
deriving DecidableEq, Repr

/-- A flit that this device sends: to a device, at an offset of its fabric window or as a management flit, with its
eight words (R410, R411, R413). -/
structure Flit where
  dev : Nat
  off : Option Nat
  ws : List Word
  /-- bit i: word i carries poison (R475) -/
  poison : Nat := 0
deriving DecidableEq, Repr

/-- One due step of an agent: `wait` ticks after the step before it. -/
structure Due where
  wait : Nat
  event : Instr
deriving DecidableEq, Repr

/-- What a transfer does to the register window. -/
inductive Move where
  | stay | call | ret
deriving DecidableEq, Repr

/-- How one member of a pair ended (R64, R196, R198). -/
inductive End where
  | next
  /-- taken transfer to a target -/
  | jump (m : Move) (target : Word)
  /-- OK outcome; `plain`: of a plain load (R79) -/
  | ok (plain : Bool)
  | notReady (oc : Nat) (nra : Nra) (target : Word) (wait : WaitOn)
  /-- precise trap with its place in the order of R443; `keep`: what the member did to the reply slot
  and the fault notes stands -/
  | trap (order : Nat) (keep : Bool) (t : Trap)
deriving DecidableEq, Repr

/-- The pair under execution: the context as it stood before the group, and how each member ended,
by its IP. -/
structure Pair where
  view : Ctx
  ip : Word
  ends : List (Word × End)
deriving DecidableEq, Repr

/-- What each implementation chooses: the depths of R292 and R270, whether it applies the ellipsis
monitor (R80). -/
structure Conf where
  outDepth : Nat
  lineDepth : Nat
  monitor : Bool
deriving DecidableEq, Repr

structure State where
  /-- router-domain time in units of 1/840 ns (R95, R420) -/
  ticks : Nat
  /-- model's own: which agent takes the next step, and whose selector acts when none is named -/
  agenda : List Due
  turn : Nat
  /-- model's own: executing core and context, whether the selector has chosen it to issue its next
  group, the pair under execution -/
  cur : Nat × Nat
  issue : Bool
  pair : Option Pair
  /-- model's own: counter of free values (R31) -/
  free : Nat
  conf : Conf
  /-- bytes of HBM, host memory, weight stores, local stores -/
  mem : List Host.Cell
  /-- 8-byte words (address / 8) that are empty, and that are poisoned -/
  empties : List Nat
  poison : List Nat
  /-- parked flags of HBM lines (address / 64) -/
  parkedLines : List Nat
  cores : KMap Core
  lines : KMap Line
  owners : KMap Nat
  xlates : KMap Xlate
  /-- watches in the directories, by line, oldest first (R113); those of the park heap stand in memory -/
  watches : KMap (List Watch)
  hgt : KMap Nat
  rootTable : Nat
  /-- frame-owner table (R103) -/
  frames : KMap Word
  imports : KMap Word
  hostPages : KMap HostPage
  priOn : Bool
  /-- page requests outstanding, by PASID × 2^44 + page; and failed ones: page keys -/
  pri : List Nat
  priFailed : List Nat
  pageIns : List Nat
  cacheCnt : KMap CacheCnt
  nextId : Nat
  msgs : List Msg
  homeReqs : List HomeReq
  replies : List ReplyMsg
  teams : KMap Team
  grids : KMap Grid
  dispensers : KMap Dispenser
  chains : KMap Chain
  offers : List Offer
  dies : KMap Die
  qdbase : Word
  parkbase : Word
  parkrsz : Nat
  cp : CP
  /-- MSI-X vectors raised (R402) -/
  msix : List Nat
  bpa : KMap Word
  bpc : KMap Word
  trbase : Word
  epoch : Nat
  power : Power
  zones : KMap Zone
  window : Nat
  pup : BitVec 16
  fabn : BitVec 12
  /-- model's own: the generation of each context of another device, as its accesses and its events tell it (log
  entry 122) -/
  remoteGens : KMap Nat
  /-- flits on their way out through the ports, oldest first -/
  outbox : List Flit
  root : Root
deriving DecidableEq, Repr

/-- The package right after device reset. -/
def State.reset : State where
  ticks := 0
  agenda := []
  turn := 0
  cur := (0, 0)
  issue := false
  pair := none
  free := 0
  conf := ⟨16, 64, true⟩
  mem := []
  empties := []
  poison := []
  parkedLines := []
  cores := []
  lines := []
  owners := []
  xlates := []
  watches := []
  hgt := []
  rootTable := 0
  frames := []
  imports := []
  hostPages := []
  priOn := true
  pri := []
  priFailed := []
  pageIns := []
  cacheCnt := []
  nextId := 0
  msgs := []
  homeReqs := []
  replies := []
  teams := []
  grids := []
  dispensers := []
  chains := []
  offers := []
  dies := []
  qdbase := 0
  parkbase := 0
  parkrsz := 0
  cp := {}
  msix := []
  bpa := []
  bpc := []
  trbase := 0
  epoch := 0
  power := {}
  zones := []
  window := 0
  pup := 0
  fabn := 0
  remoteGens := []
  outbox := []
  root := {}

end Sys2Proof.Machine
end

