-- ==== Sys2Proof/Machine/Mem.lean ====
section
/-! DEFINITION. Physical memory: bytes, full/empty bits and poison of every store of the package, and
the canonical form of memory. -/

namespace Sys2Proof.Machine
open Sys2Proof

/-- The canonical form: addresses strictly rising, and no entry equal to what an unlisted address
reads as. -/
abbrev Memory.wf (m : List Host.Cell) : Prop :=
  m.Pairwise (fun a b => a.1 < b.1) ∧ ∀ c ∈ m, c.2 ≠ 0

/-- What an unlisted address reads as: 0. The manual leaves it undefined (R96, R106); DESIGN CHOICE,
unsafe, log entry 5. -/
def Memory.unlisted : Byte := 0

def Memory.read (m : List Host.Cell) (a : Nat) : Byte := KMap.get m a Memory.unlisted

def Memory.write (m : List Host.Cell) (a : Nat) (v : Byte) : List Host.Cell :=
  if v = 0 then KMap.del m a else KMap.put m a v

/-- `n` bytes from `a`, as a little-endian number (R2). -/
def Memory.readN (m : List Host.Cell) (a : Nat) : Nat → Nat
  | 0 => 0
  | n + 1 => (Memory.read m a).toNat + 256 * Memory.readN m (a + 1) n

def Memory.writeN (m : List Host.Cell) (a : Nat) : Nat → Nat → List Host.Cell
  | 0, _ => m
  | n + 1, v => Memory.writeN (Memory.write m a (BitVec.ofNat 8 v)) (a + 1) n (v / 256)

/-- Strictly rising lists of numbers as sets. -/
def setAdd : List Nat → Nat → List Nat
  | [], k => [k]
  | j :: l, k => if k < j then k :: j :: l else if k = j then j :: l else j :: setAdd l k

def setDel (l : List Nat) (k : Nat) : List Nat := l.filter (· != k)

def setPut (l : List Nat) (k : Nat) (b : Bool) : List Nat := if b then setAdd l k else setDel l k

/-! ### The layout of physical memory in the one key space: HBM from 0 (R97) -/

def hbmEnd : Nat := 0xC000000000
def hostBase : Nat := 2 ^ 60
def wsBase : Nat := 2 ^ 64
def lsBase : Nat := 2 ^ 65

/-- Weight store of a die (R94), local store of a core (R86). -/
def wsAddr (die off : Nat) : Nat := wsBase + die * 2 ^ 28 + off % 2 ^ 28
def lsAddr (pid off : Nat) : Nat := lsBase + pid * 2 ^ 20 + off % 2 ^ 20

def State.rd (s : State) (a n : Nat) : Nat := Memory.readN s.mem a n
def State.wr (s : State) (a n v : Nat) : State := { s with mem := Memory.writeN s.mem a n v }

def State.isFull (s : State) (a : Nat) : Bool := !s.empties.contains (a / 8)
def State.setFull (s : State) (a : Nat) (full : Bool) : State :=
  { s with empties := setPut s.empties (a / 8) (!full) }
def State.isPoison (s : State) (a : Nat) : Bool := s.poison.contains (a / 8)
def State.setPoison (s : State) (a : Nat) (p : Bool) : State :=
  { s with poison := setPut s.poison (a / 8) p }

/-- Merge the bytes of `v` that `mask` selects into the 8-byte word `w`. -/
def mergeMask (w v : Word) (mask : Nat) : Word :=
  BitVec.ofNat 64 (ofBytes ((List.range 8).map fun i =>
    if bitAt mask i then BitVec.ofNat 8 (v.toNat / 256 ^ i) else BitVec.ofNat 8 (w.toNat / 256 ^ i)))

/-- The bit of a mask of `n` bits, all set. -/
def ones (n : Nat) : Nat := 2 ^ n - 1

end Sys2Proof.Machine
end

