-- ==== Sys2Proof/Machine/Base.lean ====
section
/-! DEFINITION. Access to cores, contexts and registers; windows of addresses; what an instruction of
the executing context reads and writes. -/

namespace Sys2Proof.Machine
open Sys2Proof

abbrev Out := Host.Outcome State Fault Refusal

/-! ### Cores and contexts -/

def State.core (s : State) (pid : Nat) : Core := s.cores.get pid {}
def State.setCore (s : State) (pid : Nat) (c : Core) : State := { s with cores := s.cores.put pid c }
def Core.ctx (c : Core) (k : Nat) : Ctx := c.ctxs.get k {}
def Core.setCtx (c : Core) (k : Nat) (x : Ctx) : Core := { c with ctxs := c.ctxs.put k x }
def State.ctx (s : State) (pid k : Nat) : Ctx := (s.core pid).ctx k
def State.setCtx (s : State) (pid k : Nat) (x : Ctx) : State :=
  s.setCore pid ((s.core pid).setCtx k x)

/-- The executing core and context. -/
def State.pid (s : State) : Nat := s.cur.1
def State.myCore (s : State) : Core := s.core s.cur.1
def State.me (s : State) : Ctx := s.ctx s.cur.1 s.cur.2
def State.setMe (s : State) (x : Ctx) : State := s.setCtx s.cur.1 s.cur.2 x
def State.setMyCore (s : State) (c : Core) : State := s.setCore s.cur.1 c

/-- The length of a core cycle at step N, 8 nanoseconds over N, in ticks (R419, R420). -/
def Core.cycleTicks (c : Core) : Nat := 6720 / max c.clk 1

def dieOf (pid : Nat) : Nat := pid / 512
def tileOf (pid : Nat) : Nat := pid % 512
/-- The identifier names a core: tiles 272 to 511 of a die's range name none (R11). -/
def isCore (pid : Nat) : Bool := pid < 4096 && pid % 512 < 272
/-- R15. -/
def zoneOf (pid : Nat) : Nat := pid / 512 * 16 + pid % 512 % 16
def State.zone (s : State) (z : Nat) : Zone := s.zones.get z {}
def State.setZone (s : State) (z : Nat) (x : Zone) : State := { s with zones := s.zones.put z x }
def State.die (s : State) (d : Nat) : Die := s.dies.get d {}
def State.setDie (s : State) (d : Nat) (x : Die) : State := { s with dies := s.dies.put d x }
def State.dispenser (s : State) (d : Nat) : Dispenser := s.dispensers.get d {}
def State.chain (s : State) (h : Nat) : Chain := s.chains.get h {}
def State.setChain (s : State) (h : Nat) (x : Chain) : State := { s with chains := s.chains.put h x }

/-- The team of a core, and its grid. -/
def State.teamOf (s : State) (pid : Nat) : Option Team :=
  (s.core pid).team.bind fun t => s.teams.find? t
def State.gridOf (s : State) (pid : Nat) : Option Grid :=
  (s.teamOf pid).bind fun t => s.grids.find? t.grid

/-- team.size, 0 for a core without a team. -/
def State.teamSize (s : State) (pid : Nat) : Nat := ((s.teamOf pid).map (·.size)).getD 0

/-- The physical core of a rank of the core's own team (R48). -/
def State.rankCore (s : State) (pid rank : Nat) : Option Nat :=
  (s.teamOf pid).bind fun t => if rank < t.size then t.map[rank]? else none

/-! ### Registers (R31, R189, R202, R212) -/

def Ctx.reg (c : Ctx) (sp : Spec) : Word :=
  let n := sp.toNat
  if n = 0 then 0
  else if n < 16 then c.g.get n 0
  else if n < 32 then c.win.get (8 * c.wbase + (n - 16)) 0
  else if n = 56 then 1
  else if 56 < n then (if c.p.getLsbD (n - 56) then 1 else 0)
  else 0

/-- setG: a write to g0 or p0 is discarded. A predicate takes bit 0. -/
def Ctx.setReg (c : Ctx) (sp : Spec) (v : Word) : Ctx :=
  let n := sp.toNat
  if n = 0 then c
  else if n < 16 then { c with g := c.g.put n v }
  else if n < 32 then { c with win := c.win.put (8 * c.wbase + (n - 16)) v }
  else if 56 < n then
    { c with p := BitVec.ofNat 8 (setBit c.p.toNat (n - 56) (v.getLsbD 0)) }
  else c

/-- What the executing instruction reads: in a pair, the context as it stood before the group
(R196). -/
def State.view (s : State) : Ctx := match s.pair with
  | some p => p.view
  | none => s.me

def State.G (s : State) (sp : Spec) : Word := s.view.reg sp
def State.setG (s : State) (sp : Spec) (v : Word) : State := s.setMe (s.me.setReg sp v)

/-- The IP of the executing instruction. -/
def State.ip (s : State) : Word := match s.pair with
  | some p => p.ip + BitVec.ofNat 64 p.ends.length
  | none => s.me.ip

/-- guard() of R189. -/
def State.guard (s : State) (g : Guard) : Bool := (s.view.reg (56 + g.p.setWidth 6) == 1) != g.neg

/-! ### Instruction pointers (R189, R192) -/

def lineOf (ip : Word) : Word := BitVec.ofNat 64 (ip.toNat / 64 * 64)
def nextIp (ip : Word) : Word :=
  if ip.toNat % 8 = 4 then lineOf ip + 64 else ip + 1
def targetOf (ip : Word) (tgt : BitVec 32) : Word :=
  lineOf ip + ofInt (64 * sextInt (tgt.toNat / 8) 29) + BitVec.ofNat 64 (tgt.toNat % 8)
/-- An IP that R245 allows. -/
def ipOk (ip : Word) : Bool := fld ip.toNat 3 3 == 0 && ip.toNat % 8 ≤ 4

/-! ### Windows of addresses (R82, R83) -/

/-- The window an address lies in, with its fields. -/
inductive Win where
  | host | device
  | rank (r off : Nat)
  | weight (die off : Nat)
  | fabric (dev off : Nat)
  | reserved
deriving DecidableEq, Repr

/-- R82; the own-cluster alias names a rank by R48. -/
def windowOf (rank : Nat) (va : Word) : Win :=
  let a := va.toNat
  let top := a / 2 ^ 56
  if top = 0 then .host
  else if top = 0x80 then .device
  else if top = 0x90 then if fld a 28 28 = 0 then .rank (fld a 20 8) (fld a 0 20) else .reserved
  else if top = 0x99 then
    if fld a 22 34 = 0 then .rank (4 * (rank / 4) + fld a 20 2) (fld a 0 20) else .reserved
  else if top = 0xA0 then
    if fld a 35 21 = 0 ∧ fld a 28 4 = 0 then .weight (fld a 32 3) (fld a 0 28) else .reserved
  else if top = 0xB0 then .fabric (fld a 44 12) (fld a 0 44)
  else .reserved

/-- One address for a byte of local store that both windows name (R48). -/
def canonVa (rank : Nat) (va : Word) : Word :=
  match windowOf rank va with
  | .rank r off => BitVec.ofNat 64 (0x90 * 2 ^ 56 + r * 2 ^ 20 + off)
  | _ => va

def isHost (va : Word) : Bool := va.toNat / 2 ^ 56 == 0
def isDevice (va : Word) : Bool := va.toNat / 2 ^ 56 == 0x80
def isFabric (va : Word) : Bool := va.toNat / 2 ^ 56 == 0xB0

/-- The tag of a line in caches and slices (R85): host-half lines by domain. -/
def lineKey (dom : Nat) (va : Word) : Nat :=
  if isHost va then dom * 2 ^ 58 + va.toNat / 64 else va.toNat / 64
def wordKey (dom : Nat) (va : Word) : Nat := lineKey dom va * 8 + va.toNat / 8 % 8
/-- The address of a line key, and whether it is a host line of a domain. -/
def keyVa (key : Nat) : Word := BitVec.ofNat 64 (key % 2 ^ 58 * 64)
def keyDom (key : Nat) : Nat := key / 2 ^ 58
def keyHost (key : Nat) : Bool := key % 2 ^ 58 < 2 ^ 57
/-- A page: 64 KiB of the device window, 4 KiB of a domain's host half. -/
def pageKey (dom : Nat) (va : Word) : Nat :=
  if isHost va then 2 ^ 64 + dom * 2 ^ 44 + va.toNat / 4096 else va.toNat / 65536
def linePage (key : Nat) : Nat := pageKey (keyDom key) (keyVa key)

/-! ### Range locks (R159, R179, R399) -/

def overlap (a n b m : Nat) : Bool := a < b + m && b < a + n

/-- A lock overlaps the bytes [a, a + n) of own local store or of the VA space, apart from the CLCK
locks of context `own` (R367). -/
def Core.locked (c : Core) (own : Option Nat) (ls : Bool) (a n : Nat) : Bool :=
  c.locks.any fun e => e.2.ls == ls && overlap e.2.base e.2.len a n &&
    !(e.2.kind == 3 && some e.2.ctx == own)

def Core.freeLocks (c : Core) : Nat := 16 - c.locks.length

def firstFree (m : KMap Lock) : Nat → Nat → Nat
  | 0, i => i
  | n + 1, i => if (m.find? i).isSome then firstFree m n (i + 1) else i

/-- Enter a lock at the lowest free index; the index. -/
def Core.addLock (c : Core) (l : Lock) : Core × Nat :=
  let i := firstFree c.locks 16 0
  ({ c with locks := c.locks.put i l }, i)

def Core.addLocks (c : Core) (ls : List Lock) : Core := ls.foldl (fun c l => (c.addLock l).1) c
/-- Enter the locks of a piece of work. -/
def Core.lockWork (c : Core) (kind k owner : Nat) (ls : List (Bool × Nat × Nat)) : Core :=
  c.addLocks (ls.map fun e => { kind := kind, ctx := k, ls := e.1, base := e.2.1, len := e.2.2, owner := owner })

def Core.dropLocks (c : Core) (f : Lock → Bool) : Core :=
  { c with locks := c.locks.filter fun e => !f e.2 }

/-! ### Clauses -/

/-- The top two clause identifiers as ctx.tsrcx holds them: CL0 in [31:16], CL1 in [15:0] (R396). -/
def Ctx.top2 (c : Ctx) : Word :=
  BitVec.ofNat 64 (((c.cls[0]?).getD 0).toNat * 65536 + ((c.cls[1]?).getD 0).toNat)

/-! ### Windows of registers (R31–R33) -/

/-- A spill or a fill of the context is due: it is not ready. -/
def Ctx.spillDue (c : Ctx) : Bool := 5 < c.wbase + 2 - c.wlow
def Ctx.fillDue (c : Ctx) : Bool := c.wbase < c.wlow

/-- Eight free values for a fresh upper half (R31), from the counter `n`. -/
def freshHalf (m : KMap Word) (h n : Nat) : Nat → KMap Word
  | 0 => m
  | k + 1 => (freshHalf m h n k).put (8 * h + k) (Config.freeValue (n + k))

/-- Advance the window by 8. The new g24–g31 hold free values. -/
def Ctx.advance (c : Ctx) (n : Nat) : Ctx :=
  { c with wbase := c.wbase + 1, win := freshHalf c.win (c.wbase + 2) n 8, depth := c.depth + 1 }

/-- Move the window back by 8. -/
def Ctx.retreat (c : Ctx) : Ctx := { c with wbase := c.wbase - 1, depth := c.depth - 1 }

/-- Where the spill that an advance makes due would write (R32); none when none is due. -/
def Ctx.spillAt (c : Ctx) : Option Nat := if 5 < c.wbase + 3 - c.wlow then some c.wsp else none

end Sys2Proof.Machine
end

