-- ==== Sys2Proof/Machine/Flags.lean ====
section
/-! DEFINITION. Conditions and classes: CMP and FCMP (R230, R241), FCLASS (R243), FSGN (R244), the
combining steps of the atomics (R274) and RSTA (R93), and the extension of a loaded element (R258). -/

namespace Sys2Proof

/-- ext of R258: an L6 byte loses bits [7:6]; INT and the 4-bit INT are sign-extended. -/
def Ty.ext (t : Ty) (x : Nat) : Word :=
  if t = .l6 then BitVec.ofNat 64 (x % 64)
  else if t.signed then ofInt (sextInt x t.width)
  else BitVec.ofNat 64 (x % 2 ^ t.width)

namespace Machine

/-- The condition codes 0 to 5 of R230 on an ordering. -/
def condOrd (code : Nat) (o : Ordering) : Bool :=
  match code with
  | 0 => o == .eq
  | 1 => o != .eq
  | 2 => o == .lt
  | 3 => o != .gt
  | 4 => o == .gt
  | 5 => o != .lt
  | _ => false

/-- FCMP (R241). -/
def condFlt (code : Nat) (a b : Val) : Bool :=
  if a.isNan || b.isNan then code == 1 || code == 6
  else if code == 6 then false
  else if code == 7 then true
  else condOrd code (a.cmp b)

/-- FCLASS (R243). -/
def fclassBits (f : Fmt) (x : Nat) : Nat :=
  let s := bitAt x (f.eb + f.fb)
  match f.val x with
  | .nan => 256
  | .inf _ => if s then 1 else 128
  | .fin _ m _ =>
    if m = 0 then (if s then 8 else 16)
    else if fld x f.fb f.eb = 0 then (if s then 4 else 32)
    else (if s then 2 else 64)

/-- FSGN (R244). -/
def fsgnBits (f : Fmt) (op x y : Nat) : Nat :=
  if (f.val x).isNan then f.nan
  else
    let top := f.eb + f.fb
    let sb := bitAt y top && !(f.val y).isNan
    let sg := match op with
      | 0 => sb
      | 1 => !sb
      | _ => bitAt x top != sb
    setBit x top sg

/-- n of R274. -/
def atomNew (op : AtomOp) (t : Ty) (old u cmp : Nat) : Nat :=
  let w := t.width
  let old := old % 2 ^ w
  let u := u % 2 ^ w
  match op with
  | .add => (old + u) % 2 ^ w
  | .and => old &&& u
  | .or => old ||| u
  | .xor => old ^^^ u
  | .min => if t.int old ≤ t.int u then old else u
  | .max => if t.int old ≤ t.int u then u else old
  | .swap => u
  | .cas => if old = cmp % 2 ^ w then u else old
  | .fadd => match fmtOf t with
    | some f => f.round .rne false (Val.add .rne (f.val old) (f.val u))
    | none => old

/-- The near-cache adders (R93). -/
def rstaNew (t : Ty) (old u : Nat) : Nat :=
  match fmtOf t with
  | some f => f.round .rne false (Val.add .rne (f.val old) (f.val u))
  | none => (old + u) % 2 ^ t.width

end Machine
end Sys2Proof
end

