-- ==== Sys2Proof/Machine/Home.lean ====
section
/-! DEFINITION. Translation, home slices, word order, watches and the park heap (R90–R117, R149,
R162, R271, R464): what a home performs as one step. -/

namespace Sys2Proof.Machine
open Sys2Proof

/-- Rights in the bit order of R107. -/
def rR : Nat := 1
def rW : Nat := 2
def rX : Nat := 4
def rA : Nat := 8
def rF : Nat := 16
def hasRights (have_ need : Nat) : Bool := have_ &&& need == need

/-! ### Physical words, as the resolvers read and write them. A modified line of a slice that maps
the frame holds the newer value. DEDUCED, log entry 10. -/

def State.dirtyAt (s : State) (pa : Nat) : Option (Nat × Line) :=
  List.find? (fun (e : Nat × Line) => e.2.dirty && e.2.frame == pa / 64 * 64) s.lines

def State.physWord (s : State) (pa : Nat) : Nat :=
  match s.dirtyAt pa with
  | some (_, l) => ((l.ws[pa / 8 % 8]?).getD 0).toNat
  | none => s.rd (pa / 8 * 8) 8

/-- A resolver's write of a physical word, which the slice line of its frame follows. -/
def State.setPhysWord (s : State) (pa v : Nat) : State :=
  let put := fun (s : State) (e : Nat × Line) =>
    { s with lines := s.lines.put e.1 { e.2 with ws := e.2.ws.set (pa / 8 % 8) (BitVec.ofNat 64 v) } }
  match s.dirtyAt pa with
  | some e => put s e
  | none =>
    let s := s.wr (pa / 8 * 8) 8 v
    match List.find? (fun (e : Nat × Line) => e.2.frame == pa / 64 * 64) s.lines with
    | some e => put s e
    | none => s

/-! ### The walk (R99, R100, R103, R464) -/

/-- A leaf found by a walk: its own address, its entry, its level. -/
inductive Walk where
  | fail
  | leaf (pa entry level : Nat)
deriving DecidableEq, Repr

/-- Walk levels `l` down to 0 from the table at `tab`. -/
def State.walkFrom (s : State) (va : Nat) : Nat → Nat → Walk
  | l, tab =>
    let pa := tab + 8 * fld va (16 + 10 * l) 10
    if hbmEnd ≤ pa then .fail
    else
      let e := s.physWord pa
      if !bitAt e 0 then .fail
      else if bitAt e 1 then
        if l = 3 then .fail
        else if bitAt e 2 then
          -- resident: reserved [15:10]; the frame's low bits at a large page
          if fld e 10 6 = 0 ∧ fld e 16 (10 * l) = 0 ∧ fld e 16 24 < 12582912 then .leaf pa e l else .fail
        else if fld e 8 2 = 0 then .leaf pa e l else .fail
      else if fld e 40 24 = 0 ∧ fld e 2 11 = 0 then
        match l with
        | 0 => .fail
        | l' + 1 => State.walkFrom s va l' (fld e 13 27 * 8192)
      else .fail

def State.walk (s : State) (va : Word) : Walk := s.walkFrom va.toNat 3 s.rootTable

/-- The owner check of R103 for the frame of the 64 KiB piece. -/
def State.ownerOk (s : State) (va : Word) (frame level : Nat) : Bool :=
  let e := (s.frames.get frame 0).toNat
  bitAt e 0 && fld e 16 40 == fld va.toNat 16 40 && fld e 1 2 == level

/-! ### Translation (R101, R402, R407, R464) -/

inductive Xl where
  | ok (base : Nat)
  | absent
  | fail (cause : Nat)
deriving DecidableEq, Repr

/-- The PASID bound to a domain by a queue that is not disabled (R84, R369). The descriptors are
read at their homes. -/
def State.lineOrMem (s : State) (key frame : Nat) : Line :=
  match s.lines.find? key with
  | some l => l
  | none =>
    { ws := (List.range 8).map fun i => BitVec.ofNat 64 (s.rd (frame + 8 * i) 8)
      fe := if frame < hbmEnd then ofBits ((List.range 8).map fun i => s.isFull (frame + 8 * i)) else 255
      poison := ofBits ((List.range 8).map fun i => s.isPoison (frame + 8 * i))
      parked := s.parkedLines.contains (frame / 64)
      dirty := false, frame := frame, fillDom := 0 }

/-- The physical address of a device word with no check of rights, for the machine's own tables; none
when it has no frame, or when the frame's owner is another page (R103). -/
def State.rawAddr (s : State) (va : Word) : Option Nat :=
  match s.walk va with
  | .leaf _ e l =>
    if bitAt e 2 && s.ownerOk va (fld e 16 24 + fld va.toNat 16 (10 * l)) l then
      some (fld e 16 24 * 65536 + va.toNat % 2 ^ (16 + 10 * l))
    else none
  | .fail => none

/-- The resolver notes an access in the leaf of a device address: A, and D for a store (R100). Bits 9 and 8 are
reserved in what is no longer a resident leaf, and stay as they are there. -/
def State.touch (s : State) (va : Word) (store : Bool) : State :=
  let mark := fun (e : Nat) => if store then setBit (setBit e 9 true) 8 true else setBit e 9 true
  match s.xlates.find? (pageKey 0 va) with
  | some x =>
    if store && !x.d then
      let e := s.physWord x.leaf
      let s := if fld e 0 3 = 7 then s.setPhysWord x.leaf (mark e) else s
      { s with xlates := s.xlates.put (pageKey 0 va) { x with d := true } }
    else s
  | none => match s.walk va with
    | .leaf pa e _ => if bitAt e 2 && mark e != e then s.setPhysWord pa (mark e) else s
    | .fail => s

def State.rawRead (s : State) (va : Word) : Option Nat :=
  (s.rawAddr va).map fun pa =>
    (((s.lineOrMem (lineKey 0 va) (pa / 64 * 64)).ws[va.toNat / 8 % 8]?).getD 0).toNat

def State.rawPoison (s : State) (va : Word) : Bool :=
  match s.rawAddr va with
  | some pa => bitAt (s.lineOrMem (lineKey 0 va) (pa / 64 * 64)).poison (va.toNat / 8 % 8)
  | none => false

/-- Word `w` of the descriptor of queue `q` (R369). -/
def State.descVa (s : State) (q w : Nat) : Word := s.qdbase + BitVec.ofNat 64 (64 * q + 8 * w)
def State.desc (s : State) (q w : Nat) : Nat := (s.rawRead (s.descVa q w)).getD 0
def State.qState (s : State) (q : Nat) : Nat := fld (s.desc q 5) 0 2
def State.pasidOf (s : State) (dom : Nat) : Option Nat :=
  ((List.range 64).find? fun q => s.qState q != 0 && fld (s.desc q 1) 48 16 == dom).map
    fun q => fld (s.desc q 1) 28 20

def hostPageKey (pasid : Nat) (va : Word) : Nat := pasid * 2 ^ 44 + va.toNat / 4096

/-- The page request of the page of a host page key is outstanding: one serves every domain of a PASID. -/
def State.priAsked (s : State) (key : Nat) : Bool :=
  2 ^ 64 ≤ key && (s.pasidOf ((key - 2 ^ 64) / 2 ^ 44)).any fun p => s.pri.contains (p * 2 ^ 44 + (key - 2 ^ 64) % 2 ^ 44)

/-- Host half: the ATS answer, cached by page and domain. Execute is requested only for a fetch, so a
cached answer without it is asked for again (R402). A failed page request fails the next translation of
its page (R467). -/
def State.xlateHost (s : State) (dom : Nat) (va : Word) (need : Nat) : State × Xl :=
  let key := pageKey dom va
  let off := va.toNat % 4096
  let ask := fun (_ : Unit) =>
    -- the domain's PASID is read in the queue descriptors
    let s := s.touch s.qdbase false
    if s.priFailed.contains key then ({ s with priFailed := setDel s.priFailed key }, Xl.fail 0x0B)
    else match (s.pasidOf dom).bind fun p => (s.hostPages.find? (hostPageKey p va)).map fun h => (hostPageKey p va, h) with
    | none => (s, .fail 0x0B)
    | some (page, h) =>
      if !h.resident then
        if !s.priOn then (s, .fail 0x0B)
        else if s.pri.contains page || 256 ≤ s.pri.length then (s, .absent)
        else ({ s with pri := setAdd s.pri page }, .absent)
      else if !h.read && !h.write then (s, .fail 0x0B)
      else
        let rights := (if h.read then rR else 0) + (if h.write then rW else 0) +
          (if h.exec && hasRights need rX then rX else 0) + (if h.read && h.write then rA else 0)
        let x : Xlate := ⟨hostBase + h.hpa / 4096 * 4096, rights, 0, true⟩
        ({ s with xlates := s.xlates.put key x },
          if hasRights rights need then .ok (x.base + off) else .fail 0x0B)
  match s.xlates.find? key with
  | some x =>
    if hasRights x.rights need then (s, .ok (x.base + off))
    else if hasRights need rX then ask () else (s, .fail 0x0B)
  | none => ask ()

/-- Device window: the cached leaf, or the walk with its checks; A is set. A non-resident leaf starts
the page-in. -/
def State.xlateDev (s : State) (va : Word) (need : Nat) : State × Xl :=
  let key := pageKey 0 va
  match s.xlates.find? key with
  | some x =>
    (s, if hasRights x.rights need then .ok (x.base + va.toNat % 65536) else .fail 0x0B)
  | none =>
    match s.walk va with
    | .fail => (s, .fail 0x0B)
    | .leaf pa e l =>
      let rights := fld e 3 5
      if !hasRights rights need then (s, .fail 0x0B)
      else if !bitAt e 2 then ({ s with pageIns := setAdd s.pageIns key }, .absent)
      else
        let frame := fld e 16 24 + fld va.toNat 16 (10 * l)
        if !s.ownerOk va frame l then (s, .fail 0x0D)
        else
          ({ s.setPhysWord pa (setBit e 9 true) with
              xlates := s.xlates.put key ⟨frame * 65536, rights, pa, bitAt e 8⟩ },
            .ok (frame * 65536 + va.toNat % 65536))

/-- The rights in the leaf of a device address, resident or not; none when the walk yields no leaf. -/
def State.leafRights (s : State) (va : Word) : Option Nat :=
  match s.xlates.find? (pageKey 0 va) with
  | some x => some x.rights
  | none => match s.walk va with
    | .leaf _ e _ => some (fld e 3 5)
    | .fail => none

/-- Where an access of a domain goes. A resolver translates only what misses in its slice (R101): a
device line that is present is used as it stands, once the rights in its leaf allow it. -/
def State.xlate (s : State) (dom : Nat) (va : Word) (need : Nat) : State × Xl :=
  if isHost va then s.xlateHost dom va need
  else if isDevice va then match s.lines.find? (lineKey dom va) with
    | some l =>
      (s, if (s.leafRights va).all (hasRights · need) then .ok (l.frame + va.toNat % 64) else .fail 0x0B)
    | none => s.xlateDev va need
  else (s, .fail 0x0B)

/-! ### Slices -/

/-- home() of R91: the slice of a line key, 0 to 511. -/
def State.sliceOf (s : State) (key : Nat) : Nat :=
  let va := (keyVa key).toNat
  let h := fld va 6 9 ^^^ fld va 15 9 ^^^ fld va 24 9 ^^^ fld va 33 9 ^^^ fld va 42 6
  let dom := keyDom key
  let h := if keyHost key then h ^^^ dom % 512 ^^^ dom / 512 else h
  let g := if keyHost key then s.hgt.get (1024 + dom % 1024) 0x18 else s.hgt.get (fld va 46 10) 0x18
  let die := (g % 8 + h / 64 % 2 ^ (fld g 3 2)) % 8
  die * 64 + h % 64

/-- Count an event of a domain at the slice of a line (R484). -/
def State.countCache (s : State) (key dom : Nat) (f : CacheCnt → CacheCnt) : State :=
  let i := s.sliceOf key * 65536 + dom % 65536
  { s with cacheCnt := s.cacheCnt.put i (f (s.cacheCnt.get i {})) }
def CacheCnt.addHit (c : CacheCnt) : CacheCnt := { c with hit := c.hit + 1 }
def CacheCnt.addMiss (c : CacheCnt) : CacheCnt := { c with miss := c.miss + 1 }
def CacheCnt.addWbk (c : CacheCnt) : CacheCnt := { c with wbk := c.wbk + 1 }
def CacheCnt.addEvown (c : CacheCnt) : CacheCnt := { c with evown := c.evown + 1 }
def CacheCnt.addDispo (c : CacheCnt) : CacheCnt := { c with dispo := c.dispo + 1 }

/-- Write one line back to physical memory, with its bits, parked flag and poison (R280). -/
def State.writeLine (s : State) (l : Line) (frame : Nat) : State :=
  let s := (List.range 8).foldl (fun s i =>
    let a := frame + 8 * i
    let s := s.wr a 8 ((l.ws[i]?).getD 0).toNat
    (s.setPoison a (bitAt l.poison i)).setFull a (bitAt l.fe i)) s
  { s with parkedLines := setPut s.parkedLines (frame / 64) l.parked }

/-- The frame address that a write-back of a line goes to: its page's translation now (R101), else the
one it was translated to. -/
def State.lineFrame (s : State) (key : Nat) (l : Line) : Nat :=
  if keyHost key then l.frame
  else match s.xlates.find? (linePage key) with
  | some x => x.base + (keyVa key).toNat % 65536
  | none => (s.rawAddr (keyVa key)).getD l.frame

/-- A modified line of a slice is written back, and counted (R484). -/
def State.writeBack (s : State) (key : Nat) (l : Line) : State :=
  (s.countCache key l.fillDom CacheCnt.addWbk).writeLine l (s.lineFrame key l)

/-- Lines of 64 bytes that a slice of 8 MiB holds (R17), a data cache of 128 KiB, an instruction cache of
64 KiB (R90). -/
def sliceLines : Nat := 131072
def dcacheLines : Nat := 2048
def icacheLines : Nat := 1024

/-- Room for a line in its slice: a full slice displaces one of its lines, which is written back and
counted (R484). Which one is not architectural: a free choice. DESIGN CHOICE, log entry 15. -/
def State.displace (s : State) (key dom : Nat) : State :=
  let mine := s.lines.filter fun e => s.sliceOf e.1 == s.sliceOf key
  if mine.length < sliceLines then s
  else match mine[(Config.freeValue s.free).toNat % mine.length]? with
  | none => s
  | some e =>
    let s := if e.2.dirty then s.writeBack e.1 e.2 else s
    let s := s.countCache e.1 e.2.fillDom (if e.2.fillDom = dom then CacheCnt.addEvown else CacheCnt.addDispo)
    { s with lines := s.lines.del e.1, free := s.free + 1 }

/-- A word of the machine's own tables is written at its home, in the bytes of `mask`, with no check of rights;
its line is brought in. A whole word loses its poison, a part of one keeps it (R475). -/
def State.rawPut (s : State) (va : Word) (v mask : Nat) : State :=
  match s.rawAddr va with
  | some pa =>
    let key := lineKey 0 va
    let s := if (s.lines.find? key).isSome then s else s.displace key 0
    let l := s.lineOrMem key (pa / 64 * 64)
    let i := va.toNat / 8 % 8
    let l := { l with ws := l.ws.set i (mergeMask ((l.ws[i]?).getD 0) (BitVec.ofNat 64 v) mask)
                      poison := setBit l.poison i (bitAt l.poison i && mask != 255), dirty := true }
    State.touch { s with lines := s.lines.put key l } va true
  | none => s

def State.rawWrite (s : State) (va : Word) (v : Nat) : State := s.rawPut va v 255

/-- A request that gets no line: one of a domain counts all the same, by whether its slice held the line (R484). -/
def State.refused (s : State) (dom : Nat) (va : Word) : State :=
  let key := lineKey dom va
  if !(isHost va || isDevice va) then s
  else s.countCache key dom (if (s.lines.find? key).isSome then CacheCnt.addHit else CacheCnt.addMiss)

/-- `t`, with the counts of `s`: an access of the machine itself counts in no block (R484). DESIGN CHOICE, log
entry 70. -/
def State.uncounted (s t : State) : State := { t with cacheCnt := s.cacheCnt }

/-- The line of an access that translated to `pa`, brought into its slice. -/
def State.openLine (s : State) (dom : Nat) (va : Word) (pa : Nat) : State × Line :=
  let key := lineKey dom va
  match s.lines.find? key with
  | some l => (s.countCache key dom CacheCnt.addHit, l)
  | none =>
    let s := s.displace key dom
    let l := { s.lineOrMem key (pa / 64 * 64) with fillDom := dom }
    ({ s.countCache key dom CacheCnt.addMiss with lines := s.lines.put key l }, l)

/-- Put the changed line back, its word `i` written in the bytes of `mask`: a device line is dirty, a host
line is never, and those bytes are written through (R171). -/
def State.closeLine (s : State) (dom : Nat) (va : Word) (l : Line) (i mask : Nat) : State :=
  let key := lineKey dom va
  if isHost va then
    let a := l.frame + 8 * i
    let s := s.wr a 8 (mergeMask (BitVec.ofNat 64 (s.rd a 8)) ((l.ws[i]?).getD 0) mask).toNat
    let s := s.setPoison a (bitAt l.poison i)
    { s with lines := s.lines.put key l }
  else { s with lines := s.lines.put key { l with dirty := true } }

/-! ### Core copies of words -/

/-- The core loses its copy of a word, and of fills in flight (R155, R162); `holds`: also of held
data. -/
def Core.dropWord (c : Core) (wk : Nat) (holds : Bool) : Core :=
  { c with
    dcache := c.dcache.del wk
    kcache := c.kcache.del wk
    lineReqs := c.lineReqs.map fun r =>
      if r.line = wk / 8 then
        match r.fill with
        | some (.data ws v p o) => { r with fill := some (.data ws (setBit v (wk % 8) false) p o) }
        | _ => r
      else r
    holds := if holds then c.holds.map fun h =>
        if h.line = wk / 8 then { h with valid := setBit h.valid (wk % 8) false } else h
      else c.holds }

/-- Invalidate the words of a line that the core does not own (R74, R164, R253). -/
def Core.dropUnowned (c : Core) (key : Nat) : Core :=
  { c with dcache := c.dcache.filter fun e => e.1 / 8 != key || e.2.owned }

/-- A context that is woken on a line reads it from its home: unowned words go, what the context holds
of it, and what is on its way (R164, R253). -/
def Core.reread (c : Core) (k key : Nat) : Core :=
  { c.dropUnowned key with
    holds := c.holds.filter fun h => !(h.ctx == k && h.line == key && h.fault.isNone)
    lineReqs := c.lineReqs.map fun r =>
      if r.line = key then
        { r with stale := true, waiters := r.waiters.filter fun w => !(w.1 == k && w.2 != .pfx) }
      else r }

/-- Revoke the owner of a word (R162). -/
def State.revoke (s : State) (wk : Nat) : State :=
  match s.owners.find? wk with
  | some pid => { s.setCore pid ((s.core pid).dropWord wk false) with owners := s.owners.del wk }
  | none => s

/-- Room for a line in a full data cache (R90): the words of a line that no context holds go, which one
is a free choice (R74). DESIGN CHOICE, log entry 15. -/
def State.cacheRoom (s : State) (pid line : Nat) : State :=
  let c := s.core pid
  if c.dcache.length < dcacheLines then s
  else
    let ls := (c.dcache.map (·.1 / 8)).dedup
    let may := ls.filter fun l => !c.holds.any (·.line == l)
    if ls.length < dcacheLines || ls.contains line then s
    else match may[(Config.freeValue s.free).toNat % may.length]? with
    | none => s
    | some l => { s.setCore pid { c with dcache := c.dcache.filter (·.1 / 8 != l) } with free := s.free + 1 }

/-- Register a core as the one owner; it holds the word's present value, acknowledged. -/
def State.makeOwner (s : State) (wk pid : Nat) (v : Word) (poison : Bool) : State :=
  let s := (s.revoke wk).cacheRoom pid (wk / 8)
  let c := (s.core pid).dropWord wk true
  { s.setCore pid { c with dcache := c.dcache.put wk ⟨v, true, poison⟩ } with
    owners := s.owners.put wk pid }

/-! ### Waking (R65, R81, R116) -/

/-- Wake a context from its wait; PARK goes on at next(IP), with the unowned words of its line
dropped (R253). -/
def State.wake (s : State) (pid k : Nat) : State :=
  let c := s.core pid
  let x := c.ctx k
  match x.wait with
  | none => s
  | some w =>
    match w.on with
    | .parkWatch line _ | .parkTimed line =>
      s.setCore pid ((c.reread k line).setCtx k { x with wait := none, ip := nextIp x.ip })
    | .monitor =>
      let c := match x.mon.prev with
        | some (a, _) => c.reread k (lineKey c.dom a)
        | none => c
      s.setCore pid (c.setCtx k { x with wait := none })
    | .fetch _ | .fetchPage _ => s.setCtx pid k { x with wait := none }
    | _ => s.setCtx pid k { x with wait := none, retry := false }

/-- Insert a context by the cycle in which it parked, behind those of the same cycle. -/
def parkOrder : List (Nat × Nat) → Nat × Nat → List (Nat × Nat)
  | [], e => [e]
  | f :: l, e => if e.1 < f.1 then e :: f :: l else f :: parkOrder l e

/-- The contexts of a core whose wait meets a test, in order of parking. -/
def Core.waiting (c : Core) (f : WaitOn → Bool) : List Nat :=
  let ks := (List.range 16).filterMap fun k => match (c.ctx k).wait with
    | some w => if f w.on then some (w.cyc, k) else none
    | none => none
  (ks.foldl parkOrder []).map (·.2)

/-- Wake the contexts of a core whose wait meets a test, in order of parking (R81). -/
def State.wakeIf (s : State) (pid : Nat) (f : WaitOn → Bool) : State :=
  ((s.core pid).waiting f).foldl (fun s k => s.wake pid k) s

def State.wakeAll (s : State) (f : WaitOn → Bool) : State :=
  s.cores.foldl (fun s e => s.wakeIf e.1 f) s

/-- The key of a context of another device. -/
def remoteKey (dev pid k : Nat) : Nat := (dev * 4096 + pid) * 16 + k

/-- The context still waits as the watch says: parked on it, or about to learn that it stands. One of another
device does while its generation is the watch's (R177). -/
def State.watchLive (s : State) (w : Watch) : Bool :=
  match w.chain, w.dev with
  | none, some d => s.remoteGens.get (remoteKey d w.pid w.ctx) w.gen == w.gen
  | none, none =>
    let x := s.ctx w.pid w.ctx
    x.live && x.gen.toNat == w.gen && (x.slot.isSome || match x.wait with
      | some ⟨.word, _, _⟩ | some ⟨.far, _, _⟩ | some ⟨.parkWatch _ _, _, _⟩ | some ⟨.monitor, _, _⟩
      | some ⟨.parkAsk _, _, _⟩ => true
      | _ => false)
  | _, _ => true

/-- Wake what a watch stands for: a context, a chain's engine, a remote device (whose context is not
in this package). A context that has not parked yet finds the wake when it would (R69). -/
def State.wakeWatch (s : State) (w : Watch) : State :=
  match w.chain with
  | some h =>
    let c := s.chain h
    s.setChain h { c with run := c.run.map fun r => { r with waiting := none, front := w.changing } }
  | none =>
    if w.dev.isSome then s
    else
      let x := s.ctx w.pid w.ctx
      match x.wait with
      | some ⟨.word, _, _⟩ | some ⟨.far, _, _⟩ | some ⟨.parkWatch _ _, _, _⟩ | some ⟨.monitor, _, _⟩ =>
        let s := s.wake w.pid w.ctx
        if w.changing then s.setCtx w.pid w.ctx { s.ctx w.pid w.ctx with front := true } else s
      | _ => s.setCtx w.pid w.ctx { x with rung := some w.changing }

/-- Walk the watches of a word after its bit became `full`: those it wakes, those it keeps (R81). -/
def splitWatches (live : Watch → Bool) (wk : Nat) (full : Bool) :
    List Watch → Bool → List Watch × List Watch × List Watch
  | [], _ => ([], [], [])
  | w :: ws, stop =>
    let hit := w.word == wk && w.want == some full
    if hit && !live w then
      let (a, b, c) := splitWatches live wk full ws stop
      (a, b, w :: c)
    else if hit && !stop then
      let (a, b, c) := splitWatches live wk full ws w.changing
      (w :: a, b, w :: c)
    else
      let (a, b, c) := splitWatches live wk full ws stop
      (a, w :: b, c)

/-! ### The park heap (R114, R115, R117, R478, R479). Its records stand in memory alone, and are read
there; `Watch.heap` of a watch read so is its offset. -/

def State.heapOn (s : State) : Bool := decide (16 ≤ s.parkrsz)

def State.heapVa (s : State) (slice off : Nat) : Word :=
  s.parkbase + BitVec.ofNat 64 (slice * 2 ^ s.parkrsz + off)
def State.heapWord (s : State) (slice off : Nat) : Nat := (s.rawRead (s.heapVa slice off)).getD 0
def State.setHeap (s : State) (slice off v : Nat) : State := s.rawWrite (s.heapVa slice off) v
def State.heapBad (s : State) (slice off : Nat) : Bool := s.rawPoison (s.heapVa slice off)

/-- The head of chain `i`, of the free list, and the count of records in use. -/
def chainHead (i : Nat) : Nat := 8 * (i % 512)
def freeHead : Nat := 0x1000
def heapUsed : Nat := 0x1008

/-- Word 0 of the record of a watch. A line watch waits for no state: its WANT is 0, which with KIND 0 no
form has. DESIGN CHOICE, log entry 83. -/
def Watch.record (w : Watch) : Nat :=
  (keyVa (w.word / 8)).toNat + 8 * (w.word % 8) + (if w.want == some true then 4 else 0) +
    (if w.changing then 2 else 0)

/-- The watch of the record at `off`; a host-half address is one of the domain of its core. -/
def State.heapWatch (s : State) (slice off : Nat) : Watch :=
  let w0 := s.heapWord slice off
  let w1 := s.heapWord slice (off + 8)
  { word := wordKey (s.core (fld w1 0 12)).dom (BitVec.ofNat 64 (w0 / 8 * 8))
    want := if bitAt w0 1 || bitAt w0 2 then some (bitAt w0 2) else none
    changing := bitAt w0 1, pid := fld w1 0 12, ctx := fld w1 12 4, gen := fld w1 16 8, heap := some off }

/-- The watches of a chain from the record at `off`, up to its end or to a poisoned record; whether it is
sound. -/
def State.heapFrom (s : State) (slice : Nat) : Nat → Nat → List Watch × Bool
  | 0, _ => ([], true)
  | n + 1, off =>
    if off = 0 then ([], true)
    else if s.heapBad slice off || s.heapBad slice (off + 8) then ([], false)
    else
      let (l, ok) := State.heapFrom s slice n (fld (s.heapWord slice (off + 8)) 24 40)
      (s.heapWatch slice off :: l, ok)

/-- Chain `i` of a region, oldest first; a region holds 2^k / 16 records at most. -/
def State.heapChain (s : State) (slice i : Nat) : List Watch × Bool :=
  if !s.heapOn then ([], true)
  else if s.heapBad slice (chainHead i) then ([], false)
  else s.heapFrom slice (2 ^ s.parkrsz / 16) (fld (s.heapWord slice (chainHead i)) 0 40)

/-- The heap watches of a line. -/
def State.heapOf (s : State) (key : Nat) : List Watch :=
  (s.heapChain (s.sliceOf key) key).1.filter fun w => w.word / 8 == key

/-- The watches of a line in order of parking: the directory's, then the heap's (R113, R116). -/
def State.watchList (s : State) (key : Nat) : List Watch := s.watches.get key [] ++ s.heapOf key

/-- Link `off` behind the last record of `before`, or as the head of chain `i`. -/
def State.heapLink (s : State) (slice i off : Nat) (before : List Watch) : State :=
  match before.getLast?.bind (·.heap) with
  | none => s.setHeap slice (chainHead i) off
  | some t => s.setHeap slice (t + 8) (setFld (s.heapWord slice (t + 8)) 24 40 off)

/-- Take a free record for a watch and append it to its chain; `front`: before the first record of its
line. The record of a line watch holds 0 as its WANT and KIND (DESIGN CHOICE, log entry 83). None when the free
list is empty. -/
def State.heapTake (s : State) (key : Nat) (w : Watch) (front : Bool) : Option State :=
  let slice := s.sliceOf key
  let off := fld (s.heapWord slice freeHead) 0 40
  if !s.heapOn || off = 0 then none
  else
    let chain := (s.heapChain slice key).1
    let before := if front then chain.takeWhile (fun v => v.word / 8 != key) else chain
    let next := ((chain.drop before.length).head?.bind (·.heap)).getD 0
    let s := s.setHeap slice freeHead (fld (s.heapWord slice (off + 8)) 24 40)
    let s := s.setHeap slice heapUsed (s.heapWord slice heapUsed + 1)
    let s := s.setHeap slice off w.record
    let s := s.setHeap slice (off + 8) (next * 2 ^ 24 + w.gen % 256 * 2 ^ 16 + w.ctx * 2 ^ 12 + w.pid)
    some (s.heapLink slice key off before)

/-- Return a record to the free list. -/
def State.heapReturn (s : State) (slice off : Nat) : State :=
  let s := s.setHeap slice (off + 8) (fld (s.heapWord slice freeHead) 0 40 * 2 ^ 24)
  (s.setHeap slice freeHead off).setHeap slice heapUsed (s.heapWord slice heapUsed - 1)

/-- Unlink a record from chain `i` and return it to the free list. -/
def State.heapFree (s : State) (slice i off : Nat) : State :=
  let before := (s.heapChain slice i).1.takeWhile (·.heap != some off)
  (s.heapLink slice i (fld (s.heapWord slice (off + 8)) 24 40) before).heapReturn slice off

/-- The parked flag of a line, in its slice and in HBM (R98, R115). -/
def State.parkLine (s : State) (key : Nat) (p : Bool) : State :=
  let frame := match s.lines.find? key with
    | some l => some l.frame
    | none => match s.xlates.find? (linePage key) with
      | some x => some (x.base + (keyVa key).toNat % 65536)
      | none => s.rawAddr (keyVa key)
  let s := match s.lines.find? key with
    | some l => { s with lines := s.lines.put key { l with parked := p } }
    | none => s
  match frame with
  | some f => if keyHost key then s else { s with parkedLines := setPut s.parkedLines (f / 64) p }
  | none => s

/-- The parked flag says whether the heap holds a record of the line (R115). -/
def State.setParked (s : State) (key : Nat) : State :=
  if s.heapOn then s.parkLine key (!(s.heapOf key).isEmpty) else s

/-- The slice looks at the chain of line `key`. A poisoned one (R479): the watches up to the damage are woken, and
their records return; the parked flag of a line that has no record left falls, here or when the slice next looks for
one. -/
def State.healHeap (s : State) (slice key : Nat) : State :=
  let s := if s.heapOn then s.touch (s.heapVa slice (chainHead key)) false else s
  let (l, ok) := s.heapChain slice key
  if ok then (if s.heapOn && (s.watchList key).isEmpty then s.parkLine key false else s)
  else
    let s := l.foldl (fun s w => if s.watchLive w then s.wakeWatch w else s) s
    let s := l.foldl (fun s w => match w.heap with
      | some off => s.heapReturn slice off
      | none => s) s
    (key :: l.map (·.word / 8)).foldl State.setParked (s.setHeap slice (chainHead key) 0)

/-- Replace the watches of a line: those of `keep` stay where they are, the records of `gone` return. -/
def State.setWatches (s : State) (key : Nat) (keep gone : List Watch) : State :=
  let s := gone.foldl (fun s w => match w.heap with
    | some off => s.heapFree (s.sliceOf key) key off
    | none => s) s
  let dir := keep.filter (·.heap.isNone)
  let s := { s with watches := if dir.isEmpty then s.watches.del key else s.watches.put key dir }
  if gone.any (·.heap.isSome) then s.setParked key else s

/-- Watches of the directory of a slice (R113). -/
def State.dirUsed (s : State) (slice : Nat) : Nat :=
  (s.watches.map fun e => if s.sliceOf e.1 == slice then e.2.length else 0).sum

/-- Register a watch of a line (R113): in the directory of 64 entries, or in the heap. `front`: at the
head of its list (R81), which the directory holds; with the directory full, before the first record of
the line (DESIGN CHOICE, log entry 84). A watch for the directory alone (R177) is not registered while the heap holds
a record of its line, to which R113 sends those that come later: DESIGN CHOICE, log entry 109. False: not
registered. -/
def State.addWatch (s : State) (w : Watch) (heapOk front : Bool) : State × Bool :=
  let key := w.word / 8
  let slice := s.sliceOf key
  let s := (s.healHeap slice key)
  let dir := s.watches.get key []
  if s.dirUsed slice < 64 && (front || (s.heapOf key).isEmpty) then
    ({ s with watches := s.watches.put key (if front then w :: dir else dir ++ [w]) }, true)
  else if heapOk then
    match s.heapTake key w front with
    | some s => (s.setParked key, true)
    | none => (s, false)
  else (s, false)

/-- Wake the watches of a word whose bit changed to `full` (R116). -/
def State.wakeWord (s : State) (wk : Nat) (full : Bool) : State :=
  let s := s.healHeap (s.sliceOf (wk / 8)) (wk / 8)
  let (woken, keep, gone) := splitWatches s.watchLive wk full (s.watchList (wk / 8)) false
  woken.foldl State.wakeWatch (s.setWatches (wk / 8) keep gone)

/-- Wake the line watches of a line that was written (R79, R253). -/
def State.wakeLine (s : State) (key : Nat) : State :=
  let s := s.healHeap (s.sliceOf key) key
  let ws := s.watchList key
  let hit := ws.filter (·.want.isNone)
  if hit.isEmpty then s
  else
    let s := s.setWatches key (ws.filter (·.want.isSome)) hit
    hit.foldl (fun s w => if s.watchLive w then s.wakeWatch w else s) s

/-- All watches of the heap. A region without a record in use is passed over. -/
def State.heapAll (s : State) : List Watch :=
  if !s.heapOn then []
  else (List.range 512).flatMap fun slice =>
    if s.heapWord slice heapUsed = 0 then []
    else (List.range 512).flatMap fun i => (s.heapChain slice i).1

/-- Remove the watches at homes that a test names. -/
def State.removeHomeWatches (s : State) (mine : Watch → Bool) : State :=
  let keys := (s.watches.filter fun e => e.2.any mine).map (·.1) ++
    (s.heapAll.filter mine).map (·.word / 8)
  keys.foldl (fun s key =>
    let ws := s.watchList key
    s.setWatches key (ws.filter fun w => !mine w) (ws.filter mine)) s

/-- Remove the watches that a test names, everywhere. -/
def State.removeWatches (s : State) (mine : Watch → Bool) : State :=
  let s := s.removeHomeWatches mine
  { s with cores := s.cores.mapVals fun c =>
      if c.watches.any mine then { c with watches := c.watches.filter fun w => !mine w } else c }

/-- Cancel the watches of a context everywhere. -/
def State.cancelWatches (s : State) (pid k : Nat) : State :=
  s.removeWatches fun w => w.pid == pid && w.ctx == k && w.chain.isNone && w.dev.isNone

/-! ### One step of the word order -/

/-- The outcome of an operation on a word (R271, R274, R275, R253). -/
inductive Res where
  | ok (v : Word)
  | unready
  | poisoned
deriving DecidableEq, Repr

structure OpRes where
  res : Res
  w : Word
  full : Bool
  poison : Bool
  /-- data was written -/
  wrote : Bool
deriving DecidableEq, Repr

/-- Bit offset and width of an element at byte `off` of its word. -/
def elemBit (t : Ty) (hi : Bool) (off : Nat) : Nat :=
  8 * (off % 8) + (if t.width = 4 && hi then 4 else 0)

def getElem (w : Word) (t : Ty) (hi : Bool) (off : Nat) : Nat := fld w.toNat (elemBit t hi off) t.width

def putElem (w : Word) (t : Ty) (hi : Bool) (off v : Nat) : Word :=
  BitVec.ofNat 64 (setFld w.toNat (elemBit t hi off) t.width v)

/-- Bytes of an element, at least 1. -/
def elemBytes (t : Ty) : Nat := max (t.width / 8) 1

/-- The bytes of its word that an operation writes. -/
def opMask (op : HomeOp) (off : Nat) : Nat := match op with
  | .store t _ _ | .atomic _ t _ _ | .rsta t _ => ones (elemBytes t) * 2 ^ (off % 8)
  | .put _ mask _ _ => mask
  | _ => 255

/-- What an operation does to a word with its bit (byte offset `off` of the access). -/
def opEval (op : HomeOp) (off : Nat) (w : Word) (full poison : Bool) : OpRes :=
  let same := fun r => OpRes.mk r w full poison false
  match op with
  | .load t hi => if poison then same .poisoned else same (.ok (t.ext (getElem w t hi off)))
  | .store t hi v =>
    ⟨.ok 0, putElem w t hi off (if t = .l6 then v.toNat % 64 else v.toNat), full,
      poison && t.width != 64, true⟩
  | .ldw => if !full then same .unready else if poison then same .poisoned else same (.ok w)
  | .ldc => if !full then same .unready else if poison then same .poisoned
      else ⟨.ok w, w, false, poison, false⟩
  | .feq => same (.ok (if full then 1 else 0))
  | .feset => ⟨.ok 0, w, true, poison, false⟩
  | .stf v => if full then same .unready else ⟨.ok 0, v, true, false, true⟩
  | .ste v => ⟨.ok 0, v, false, false, true⟩
  | .atomic o t u cmp =>
    if poison then same .poisoned
    else
      let old := getElem w t false off
      ⟨.ok (t.ext old), putElem w t false off (atomNew o t old u.toNat cmp.toNat), full, false, true⟩
  | .rsta t u =>
    if poison then same .poisoned
    else ⟨.ok 0, putElem w t false off (rstaNew t (getElem w t false off) u.toNat), full, false, true⟩
  | .peek => same (.ok w)
  | .park v => if poison then same .poisoned else if w = v then same .unready else same (.ok 0)
  | .put v mask fe p =>
    ⟨.ok 0, mergeMask w v mask, fe.getD full, p || (poison && mask != 255), true⟩

/-- A filling form, whose unwanted state is FULL. -/
def fills : HomeOp → Bool
  | .stf _ => true
  | _ => false

/-- The watch that a form asks for (R271). -/
def watchOf (op : HomeOp) (word pid ctx gen : Nat) : Watch :=
  { word := word
    want := match op with
      | .ldw | .ldc => some true
      | .stf _ => some false
      | _ => none
    changing := match op with
      | .ldc | .stf _ => true
      | _ => false
    pid := pid, ctx := ctx, gen := gen }

/-- The right an operation needs (R108). -/
def opNeed : HomeOp → Nat
  | .load _ _ | .park _ | .peek => rR
  | .store _ _ _ => rW
  | .ldw | .ldc | .feq | .feset | .stf _ | .ste _ => rF
  | .atomic _ _ _ _ | .rsta _ _ => rA
  | .put _ _ fe _ => if fe.isSome then rW + rF else rW

/-- It revokes the owner of the word (R162). -/
def opRevokes : HomeOp → OpRes → Bool
  | .atomic _ _ _ _, r | .rsta _ _, r | .ldc, r | .stf _, r =>
    (match r.res with | .ok _ => true | _ => false)
  | .store _ _ _, _ | .ste _, _ | .feset, _ | .put _ _ _ _, _ => true
  | _, _ => false

/-- What a home answers. -/
inductive HomeAns where
  | done (r : Res)
  | absent
  | fault (cause : Nat)
deriving DecidableEq, Repr

/-- Perform an operation at the home of a word as one step: the line is opened, the word changed in the
bytes of `mask`, the owner revoked, and watches woken. -/
def State.homeStep (s : State) (dom : Nat) (va : Word) (need mask : Nat)
    (f : Nat → Word → Bool → Bool → OpRes) (revoke : OpRes → Bool) : State × HomeAns :=
  match s.xlate dom va need with
  | (s, .absent) => (s.refused dom va, .absent)
  | (s, .fail c) => (s.refused dom va, .fault c)
  | (s, .ok pa) =>
    let (s, l) := s.openLine dom va pa
    let i := va.toNat / 8 % 8
    let wk := wordKey dom va
    let full := bitAt l.fe i
    let r := f (va.toNat % 8) ((l.ws[i]?).getD 0) full (bitAt l.poison i)
    let s := if revoke r then s.revoke wk else s
    let changed := r.full != full
    let s := if r.wrote || changed || r.poison != bitAt l.poison i then
        s.closeLine dom va { l with ws := l.ws.set i r.w, fe := setBit l.fe i r.full,
                                    poison := setBit l.poison i r.poison } i mask
      else s
    let s := if r.wrote && isDevice va then s.touch va true else s
    let s := if changed then s.wakeWord wk r.full else s
    let s := if r.wrote || changed then s.wakeLine (wk / 8) else s
    (s, .done r.res)

def State.homeOp (s : State) (dom : Nat) (va : Word) (op : HomeOp) : State × HomeAns :=
  s.homeStep dom va (opNeed op) (opMask op va.toNat) (opEval op) (opRevokes op)

/-- A read of one whole word by an engine, a sweep, a command processor: data, bit, poison. -/
inductive WordAns where
  | ok (w : Word) (full poison : Bool)
  | absent
  | fault (cause : Nat)
deriving DecidableEq, Repr

def State.homePeek (s : State) (dom : Nat) (va : Word) (need : Nat) : State × WordAns :=
  match s.xlate dom va need with
  | (s, .absent) => (s.refused dom va, .absent)
  | (s, .fail c) => (s.refused dom va, .fault c)
  | (s, .ok pa) =>
    let (s, l) := s.openLine dom va pa
    let i := va.toNat / 8 % 8
    (s, .ok ((l.ws[i]?).getD 0) (bitAt l.fe i) (bitAt l.poison i))

def State.homeRead (s : State) (dom : Nat) (va : Word) : State × WordAns := s.homePeek dom va rR

/-- A read of the machine itself, which counts in no block. -/
def State.quietRead (s : State) (dom : Nat) (va : Word) : State × WordAns :=
  let r := s.homeRead dom va
  (s.uncounted r.1, r.2)

/-- A write of bytes of one word, its poison carried, with the bit as `fe` says (none: preserved).
It revokes the owner and registers none (R180). -/
def State.homeWrite (s : State) (dom : Nat) (va : Word) (v : Word) (mask : Nat) (fe : Option Bool)
    (poison : Bool) : State × HomeAns :=
  s.homeOp dom (va - BitVec.ofNat 64 (va.toNat % 8)) (.put v mask fe poison)

/-- A whole word that the machine itself writes, which counts in no block. -/
def State.quietWrite (s : State) (dom : Nat) (va v : Word) (fe : Option Bool) (poison : Bool) : State × HomeAns :=
  let r := s.homeWrite dom va v 255 fe poison
  (s.uncounted r.1, r.2)

/-- An addition of the machine itself, which counts in no block. -/
def State.homeAdd (s : State) (dom : Nat) (va : Word) (n : Nat) : State × HomeAns :=
  let r := s.homeOp dom va (.atomic .add .i64 (BitVec.ofNat 64 n) 0)
  (s.uncounted r.1, r.2)

/-- A store of the machine itself into its own tables: the bytes of `mask` of the word are written, its owner revoked
and its line watches woken, with no check of rights. -/
def State.ownPut (s : State) (va : Word) (v mask : Nat) : State :=
  ((s.rawPut va v mask).revoke (wordKey 0 va)).wakeLine (lineKey 0 va)

def State.ownWrite (s : State) (va : Word) (v : Nat) : State := s.ownPut va v 255

/-! ### Fabric accesses performed here (R174, R175, R408, R483) -/

/-- A valid import entry of the source holds the rights. -/
def State.imported (s : State) (src dom need : Nat) : Bool :=
  s.imports.any fun (e : Nat × Word) =>
    let w := e.2.toNat
    bitAt w 63 && fld w 32 12 == src && fld w 0 16 == dom && hasRights (fld w 16 5) need

/-- The device-window address that a fabric-window address names at its device. -/
def fabricVa (off : Nat) : Word := BitVec.ofNat 64 (2 ^ 63 + off % 2 ^ 44)

/-- A fabric-window address that names this device: its offset. -/
def State.loopback (s : State) (va : Word) : Option Nat :=
  match windowOf 0 va with
  | .fabric dev off => if dev = s.fabn.toNat then some off else none
  | _ => none

/-- The address of the aligned word that holds a byte. -/
def wordAddr (a : Word) : Word := BitVec.ofNat 64 (a.toNat / 8 * 8)

/-- The aligned word that an address names at its home: one of this device, named through the fabric window, is the
word of the device window (R149, R408). -/
def State.homeWord (s : State) (va : Word) : Word :=
  match s.loopback va with
  | some off => wordAddr (fabricVa off)
  | none => wordAddr va

/-! ### The owning core's side of local store (R158, R273) -/

/-- Word number of a local-store offset in the watch tables. -/
def lsWord (pid off : Nat) : Nat := lsAddr pid off / 8

/-- Wake the local-store watches of a core after a step on the word at `off`. -/
def State.lsWake (s : State) (pid off : Nat) (changed full wrote : Bool) : State :=
  let wk := lsWord pid off
  let c := s.core pid
  let (woken, keep, _) :=
    if changed then splitWatches s.watchLive wk full c.watches false else ([], c.watches, [])
  let lw := if wrote || changed then
      keep.filter fun w => w.want.isNone && w.word / 8 == wk / 8 else []
  let keep := if wrote || changed then
      keep.filter fun w => !(w.want.isNone && w.word / 8 == wk / 8) else keep
  if woken.isEmpty && lw.isEmpty && keep.length == c.watches.length then s
  else
    let s := s.setCore pid { c with watches := keep }
    (woken ++ lw.filter s.watchLive).foldl State.wakeWatch s

/-- One step on a word of a core's local store. -/
def State.lsStep (s : State) (pid off : Nat) (f : Nat → Word → Bool → Bool → OpRes) : State × Res :=
  let a := lsAddr pid off / 8 * 8
  let full := s.isFull a
  let r := f (off % 8) (BitVec.ofNat 64 (s.rd a 8)) full (s.isPoison a)
  let s := if r.wrote then s.wr a 8 r.w.toNat else s
  let s := if r.poison != s.isPoison a then s.setPoison a r.poison else s
  let s := if r.full != full then s.setFull a r.full else s
  (s.lsWake pid off (r.full != full) r.full r.wrote, r.res)

def State.lsOp (s : State) (pid off : Nat) (op : HomeOp) : State × Res :=
  s.lsStep pid off (opEval op)

/-- Register a watch in the local-store watch table: 64 entries, 16 of them for own contexts. -/
def State.addLsWatch (s : State) (owner : Nat) (w : Watch) (front : Bool) : State × Bool :=
  let c := s.core owner
  let foreign := (c.watches.filter (·.pid != owner)).length
  if w.pid != owner && 48 ≤ foreign then (s, false)
  else (s.setCore owner { c with watches := if front then w :: c.watches else c.watches ++ [w] }, true)

end Sys2Proof.Machine
end

