-- ==== Sys2Proof/Machine/Team.lean ====
section
/-! DEFINITION. What happens to a team from outside its contexts: stops, release, completion, failure
(R53, R456–R462), and the platform records (R509–R517, R521–R525). -/

namespace Sys2Proof.Machine
open Sys2Proof

/-- Ticks of a time (R95). -/
def tNs (n : Nat) : Nat := 840 * n
def tUs (n : Nat) : Nat := 840000 * n
def tMs (n : Nat) : Nat := 840000000 * n

/-! ### The platform area (R509) -/

def State.platVa (s : State) (off : Nat) : Word := s.qdbase + BitVec.ofNat 64 off

/-- A record of the platform event ring (R521). A field that the manual does not state for the event is a
free value. -/
def State.event (s : State) (src : Nat) (code w1 w2 : Option Nat) : State :=
  let n := s.root.events
  let at_ := 0x2040 + 32 * (n % 126)
  let code := code.getD ((Config.freeValue s.free).toNat % 256)
  let w1 := w1.getD (Config.freeValue (s.free + 1)).toNat
  let w2 := w2.getD (Config.freeValue (s.free + 2)).toNat
  let s := { s with free := s.free + 3 }
  let s := s.ownWrite (s.platVa at_) (n % 2 ^ 32 * 2 ^ 32 + src * 2 ^ 16 + code * 2 ^ 8)
  let s := s.ownWrite (s.platVa (at_ + 8)) w1
  let s := s.ownWrite (s.platVa (at_ + 16)) w2
  let s := s.ownWrite (s.platVa (at_ + 24)) (s.core 0).cyc
  { s with root := { s.root with events := n + 1 } }

def State.msi (s : State) (q : Nat) : State := { s with msix := setAdd s.msix q }

def State.setQState (s : State) (q st : Nat) : State := s.ownWrite (s.descVa q 5) st

/-- The health word (R517): bit `n` of WHY, and at least state `least`. A state never falls. A change of it raises an
I3C alert and enters the event ring; at FAILED every queue is stopped. -/
def State.condition (s : State) (n least : Nat) : State :=
  let h := max s.root.health least
  let why := setBit s.root.why n true
  let changed := h != s.root.health
  let s := { s with root := { s.root with health := h, why := why } }
  let s := s.ownWrite (s.platVa 0x2000) (why * 2 ^ 16 + h)
  let s := if changed then s.event 7 none none none else s
  let s := if changed then { s with root := { s.root with alerts := s.root.alerts + 1 } } else s
  if changed && h == 3 then (List.range 64).foldl (fun s q => s.setQState q 2) s else s

/-- Add 1 to a field record, saturating at `bytes` (R436, R525). -/
def State.field (s : State) (off bytes : Nat) : State :=
  { s with root := { s.root with
      fields := s.root.fields.put off (min (s.root.fields.get off 0 + 1) (2 ^ (8 * bytes) - 1)) } }

/-- A queue fault (R510, R511): the record, then STATE, then the vector. -/
def State.queueFault (s : State) (q code pkt cause pid team : Nat) (tip info src srcx : Word)
    (state : Nat) : State :=
  let at_ := 0x1000 + 64 * q
  let count := min (fld ((s.rawRead (s.platVa at_)).getD 0) 0 8 + 1) 255
  let s := s.ownWrite (s.platVa at_)
    (pkt % 2 ^ 32 * 2 ^ 32 + code * 2 ^ 16 + cause * 2 ^ 8 + count)
  let s := s.ownWrite (s.platVa (at_ + 8)) (pid * 2 ^ 32 + team)
  let s := s.ownWrite (s.platVa (at_ + 16)) tip.toNat
  let s := s.ownWrite (s.platVa (at_ + 24)) info.toNat
  let s := s.ownWrite (s.platVa (at_ + 32)) src.toNat
  let s := s.ownWrite (s.platVa (at_ + 40)) srcx.toNat
  (s.setQState q state).msi q

/-! ### Zones: what placement and release change (R417, R423) -/

def State.zoneCores (s : State) (z : Nat) : List (Nat × Core) :=
  s.cores.filter fun e => zoneOf e.1 == z && e.2.team.isSome

/-- The placed cores of a zone, and those that a move holds for a rank (R56). -/
def State.heldCores (s : State) (z : Nat) : List (Nat × Core) :=
  s.cores.filter fun e => zoneOf e.1 == z && (e.2.team.isSome || e.2.reserved.isSome)

/-- The need of a cooling class in 1/4096 of package flow. -/
def State.coolNeed (s : State) (k : Nat) : Nat :=
  fld (if k < 8 then s.power.ccls0 else s.power.ccls1).toNat (8 * (k % 8)) 8
def State.classWatts (s : State) (k : Nat) : Nat :=
  fld (if k < 8 then s.power.pcls0 else s.power.pcls1).toNat (8 * (k % 8)) 8

/-- The need of some cores in 1/256 of package flow (R423), and their watts (R417). -/
def State.needOfCores (s : State) (cs : List (Nat × Core)) : Nat := ceilDiv ((cs.map fun e => s.coolNeed e.2.cool).sum) 16
def wattsOf (cs : List (Nat × Core)) : Nat := (cs.map fun e => e.2.watts).sum

/-- NEED and COMMIT of a zone from its placed cores. -/
def State.reZone (s : State) (z : Nat) : State :=
  let cs := s.zoneCores z
  s.setZone z { s.zone z with need := s.needOfCores cs, commit := wattsOf cs }

/-- The zone temperature (R424). -/
def State.zoneTemp (s : State) (z : Nat) : Int :=
  let ts := (List.range 17).map fun r => (s.core (z / 16 * 512 + r * 16 + z % 16)).temp
  ts.foldl max (ts.headD 0)

/-- R43, R417, R424: the reason the zone is withheld: 1 budget, 2 temperature, 3 evacuation. -/
def State.withheld (s : State) (z : Nat) : Option Nat :=
  let x := s.zone z
  if x.evac || x.retired then some 3 else if x.hot then some 2 else if x.spent then some 1 else none

/-! ### Where messages go, and when they have arrived (R48, R57, R457) -/

def Msg.isSoftware (m : Msg) : Bool :=
  match m.kind with
  | .software _ _ _ _ _ => true
  | _ => false

def Msg.isArrival (m : Msg) : Bool :=
  match m.kind with
  | .arrival _ => true
  | _ => false

def Msg.isReply (m : Msg) : Bool :=
  match m.kind with
  | .software rep _ _ _ _ => rep
  | _ => false

/-- The physical core of the destination rank, while the team is resident (R48, R57). -/
def State.msgCore (s : State) (m : Msg) : Option Nat :=
  match s.teams.find? m.team with
  | some t => if t.swapped then none else t.map[m.rank]?
  | none => none

/-- MRECV counts the messages of the request network (R457). -/
def Core.received (c : Core) (m : Msg) : Core :=
  match m.kind with
  | .software true _ _ _ _ => c
  | _ => if m.queued then c else { c with mrecv := (c.mrecv + 1) % 2 ^ 32 }

/-- The software messages of the request network on their way to a core, some of which have arrived: of one source the
first ones, behind none that is still to be performed; how many is a free choice, of the values from number `n` on.
`late`: the sources of which no more have. -/
def State.arrived (s : State) (pid : Nat) : List Msg → Nat → List Nat → List Msg
  | [], _, _ => []
  | m :: l, n, late =>
    if m.isReply || m.isArrival || m.returned.isSome || m.queued || s.msgCore m != some pid then
      State.arrived s pid l n late
    else if m.isSoftware && !late.contains m.pid && (Config.freeValue n).toNat % 2 = 1 then
      m :: State.arrived s pid l (n + 1) late
    else State.arrived s pid l (n + 1) (m.pid :: late)

/-- A core queues and counts the software messages that have arrived (R456, R457). -/
def State.arrive (s : State) (pid : Nat) : State :=
  let l := s.arrived pid s.msgs s.free []
  let c := l.foldl Core.received (s.core pid)
  { s.setCore pid c with
    msgs := s.msgs.map fun m => if l.contains m then { m with queued := true } else m
    free := s.free + s.msgs.length }

/-! ### Stopping (R456, R457) -/

/-- Stop one core and write its stop record. -/
def State.stopCore (s : State) (pid reason : Nat) : State :=
  let c := s.core pid
  s.setCore pid { c with stopped := true, stopCyc := c.cyc, stopSent := c.msent, stopRecv := c.mrecv,
                         stopEpoch := s.epoch, stopReason := reason }

/-- Stop a set of cores; every stop has its number. What has arrived by then is counted in the stop records. -/
def State.fullStop (s : State) (pids : List Nat) (reason : Nat) : State :=
  pids.foldl (fun s p => (s.arrive p).stopCore p reason) { s with epoch := s.epoch + 1 }

def State.resume (s : State) (pids : List Nat) : State :=
  pids.foldl (fun s p => s.setCore p { s.core p with stopped := false }) s

/-! ### Trace (R425–R428) -/

/-- A record enters the section at time `t`. -/
def Core.enter (c : Core) (t : Nat) (r : Word) : Core := { c with trace := c.trace ++ [r], made := c.made ++ [t] }

/-- The loss record, which names the context and the clauses of the record that waited, and that record (R425,
R428). -/
def Core.enterWaiting (c : Core) (t : Nat) : Core :=
  match c.waitRec with
  | none => c
  | some (made, r) =>
    let w := r.toNat
    let loss := 4 * 2 ^ 56 + fld w 24 32 * 2 ^ 24 + min c.loss 0x3FFFF * 64 + fld w 2 4 * 4
    { (c.enter t (BitVec.ofNat 64 loss)).enter made r with loss := 0, waitRec := none }

/-- A record is made at time `t`. One that finds the section of 128 full is not written: it is counted, and the
newest of them waits for space (R428). With draining off the newest 128 records stay (R430), and one that waits goes
in before the next. -/
def Core.record (c : Core) (sz t : Nat) (r : Word) : Core :=
  let c := if sz = 0 then
      let d := (c.enterWaiting t).enter t r
      { d with trace := d.trace.drop (d.trace.length - 128), made := d.made.drop (d.trace.length - 128) }
    else if c.trace.length < 128 then c.enter t r
    else { c with loss := c.loss + 1, waitRec := some (t, r) }
  { c with lastRec := c.cyc }

/-- There is space again for what waited (R428). -/
def Core.resumeTrace (c : Core) (t : Nat) : Core := if 126 < c.trace.length then c else c.enterWaiting t

/-- A trace record of a context (R425). -/
def traceWord (kind mid low : Nat) (k : Nat) (x : Ctx) : Word :=
  BitVec.ofNat 64 (kind * 2 ^ 56 + ((x.cls[0]?).getD 0).toNat * 2 ^ 40 +
    ((x.cls[1]?).getD 0).toNat * 2 ^ 24 + mid % 2 ^ 18 * 64 + k * 4 + low)

/-- SZ of cp.trbase. -/
def State.traceSz (s : State) : Nat := s.trbase.toNat % 32

/-- The kinds of wait of R426: 1 on a message kind, 2 on memory, 0 any other. -/
def waitKind : WaitOn → Nat
  | .sem _ | .barrier | .ring | .events | .helper | .message => 1
  | .line _ | .reply | .word | .far | .timed | .page _ | .parkPage _ => 2
  | .busy r => if [4, 6, 11, 12, 13].contains r then 2 else 0
  | .parkLock => 2
  | _ => 0

/-- What a context counts as for R426: 3 not live, 1 parked on a message kind, 2 waiting on memory, or last returned
with ARMED set on memory, 0 otherwise. -/
def Ctx.traceKind (x : Ctx) : Nat :=
  if !x.live then 3
  else
    let parked := (x.wait.map fun w => waitKind w.on).getD 0
    let code := x.oc.toNat % 8
    let reason := x.oc.toNat / 8
    if parked != 0 then parked
    else if x.armed && (code == 1 || code == 2 && reason == 0 || code == 3 || code == 5 ||
        code == 4 && [4, 6, 11, 12, 13].contains reason) then 2 else 0

/-- The state of a core (R426). -/
def Core.traceState (c : Core) : Nat :=
  let live := (List.range 16).filter fun k => (c.ctx k).live
  let kind := fun k => (c.ctx k).traceKind
  if live.isEmpty then 3
  else if live.all fun k => (c.ctx k).wait.isSome && kind k == 1 then 1
  else if live.all fun k => kind k != 0 then 2 else 0

/-- Write a state-change record when the core's state has changed since its last one; it names the
lowest context that changed (R426). `c0` is the core before the step. -/
def Core.traceChange (c0 c : Core) (sz t : Nat) : Core :=
  let st := c.traceState
  if st = c.tstate then c
  else
    let k := ((List.range 16).find? fun k => (c0.ctx k).traceKind != (c.ctx k).traceKind).getD 0
    { c.record sz t (traceWord 0 (min (c.cyc - c.lastRec) 0x3FFFF) st k (c.ctx k)) with tstate := st }

/-- The state records of one step. -/
def State.traceStep (s0 s : State) : State :=
  { s with cores := s.cores.map fun e => (e.1, (s0.core e.1).traceChange e.2 s.traceSz s.ticks) }

/-! ### Buffered stores at their homes (R109, R110, R267) -/

def storeOp (e : SEntry) (off : Nat) (w : Word) (full poison : Bool) : OpRes :=
  let _ := off
  if e.fe = 1 then ⟨.ok 0, e.data, false, false, true⟩
  else if e.fe = 2 then ⟨.ok 0, w, true, poison, false⟩
  else match e.nib with
    | some hi =>
      let b := 8 * (e.va.toNat % 8) + (if hi then 4 else 0)
      ⟨.ok 0, BitVec.ofNat 64 (setFld w.toNat b 4 (fld e.data.toNat b 4)), full, poison, true⟩
    | none => ⟨.ok 0, mergeMask w e.data e.bmask, full, poison && e.bmask != 255, true⟩

/-- The bytes of its word that an entry writes. -/
def SEntry.mask (e : SEntry) : Nat := if e.fe = 0 then e.bmask else 255

/-- The home performs an entry, registers the core as owner and acknowledges (R162). The home of a fabric
address is here when it names this device, and refuses what no import entry allows (R408, R483). -/
def State.performStore (s : State) (pid : Nat) (e : SEntry) : State × HomeAns :=
  let need := if e.fe = 0 then rW else rF
  let here := fun (va : Word) => s.homeStep e.dom va need e.mask (storeOp e) (fun _ => true)
  if isFabric e.va then
    match s.loopback e.va with
    | none => (s, .done (.ok 0))
    | some off => if s.imported s.fabn.toNat e.dom need then here (fabricVa off) else (s, .fault 0x0C)
  else match here e.va with
  | (s, .done r) => match s.lines.find? (lineKey e.dom e.va) with
    | some l =>
      let i := e.va.toNat / 8 % 8
      (s.makeOwner (wordKey e.dom e.va) pid ((l.ws[i]?).getD 0) (bitAt l.poison i), .done r)
    | none => (s, .done r)
  | r => r

/-- Acknowledge an entry: it is freed, and contexts that wait on acknowledgements or on the buffer
wake (R65, R277). -/
def State.ackStore (s : State) (pid seq : Nat) : State :=
  let c := s.core pid
  let s := s.setCore pid { c with sbuf := c.sbuf.filter (·.seq != seq) }
  s.wakeIf pid fun w => w == .busy 6 || w == .busy 11

/-! ### Messages -/

/-- Messages that a core has sent and that are neither performed nor returned. -/
def State.posted (s : State) (pid : Nat) : List Msg := s.msgs.filter fun m => m.pid == pid &&
  (match m.kind with | .access _ _ _ | .parkCheck _ _ => false | _ => true)

/-! ### Completion, release, failure -/

/-- A context that holds no instruction pointer: its registers keep what they held. -/
def Ctx.left (x : Ctx) : Ctx :=
  { g := x.g, win := x.win, wbase := x.wbase, wlow := x.wlow, p := x.p, oc := x.oc, nrip := x.nrip
    init := x.init, count := x.count, gen := x.gen, cnum := x.cnum }

/-- The core leaves its team: its registers, semaphores and pools hold what the rank left (R389, R391, R508), but for
what its team gave it or it waited for. The watts and the cooling class of a move that holds it stay (R417, R423). -/
def Core.released (c : Core) : Core :=
  { c with
    ctxs := c.ctxs.mapVals Ctx.left, team := none, rot := 15, last0 := c.cyc, floor := none, chn := []
    locks := [], semWait := [], allots := [], dcache := [], kcache := [], icache := [], lineReqs := [], holds := []
    absents := [], sbuf := [], watches := [], sweeps := [], mats := [], posts := [], dropped := 0, poisonTold := []
    finishing := none, migrate := none, watts := if c.reserved.isSome then c.watts else 0
    cool := if c.reserved.isSome then c.cool else 0 }

/-- A core as it stands before a team starts on it (R52, R392): what belongs to the physical core stays (R401). -/
def Core.fresh (c : Core) : Core :=
  let d := c.released
  { ({} : Core) with
    ctxs := d.ctxs, sems := d.sems, cyc := d.cyc, clk := d.clk, temp := d.temp, tthr := d.tthr, perms := d.perms
    trace := d.trace, made := d.made, waitRec := d.waitRec, lines := d.lines, loss := d.loss, lastRec := d.lastRec
    tstate := d.tstate, stopped := d.stopped, stopCyc := d.stopCyc, stopSent := d.stopSent, stopRecv := d.stopRecv
    stopEpoch := d.stopEpoch, stopReason := d.stopReason, gated := d.gated, hot := d.hot, clkHeld := d.clkHeld
    reserved := d.reserved, watts := d.watts, cool := d.cool, vregs := d.vregs, tregs := d.tregs, seq := d.seq
    last0 := d.last0 }

/-- Local store whose data the manual leaves undefined (R106, R522): every word full, and its bytes read as
those that nothing has written. DESIGN CHOICE, unsafe, log entry 5. -/
def State.clearLs (s : State) (pid : Nat) : State :=
  let lo := lsAddr pid 0
  let out := fun (a : Nat) => decide (a < lo) || decide (lo + 2 ^ 20 ≤ a)
  { s with mem := s.mem.filter fun c => out c.1
           empties := s.empties.filter fun w => out (8 * w)
           poison := s.poison.filter fun w => out (8 * w) }

/-- Registers of a pool whose data is undefined (R522): free values of `n` words each. -/
def undefinedPool (regs n free : Nat) : KMap PReg :=
  (List.range regs).map fun i => (i, {
    v := ((List.range n).map fun j => (Config.freeValue (free + n * i + j)).toNat * 2 ^ (64 * j)).sum
    tag := (Config.freeValue (free + n * regs + i)).toNat % 16
    sc := ((List.range 4).map fun j =>
      (Config.freeValue (free + n * regs + regs + 4 * i + j)).toNat * 2 ^ (64 * j)).sum })

/-- A core of a partition that was reset (R522). -/
def State.idleCore (s : State) (pid : Nat) : State :=
  let n := s.free
  let c := { (s.core pid).fresh with
    stopped := false, ctxs := [], sems := [], vregs := undefinedPool 256 8 n, tregs := undefinedPool 32 256 (n + 3328) }
  State.clearLs { s.setCore pid c with free := n + 11680 } pid

/-- Words that a core owns leave it: its copies go, and no owner is registered. -/
def State.disown (s : State) (pid : Nat) : State :=
  { s with owners := s.owners.filter fun e => e.2 != pid }

/-- The keys by which cores, chains and teams stand in `Power.ran`. -/
def ranCore (pid : Nat) : Nat := pid
def ranChain (h : Nat) : Nat := 4096 + h
def ranTeam (t : Nat) : Nat := 2 ^ 20 + t

/-- What has worked for a domain does so no longer: the next booking charges that domain first (R418). -/
def State.ranFor (s : State) (key : Nat) (dom : Option Nat) : State :=
  { s with power := { s.power with ran := s.power.ran ++ [(key, dom)] } }

/-- A core leaves its team. The ramp limiter keeps no place for what it was refused (R384). -/
def State.releaseCore (s : State) (pid : Nat) : State :=
  let c := s.core pid
  let s := s.ranFor (ranCore pid) (c.team.map fun _ => c.dom)
  let s := (s.disown pid).setCore pid { c.released with stopped := false }
  let z := zoneOf pid
  (s.setZone z { s.zone z with refused := (s.zone z).refused.filter (·.pid != pid) }).reZone z

/-- The domain of a team. -/
def State.teamDom (s : State) (t : Nat) : Option Nat :=
  (s.teams.find? t).bind fun (t : Team) => (s.grids.find? t.grid).map fun (g : Grid) => g.dom

/-- The domain that the records of a chain work for. -/
def State.chainDom (s : State) (h : Nat) : Option Nat :=
  let c := s.chain h
  match c.team with
  | some t => s.teamDom t
  | none => (c.run.map (·.rc.dom)).or (c.recs.head?.map (·.dom))

/-- Chains go, with their watches and the images that their records carry. -/
def State.dropChains (s : State) (hs : List Nat) : State :=
  let s := s.removeWatches fun w => match w.chain with
    | some h => hs.contains h
    | none => false
  let s := hs.foldl (fun s h => s.ranFor (ranChain h) (s.chainDom h)) s
  { s with
    homeReqs := s.homeReqs.filter fun r => match r.chain with
      | some h => !hs.contains h
      | none => true
    chains := s.chains.filter (fun e => !hs.contains e.1)
    offers := s.offers.filter fun o => !hs.contains o.chain }

/-- A grid whose started teams have all ended, and that starts no more, is complete; its packet is
then over (R51, R375, R460). -/
def State.gridDone (s : State) (gid : Nat) : State :=
  match s.grids.find? gid with
  | none => s
  | some g =>
    if g.ended = g.next ∧ (g.failed ∨ g.next = g.teams) ∧ !g.complete then
      let gone := fun (d : Dispenser) => { d with
        recs := d.recs.filter (·.grid != gid), grant := setDel d.grant gid, floor := d.floor.del gid }
      let s := { s with grids := s.grids.put gid { g with complete := true }
                        dispensers := s.dispensers.mapVals gone }
      let mine := fun (p : Packet) => p.q == g.queue && p.idx == g.pkt
      let ps := if g.failed then s.cp.packets.filter fun p => !mine p
        else s.cp.packets.map fun p => if mine p then { p with ended := true } else p
      { s with cp := { s.cp with packets := ps } }
    else s

/-- Moves of ranks away from these cores are off: the cores reserved for them, and the save slots of the
grid, return (R56, R526). -/
def State.cancelMoves (s : State) (gid : Nat) (pids : List Nat) : State :=
  let ms := s.cores.filterMap fun e => e.2.reserved.bind fun r =>
    if pids.contains r.1 then some (e.1, r.2) else none
  let s := ms.foldl (fun s m => s.setCore m.1 { s.core m.1 with reserved := none }) s
  match s.grids.find? gid with
  | none => s
  | some g => { s with grids := s.grids.put gid { g with slots := ms.foldl (fun l m => setDel l m.2) g.slots } }

/-- A team ends: cores, chains, barrier unit and save slot return. -/
def State.endTeam (s : State) (tid : Nat) : State :=
  match s.teams.find? tid with
  | none => s
  | some t =>
    let s := if t.swapped then s else t.map.foldl State.releaseCore (s.cancelMoves t.grid t.map)
    let s := (s.dropChains t.chains).ranFor (ranTeam tid) (s.teamDom tid)
    let s := { s with teams := s.teams.del tid }
    match s.grids.find? t.grid with
    | none => s
    | some g =>
      let g := { g with ended := g.ended + 1
                        slots := match t.slot with
                          | some k => setDel g.slots k
                          | none => g.slots }
      ({ s with grids := s.grids.put t.grid g }).gridDone t.grid

/-- Cancel what the contexts of a core have outside it: watches, waiters, requests. -/
def State.cancelCore (s : State) (pid : Nat) : State :=
  let s := s.removeWatches fun w => w.pid == pid && w.chain.isNone && w.dev.isNone
  let c := s.core pid
  let s := s.setCore pid { c with
    semWait := c.semWait.mapVals fun l => l.filter (·.ctx.isNone)
    lineReqs := [], holds := [], absents := [] }
  { s with homeReqs := s.homeReqs.filter (·.pid != pid)
           replies := s.replies.filter (·.pid != pid) }

/-- R460 without the partition policy: `pid` is the failing core, `t` the trap when one caused it. -/
def State.failTeam1 (s : State) (tid pid cause : Nat) (t : Trap) (tip : Word) : State :=
  match s.teams.find? tid with
  | none => s
  | some tm =>
    let cores := if tm.swapped then [] else tm.map
    let s := s.fullStop cores 4
    let s := cores.foldl State.cancelCore s
    let s := { s with msgs := s.msgs.filter (·.team != tid) }
    -- entries already retired are performed; those that fault or wait are discarded
    let s := cores.foldl (fun s p =>
      (s.core p).sbuf.foldl (fun s e => if e.state = 1 then (s.performStore p e).1 else s) s) s
    let g := s.grids.find? tm.grid
    let s := match g with
      | some g => { s with grids := s.grids.put tm.grid { g with failed := true } }
      | none => s
    let s := s.endTeam tid
    match g with
    | some g =>
      s.queueFault g.queue 6 g.pkt cause pid tm.number tip t.info t.src t.srcx 2
    | none => s

/-- The partitions in which a resident team has cores. -/
def State.teamParts (s : State) (tm : Team) : List Nat :=
  if tm.swapped then [] else (s.root.parts.filter fun e => tm.map.any e.2.cores.contains).map (·.1)

/-- A watch is dropped: what waits on it executes again (R522). One that would only learn that it stands finds the wake;
a PARK whose answer is out executes again too. -/
def State.redo (s : State) (w : Watch) : State :=
  let x := s.ctx w.pid w.ctx
  let again := s.setCtx w.pid w.ctx { x with wait := none, retry := false, asked := none }
  match w.chain, w.dev, x.wait with
  | none, none, some ⟨.parkWatch _ _, _, _⟩ | none, none, some ⟨.parkAsk _, _, _⟩ => again
  | _, _, _ => s.wakeWatch w

/-- Reset one partition (R461, R522): teams with a core in it fail, its slices write back, its watches wake
the contexts outside, its cores are idle. -/
def State.resetPartition (s : State) (p : Nat) : State :=
  match s.root.parts.find? p with
  | none => s
  | some x =>
    let hit := s.teams.filter fun e => (s.teamParts e.2).contains p
    let s := s.fullStop x.cores 5
    let s := hit.foldl (fun s e =>
      s.failTeam1 e.1 ((e.2.map.find? x.cores.contains).getD 0) 0 { cause := 0 } 0) s
    let mine := s.lines.filter fun e => x.slices.contains (s.sliceOf e.1)
    let s := mine.foldl (fun s e =>
      let s := if e.2.dirty then s.writeLine e.2 (s.lineFrame e.1 e.2) else s
      { s with lines := s.lines.del e.1 }) s
    let in_ := fun (w : Watch) => x.slices.contains (s.sliceOf (w.word / 8))
    let ws := (s.watches.flatMap (·.2) ++ s.heapAll).filter in_
    let s := s.removeHomeWatches in_
    let s := ws.foldl (fun s w => if s.watchLive w then s.redo w else s) s
    x.cores.foldl State.idleCore s

/-- The partitions that a reset of `ps` takes with it: a team that fails there resets those of policy 10b
that it has cores in (R524). Each pass adds what the one before makes fail. -/
def State.resetWith (s : State) (ps : List Nat) : Nat → List Nat
  | 0 => ps
  | n + 1 =>
    let more := (s.teams.filter fun e => (s.teamParts e.2).any ps.contains).flatMap fun e =>
      (s.teamParts e.2).filter fun q => s.root.policy.get q 0 == 2
    s.resetWith (more.foldl setAdd ps) n

/-- Resets by policy: each is counted, and enters the platform event ring (R524). -/
def State.resetByPolicy (s : State) (ps : List Nat) : State :=
  ps.foldl (fun s p => ((s.resetPartition p).field 0x1948 4).event 8 none (some p) none) s

/-- A team fails (R460, R524): the policy of each partition it lies in may reset it. -/
def State.failTeam (s : State) (tid pid cause : Nat) (t : Trap) (tip : Word) (state : Bool) : State :=
  match s.teams.find? tid with
  | none => s
  | some tm =>
    let ps := (s.teamParts tm).filter fun p =>
      s.root.policy.get p 0 == 2 || (s.root.policy.get p 0 == 1 && state)
    (s.failTeam1 tid pid cause t tip).resetByPolicy (s.resetWith ps 64)

/-- The team of a core fails. -/
def State.failCore (s : State) (pid cause : Nat) (t : Trap) (tip : Word) (state : Bool) : State :=
  match (s.core pid).team with
  | some tid => s.failTeam tid pid cause t tip state
  | none => s

end Sys2Proof.Machine
end

