-- ==== Sys2Proof/Machine/Place.lean ====
section
/-! DEFINITION. Where a team or a rank may be placed: clusters, zones, shares, save slots; the start of a
whole-team swap and of a move (R12, R13, R43, R47, R54, R56, R377, R380, R417, R422–R424, R526, R527). -/

namespace Sys2Proof.Machine
open Sys2Proof

/-- The effective share of a zone (R422). -/
def Zone.share' (z : Zone) : Nat := max (max z.share.toNat z.need) z.floor.toNat

/-- NEED of a zone once the moves that hold a core of it are made. -/
def State.needHeld (s : State) (z : Nat) : Nat :=
  let cs := s.heldCores z
  if cs.any fun e => e.2.reserved.isSome then s.needOfCores cs else (s.zone z).need

/-- The sum of the effective shares of the 128 zones, moves that hold a core counted. -/
def State.shares (s : State) : Nat :=
  ((List.range 128).map fun z => ({ s.zone z with need := s.needHeld z } : Zone).share').sum

/-- Bytes of one block of a save area, and of the save area of a team of `n` cores (R50, R380). -/
def blockSize : Nat := 1152 * 1024
def saveSize (n : Nat) : Nat := n * 1152 * 1024

/-! ### Clusters -/

/-- The cores of a logical cluster in ascending column order; none once it is withdrawn. -/
def State.clusterCores (s : State) (die c : Nat) : List Nat :=
  let d := s.die die
  if d.withdrawn.contains c then []
  else (List.range 4).map fun k => die * 512 + 4 * d.cmap.get c c + k

/-- The active cores of a die. -/
def State.dieCores (s : State) (die : Nat) : List Nat := (List.range 64).flatMap (s.clusterCores die)

/-- A core that holds no rank and is reserved for none. -/
def State.idle (s : State) (pid : Nat) : Bool :=
  let c := s.core pid
  c.team.isNone && c.reserved.isNone && !c.stopped

/-- A core in a cluster of a team of 4 or more cores. -/
def State.inLarge (s : State) (pid : Nat) : Bool := 4 ≤ s.teamSize pid

def State.open (s : State) (pid : Nat) : Bool := (s.withheld (zoneOf pid)).isNone

/-- Give a core to a team, with the watts and the cooling class of its entry 0. -/
def State.assign (s : State) (tid cool watts pid : Nat) : State :=
  ((s.setCore pid { s.core pid with team := some tid, cool := cool, watts := watts }).ranFor (ranCore pid) none).reZone
    (zoneOf pid)

/-- The zones of some cores hold them within the flow of the package and their budgets. -/
def State.zonesHold (s : State) (pids : List Nat) : Bool :=
  decide (s.shares ≤ 256) && pids.all fun p =>
    decide (wattsOf (s.heldCores (zoneOf p)) ≤ (s.zone (zoneOf p)).budget.toNat)

def State.tryAssign (s : State) (tid cool watts : Nat) (pids : List Nat) : Option State :=
  let t := pids.foldl (State.assign · tid cool watts ·) s
  if t.zonesHold pids then some t else none

/-- Four or more cores: the lowest free clusters that can be taken, `n` cores more. -/
def State.placeLarge (s : State) (tid cool watts : Nat) : List (List Nat) → Nat → Option (State × List Nat)
  | _, 0 => some (s, [])
  | [], _ + 1 => none
  | ps :: l, n + 1 =>
    let use := ps.take (n + 1)
    match (if ps.length = 4 && (ps.all fun p => s.idle p && s.open p) then s.tryAssign tid cool watts use
        else none) with
    | some t => (State.placeLarge t tid cool watts l (n + 1 - use.length)).map fun r => (r.1, use ++ r.2)
    | none => State.placeLarge s tid cool watts l (n + 1)

/-- One to three cores: the lowest free positions of the lowest cluster that has them. -/
def State.placeSmall (s : State) (tid cool watts n : Nat) : List (List Nat) → Option (State × List Nat)
  | [] => none
  | ps :: l =>
    let use := (ps.filter s.idle).take n
    match (if use.length = n && ps.all s.open && !ps.any s.inLarge then s.tryAssign tid cool watts use
        else none) with
    | some t => some (t, use)
    | none => State.placeSmall s tid cool watts n l

/-- R377: the cores of the `n` ranks of a team, taken. -/
def State.placeTeam (s : State) (die tid cool watts n : Nat) : Option (State × List Nat) :=
  let cs := (List.range 64).map (s.clusterCores die)
  if 4 ≤ n then s.placeLarge tid cool watts cs n else s.placeSmall tid cool watts n cs

/-! ### Save slots -/

/-- The lowest free save slot of a grid. -/
def Grid.freeSlot (g : Grid) : Option Nat := (List.range g.nsave).find? fun k => !g.slots.contains k

def State.takeSlot (s : State) (gid k : Nat) : State :=
  match s.grids.find? gid with
  | some g => { s with grids := s.grids.put gid { g with slots := setAdd g.slots k } }
  | none => s

def State.freeSlot (s : State) (gid k : Nat) : State :=
  match s.grids.find? gid with
  | some g => { s with grids := s.grids.put gid { g with slots := setDel g.slots k } }
  | none => s

/-! ### A swap begins (R54) -/

/-- A team that may be swapped out: resident, none of its cores stopped, with a slot to go to. -/
def State.swappable (s : State) (t : Team) : Option Nat :=
  if t.swapped || t.map.any fun p => (s.core p).stopped then none
  else ((s.grids.find? t.grid).map fun (g : Grid) => g.freeSlot).join

/-- Step 1 of R54: the cores stop, and the slot is taken. Requests to move one of its ranks lapse
(R526). -/
def State.beginSwap (s : State) (tid : Nat) : State :=
  match s.teams.find? tid with
  | none => s
  | some t => match s.swappable t with
    | none => s
    | some k =>
      let s := (s.cancelMoves t.grid t.map).takeSlot t.grid k
      let s := { s with teams := s.teams.put tid { t with slot := some k } }
      let s := t.map.foldl (fun s p => s.setCore p { s.core p with migrate := none }) s
      s.fullStop t.map 1

/-! ### A move begins (R56, R526, R527) -/

/-- Every zone that holds a core of the grid is withheld, on this die and on the others (R43). -/
def State.allWithheld (s : State) (gid : Nat) : Bool :=
  s.cores.all fun e => ((s.teamOf e.1).map (·.grid)) != some gid || (s.withheld (zoneOf e.1)).isSome

/-- An unused position of the last cluster of another team of 4 or more cores, whose size is no multiple of 4:
no other team uses it (R47). The clusters are those in which the rank map places the team now: DESIGN CHOICE, log
entry 110. -/
def State.unused (s : State) (pid p : Nat) : Bool :=
  s.teams.any fun (e : Nat × Team) => some e.1 != (s.core pid).team && !e.2.swapped && 4 ≤ e.2.size && e.2.size % 4 != 0 &&
    (e.2.map.drop (e.2.size / 4 * 4)).any fun q => q / 4 == p / 4

/-- Cores of the die of `pid` that could take its rank: idle, in a zone that is not withheld and can
take the rank. -/
def State.candidates (s : State) (pid : Nat) : List Nat :=
  let c := s.core pid
  (s.dieCores (dieOf pid)).filter fun p =>
    s.idle p && s.open p && !s.unused pid p && ((s.assign ((c.team).getD 0) c.cool c.watts p).zonesHold [p])

/-- The coolest of them by zone temperature, the lowest of equals (R527). -/
def State.coolest (s : State) : List Nat → Option Nat
  | [] => none
  | p :: ps => match s.coolest ps with
    | none => some p
    | some q =>
      let a := s.zoneTemp (zoneOf p)
      let b := s.zoneTemp (zoneOf q)
      if b < a || (a == b && decide (q < p)) then some q else some p

/-- The move of the rank on `pid` to `target` begins: the core is reserved, with the watts and the cooling class
that it will have, a save slot taken, and the rank's core stops. -/
def State.beginMove (s : State) (pid target gid slot : Nat) : State :=
  let s := s.takeSlot gid slot
  let c := s.core pid
  let s := s.setCore target { s.core target with reserved := some (pid, slot), cool := c.cool, watts := c.watts }
  let s := s.setCore pid { s.core pid with migrate := none }
  s.fullStop [pid] 2

/-- The core reserved for the rank on `pid`, with the save slot. -/
def State.moveOf (s : State) (pid : Nat) : Option (Nat × Nat) :=
  s.cores.findSome? fun e => match e.2.reserved with
    | some (p, k) => if p = pid then some (e.1, k) else none
    | none => none

/-- The scheduling firmware is told of a core (R513, R527). -/
def State.tell (s : State) (what pid : Nat) : State := { s with cp := { s.cp with told := s.cp.told ++ [(what, pid)] } }

/-- Too few free cores: the whole team is swapped (R56), its moves under way with it; a team with a core stopped for
another reason stays. -/
def State.swapInstead (s : State) (tid : Nat) (t : Team) : State :=
  let u := (s.cancelMoves t.grid t.map).resume (t.map.filter fun p => (s.moveOf p).isSome)
  if (u.swappable t).isSome then u.beginSwap tid else s

/-- A migration request is honoured: it lapses when the grid has no free slot, and the firmware is told; with no
candidate the whole team is swapped (R56, R526, R527), or the request waits until it can be. -/
def State.honour (s : State) (pid : Nat) : State :=
  let lapse := s.setCore pid { s.core pid with migrate := none }
  match (s.core pid).team, s.teamOf pid, s.gridOf pid with
  | some tid, some t, some g => match g.freeSlot with
    | none => lapse.tell 2 pid
    | some k => match s.coolest (s.candidates pid) with
      | some p => s.beginMove pid p t.grid k
      | none => s.swapInstead tid t
  | _, _, _ => lapse

/-- Contexts that wait in TAKE for a zone to be held back no longer wake (R65). -/
def State.holdLifted (s : State) (z : Nat) : State :=
  if (s.withheld z).isSome then s
  else s.cores.foldl (fun s e => if zoneOf e.1 = z then s.wakeIf e.1 (fun
    | .withheld r => r != 0
    | _ => false) else s) s

end Sys2Proof.Machine
end

