-- ==== Sys2Proof/Machine/Ops.lean ====
section
/-! DEFINITION. The named operations of the executing context: taking an exception and returning from
one, outcomes and not-ready actions, transfers, the resolution of a pair, queues of the core. -/

namespace Sys2Proof.Machine
open Sys2Proof

/-! ### Waits -/

/-- A wait for a fetch, which is no PARK: what it delays is a retry still (R77). -/
def WaitOn.fetches : WaitOn → Bool
  | .fetch _ | .fetchPage _ => true
  | _ => false

/-- A context that is parked in the sense of R448 and R470; one that waits for an answer, for its reply or for
DONE is not. -/
def WaitOn.parked : WaitOn → Bool
  | .now | .parkAsk _ | .ending _ | .done => false
  | _ => true

/-- The context leaves the rotation, unless what it would wait for has already come. -/
def State.parkCtx (s : State) (pid k : Nat) (on : WaitOn) : State :=
  let c := s.core pid
  let x := c.ctx k
  let w := if on = .now then none else some ⟨on, c.cyc, s.ticks⟩
  s.setCtx pid k { x with wait := w, retry := x.retry && on.fetches }

/-- Cancel the wait of a context with its watch and its waiter (R448, R470). -/
def State.cancelWait (s : State) (pid k : Nat) : State :=
  let s := s.cancelWatches pid k
  let c := s.core pid
  s.setCore pid { c.setCtx k { c.ctx k with wait := none } with
    semWait := c.semWait.mapVals fun l => l.filter (·.ctx != some k) }

/-! ### Taking an exception (R438–R442) -/

/-- deliver() of R439: the frame is written, MODE set, the window advanced, IP ← core.tvec. A core
without an entry, or a window stack without room, fails the team (R440, R441). -/
def State.deliver (s : State) (pid k : Nat) (t : Trap) (tip : Word) : State :=
  let c := s.core pid
  let x := c.ctx k
  let full := match x.spillAt with
    | some a => decide (x.wsl < a + 64)
    | none => false
  if c.tvec = 0 || full then s.failCore pid t.cause t tip false
  else
    let x := x.advance s.free
    let x := { x with tip := tip, tcause := BitVec.ofNat 8 t.cause, tinfo := t.info, tsrc := t.src,
                      tsrcx := t.srcx, mode := true, ip := c.tvec, tdepth := x.depth, wait := none,
                      retry := false, entryCheck := false,
                      mon := { x.mon with dirty := true } }
    let s := { s.setCtx pid k x with free := s.free + 8 }
    if t.cause = 0x0A then s.field (0x1800 + 4 * dieOf pid) 4 else s

/-- A precise trap of a group at `tip` (R438): in system mode it fails the team (R441). -/
def State.raise (s : State) (pid k : Nat) (t : Trap) (tip : Word) : State :=
  if (s.ctx pid k).mode then s.failCore pid t.cause t (t.tip.getD tip) false
  else s.deliver pid k t (t.tip.getD tip)

/-- Who holds a deferred trap: the context when it is live with that generation, else context 0. -/
def Core.holder (c : Core) (k gen : Nat) : Option Nat :=
  if (c.ctx k).live && (c.ctx k).gen.toNat == gen && c.finishing.isNone then some k
  else if (c.ctx 0).live && c.finishing.isNone then some 0 else none

/-- A context that is parked with a held trap is woken (R470): its wait is cancelled. -/
def State.unpark (s : State) (pid k : Nat) : State :=
  if (s.ctx pid k).wait.any (·.on.parked) then s.cancelWait pid k else s

/-- A deferred trap is held by its holder; with none, the team fails (R450, R451, R471, R472). It wakes its context
(R470). -/
def State.holdTrap (s : State) (pid k gen : Nat) (t : Trap) : State :=
  match (s.core pid).holder k gen with
  | none => s.failCore pid t.cause t 0 false
  | some k =>
    let s := s.unpark pid k
    s.setCtx pid k { s.ctx pid k with held := (s.ctx pid k).held ++ [t] }

/-- A deferred trap that no instruction's work raised: its source fields are free values (R438). -/
def State.holdBare (s : State) (pid k cause : Nat) (info : Word) (tip : Option Word := none) : State :=
  let gen := (s.ctx pid k).gen.toNat
  State.holdTrap { s with free := s.free + 2 } pid k gen
    { cause := cause, tip := tip, info := info, src := Config.freeValue s.free
      srcx := Config.freeValue (s.free + 1) }

/-! ### Clause edges (R431, R449, R526) -/

/-- A debug-stop record (R425). -/
def State.stopRecord (s : State) (pid k : Nat) : State :=
  s.setCore pid ((s.core pid).record s.traceSz s.ticks (traceWord 3 0 0 k (s.ctx pid k)))

/-- A requested debug stop takes effect (R431, R449). -/
def State.debugEdge (s : State) (pid k : Nat) : State :=
  let x := s.ctx pid k
  match x.stop with
  | some src =>
    ((s.setCtx pid k { x with stop := none }).stopRecord pid k).holdBare pid k 0x16
      (BitVec.ofNat 64 (src * 2 ^ 62))
  | none => s

/-- A context reaches a clause edge: a migration that waits is honoured, and when the core stops for it
the debug stop stays pending (R526); otherwise a requested stop takes effect. -/
def State.clauseEdge (s : State) (pid k : Nat) : State :=
  if (s.core pid).migrate.isSome && !(s.core pid).stopped then
    let t := s.honour pid
    if (t.core pid).stopped then t else t.debugEdge pid k
  else s.debugEdge pid k

/-- Sequence number `a` comes before `b` in the order of stores, which wraps at 2^32. -/
def seqBefore (a b : Nat) : Bool := let d := (b + 2 ^ 32 - a) % 2 ^ 32; d != 0 && d ≤ 2 ^ 31

/-- The sequence number of the store that a trap of 0Ch names. -/
def Trap.seq (t : Trap) : Nat := t.srcx.toNat / 2 ^ 32

/-- The held trap that goes first: lowest cause, then store sequence order (R442). -/
def firstTrap : List Trap → Option Trap
  | [] => none
  | t :: ts =>
    match firstTrap ts with
    | none => some t
    | some u =>
      if u.cause < t.cause ||
          (u.cause == t.cause && t.cause == 0x0C && seqBefore u.seq t.seq)
      then some u else some t

/-- Deliver one held trap before the next group (R442). A faulted store entry is freed here (R469). -/
def State.deliverHeld (s : State) (pid k : Nat) : State :=
  let x := s.ctx pid k
  match firstTrap x.held with
  | none => s
  | some t =>
    let s := s.unpark pid k
    let s := s.setCtx pid k { s.ctx pid k with held := x.held.erase t }
    let s := if t.cause = 0x0C || t.cause = 0x0D then
        let c := s.core pid
        let s := s.setCore pid { c with sbuf := c.sbuf.filter fun e =>
          !(e.state == 3 && e.seq == t.seq && e.ip == t.src) }
        s.wakeIf pid fun w => w == .busy 6 || w == .busy 11
      else s
    s.deliver pid k t (t.tip.getD x.ip)

/-- Return from an exception (R444): the window moves back, MODE falls, IP ← ctx.tip. -/
def Ctx.eret (x : Ctx) : Ctx := { x.retreat with mode := false, ip := x.tip, retry := false }

/-! ### Outcomes (R59, R62, R77, R78) -/

def ocCode (code reason : Nat) : Nat := reason * 8 + code

/-- An OK outcome. -/
def Ctx.okOutcome (x : Ctx) : Ctx :=
  { x with oc := 0, count := x.init, armed := false, front := false }

/-- A not-ready outcome: ctx.oc, ctx.nrip, and the count of R77; true when the budget is
exhausted. -/
def Ctx.notReady (x : Ctx) (ip : Word) (oc : Nat) : Ctx × Bool :=
  let again := x.armed && x.nrip == ip && x.retry
  let x := { x with oc := BitVec.ofNat 8 oc, nrip := ip, mon := { x.mon with dirty := true } }
  if again then
    let x := { x with count := x.count - 1 }
    (x, x.count == 0)
  else ({ x with count := x.init, armed := true }, false)

/-! ### Transfers (R194, R245, R489, R490) -/

inductive Land where
  | ok | bad | missing
deriving DecidableEq, Repr

/-- Whether an IP is a landing slot. A line that cannot be fetched faults at the group itself
(R468, R487). -/
def Core.land (c : Core) (x : Ctx) (t : Word) : Land :=
  if !ipOk t then .bad
  else match c.icache.find? (lineKey c.dom t) with
  | some l => if bitAt l.word (5 + t.toNat % 8) then .ok else .bad
  | none => match x.fetchFail with
    | some (va, _) => if va = lineOf t then .ok else .missing
    | none => .missing

/-- The context waits for the line of an IP. -/
def State.waitFetch (s : State) (pid k : Nat) (ip : Word) : State :=
  s.parkCtx pid k (.fetch (lineKey (s.core pid).dom ip))

/-- A group whose target line is not there has no effect yet: it waits for the line, and executes again with it
(R489). `s0` is the state before it. -/
def State.awaitTarget (s0 : State) (t : Word) : State := s0.waitFetch s0.cur.1 s0.cur.2 t

/-- A taken transfer of the group at `grp`, from the instruction at `from_`; `ret` is the return IP
of a CALL. `s0` is the state before the group. -/
def State.transfer (s0 s : State) (grp from_ ret : Word) (m : Move) (t : Word) : State :=
  let x := s.me
  match s.myCore.land x t with
  | .bad => s0.raise s.cur.1 s.cur.2 { cause := 3, info := t } grp
  | .missing => s0.awaitTarget t
  | .ok =>
    let go := fun (x : Ctx) =>
      { x with ip := t, retry := decide (t.toNat ≤ from_.toNat), front := false }
    match m with
    | .stay => s.setMe (go x)
    | .ret => s.setMe (go x.retreat)
    | .call => { s.setMe (go ((x.advance s.free).setReg 0x10 ret)) with free := s.free + 8 }

/-- The action on a not-ready outcome that stands written (R62, R78, R446, R489). `grp` is the group,
`nxt` the next group, `s0` the state before the group. -/
def State.act (s0 s : State) (grp ip nxt : Word) (oc : Nat) (nra : Nra) (tgt : Word) (on : WaitOn)
    (exhausted : Bool) : State :=
  let pid := s.cur.1
  let k := s.cur.2
  let x := s.me
  if exhausted && !x.budPark then
    (s.setMe { x with count := x.init, armed := false }).raise pid k
      { cause := 0x0A, tip := some ip, info := BitVec.ofNat 64 oc } grp
  else
    let s := if exhausted then s.setMe { x with count := x.init } else s
    let nra := if exhausted then .park else nra
    let x := s.me
    match nra with
    | .set => s.setMe { x with ip := nxt, retry := false }
    | .park => (s.setMe { x with ip := grp }).parkCtx pid k on
    | .yield => s.setMe { x with ip := grp, retry := true }
    | .branch => match s.myCore.land x tgt with
      | .ok => s.setMe { x with ip := tgt, retry := decide (tgt.toNat ≤ ip.toNat) }
      | .bad => s.raise pid k { cause := 3, info := tgt } grp
      | .missing => s0.awaitTarget tgt

/-- The end of an instruction that issues alone, at `ip`. Of the groups after a taken backward branch the one at its
target alone is reached by it (R77): DESIGN CHOICE, log entry 114. -/
def State.conclude (s0 s : State) (e : End) : State :=
  let ip := s0.me.ip
  let x := s.me
  match e with
  | .next => s.setMe { x with ip := nextIp ip, retry := false, front := false }
  | .ok plain =>
    s.setMe { x.okOutcome with ip := nextIp ip, retry := false,
                               mon := { x.mon with dirty := x.mon.dirty || !plain } }
  | .jump m t => s0.transfer s ip ip (nextIp ip) m t
  | .notReady oc nra tgt on =>
    let (x, ex) := x.notReady ip oc
    s0.act (s.setMe x) ip ip (nextIp ip) oc nra tgt on ex
  | .trap _ _ t => s.raise s.cur.1 s.cur.2 t ip

/-- The end of the executing instruction: at once when it issues alone, recorded in a pair. `s0` is
the state before it. -/
def State.finish (s0 s : State) (e : End) : State :=
  match s.pair with
  | some p => { s with pair := some { p with ends := p.ends ++ [(s.ip, e)] } }
  | none => s0.conclude s e

/-- The trap of a pair that goes first: lowest order, then slot (R443). -/
def pairTrap : List (Word × End) → Option (Nat × Bool × Trap)
  | [] => none
  | (_, .trap o k t) :: es =>
    match pairTrap es with
    | some (o', k', t') => if o' < o then some (o', k', t') else some (o, k, t)
    | none => some (o, k, t)
  | _ :: es => pairTrap es

/-- The registers of a context as they stood before the group. -/
def Ctx.restoreRegs (x v : Ctx) : Ctx := { x with g := v.g, win := v.win, p := v.p }

def firstJump : List (Word × End) → Option (Word × Move × Word)
  | [] => none
  | (ip, .jump m t) :: _ => some (ip, m, t)
  | _ :: es => firstJump es

def firstNotReady : List (Word × End) → Option (Word × Nat × Nra × Word × WaitOn)
  | [] => none
  | (ip, .notReady oc nra tgt on) :: _ => some (ip, oc, nra, tgt, on)
  | _ :: es => firstNotReady es

def hasOk : List (Word × End) → Bool
  | [] => false
  | (_, .ok _) :: _ => true
  | _ :: es => hasOk es

/-- Both members of a pair have ended: what the group does as a whole (R64, R196, R198, R443). `s0`
is the state before the group. -/
def State.finishPair (s0 s : State) : State :=
  match s.pair with
  | none => s
  | some p =>
    let s0 := { s0 with pair := none }
    let s := { s with pair := none }
    let grp := p.ip
    let nxt := nextIp (p.ip + 1)
    let pid := s.cur.1
    let k := s.cur.2
    match pairTrap p.ends with
    | some (_, keep, t) =>
      let b := if keep then s.setMe (s.me.restoreRegs p.view) else s0
      b.raise pid k t grp
    | none =>
      match firstNotReady p.ends with
      | some (ip, oc, nra, tgt, on) =>
        let (x, ex) := s.me.notReady ip oc
        let undo := ex || nra == .park || nra == .yield ||
          (nra == .branch && s.myCore.land x tgt == .bad)
        let s := s.setMe (if undo then x.restoreRegs p.view else x)
        match firstJump p.ends with
        | some (from_, m, t) =>
          if !ex && nra == .set then s0.transfer s grp from_ nxt m t
          else s0.act s grp ip nxt oc nra tgt on ex
        | none => s0.act s grp ip nxt oc nra tgt on ex
      | none =>
        let s := if hasOk p.ends then
            s.setMe { s.me.okOutcome with mon := { s.me.mon with dirty := true } } else s
        match firstJump p.ends with
        | some (from_, m, t) => s0.transfer s grp from_ nxt m t
        | none => s.setMe { s.me with ip := nxt, retry := false, front := false }

/-! ### Ends that the meanings use -/

/-- An instruction whose guard is false does nothing (R200). -/
def guarded (g : Guard) (s : State) (body : State → State) : Out :=
  .next (if s.guard g then body s else s.finish s .next)

/-- A scalar result. -/
def State.retire (s0 s : State) : State := s0.finish s .next

/-- The context issued something that is no scalar instruction and no plain load (R79). -/
def State.dirty (s : State) : State := s.setMe { s.me with mon := { s.me.mon with dirty := true } }

/-- A precise trap found by the checks at issue: nothing has changed. -/
def State.check (s : State) (cause : Nat) (info : Word) : State :=
  s.finish s (.trap 2 false { cause := cause, info := info })

/-- A precise trap found by execution, at collection. -/
def State.found (s0 s : State) (cause : Nat) (info : Word) : State :=
  s0.finish s (.trap 3 true { cause := cause, info := info })

def State.okay (s0 s : State) : State := s0.finish s (.ok false)

/-- A not-ready outcome. -/
def State.refuse (s0 s : State) (code reason : Nat) (nra : Nra) (tgt : BitVec 32) (on : WaitOn) : State :=
  s0.finish s (.notReady (ocCode code reason) nra (targetOf s0.ip tgt) on)

/-- BUSY(reason), waiting for the resource under PARK (R65). -/
def State.busy (s0 s : State) (reason : Nat) (nra : Nra) (tgt : BitVec 32) : State :=
  s0.refuse s 4 reason nra tgt (.busy reason)

/-- The bits 95:32 of an instruction's slot, which 01h and 05h put into ctx.tinfo. -/
def slotBits (i : Instr) : Word := BitVec.ofNat 64 ((encode i).getD 0 / 2 ^ 32)

/-- 05h of R491. -/
def State.denied (s : State) (i : Instr) : State := s.check 5 (slotBits i)

/-! ### Event queue and ready ring (R40, R368) -/

/-- Counters of a ring of 2^n entries have n + 1 bits. -/
def ringCount (head tail size : Nat) : Nat := (tail + 2 * size - head) % (2 * size)

/-- Put the records that wait into the event queue while it has space (R368); a trap that waited on
its record is then held (R471). -/
def State.drainPosts (s : State) (pid : Nat) : Nat → State
  | 0 => s
  | n + 1 =>
    let c := s.core pid
    match c.posts with
    | [] => s
    | p :: ps =>
      if c.evqEn && ringCount c.evqhead c.evqtail 64 < 64 then
        let off := c.evqBase * 1024 + 16 * (c.evqtail % 64)
        let s := (s.wr (lsAddr pid off) 8 p.w0.toNat).wr (lsAddr pid (off + 8)) 8 p.w1.toNat
        let s := s.lsWake pid off false false true
        let s := s.setCore pid { s.core pid with evqtail := (c.evqtail + 1) % 128, posts := ps }
        let s := s.wakeIf pid (· == .events)
        let s := match p.trap with
          | some (k, gen, t) => s.holdTrap pid k gen t
          | none => s
        State.drainPosts s pid n
      else s

def State.postEvent (s : State) (pid : Nat) (p : Post) : State :=
  s.setCore pid { s.core pid with posts := (s.core pid).posts ++ [p] }

/-! ### Semaphores (R285–R289) -/

/-- The semaphore wake of R289: waiters woken in order; the first with .dec whose threshold is met
stops the walk. A chain's record with .dec takes its count in the same step (R359). -/
def walkSem (count : Nat) : List SemWaiter → List SemWaiter × List SemWaiter
  | [] => ([], [])
  | w :: ws =>
    if w.thr ≤ count then
      if w.dec then ([w], ws) else let (a, b) := walkSem count ws; (w :: a, b)
    else let (a, b) := walkSem count ws; (a, w :: b)

/-- Set a count and walk its waiters. `n` bounds the walks that a chain's own decrement starts. -/
def State.setSem (s : State) (pid i v : Nat) : Nat → State
  | 0 => s.setCore pid { s.core pid with sems := (s.core pid).sems.put i v }
  | n + 1 =>
    let c := s.core pid
    let (woken, keep) := walkSem v (c.semWait.get i [])
    let s := s.setCore pid { c with sems := c.sems.put i v, semWait := c.semWait.put i keep }
    woken.foldl (fun s w => match w.ctx with
      | some k =>
        let s := s.wake pid k
        s.setCtx pid k { s.ctx pid k with front := true }
      | none =>
        let s := s.setChain w.chain { s.chain w.chain with semMet := true, semAsked := false }
        if w.dec then State.setSem s pid i (v - w.thr) n else s) s

/-- A signal by the increment (R286): saturating, and counted. A count that it leaves unchanged starts no
walk (R289). -/
def State.signal (s : State) (pid i inc : Nat) : State :=
  let c := s.core pid
  let old := c.sems.get i 0
  let s := if 65535 < old + inc then
      s.setCore pid { c with semsat := min (c.semsat + 1) 65535 } else s
  if min (old + inc) 65535 = old then s else s.setSem pid i (min (old + inc) 65535) 64

/-! ### The ready ring and the dependence counter (R39, R40, R454, R476) -/

/-- Push a record; onto a full ring it is not made, and context 0 gets 10h (R454). `src`, `srcx`: the IP
and the clauses of the RDEC whose work it is (R438). -/
def State.pushReady (s : State) (pid off : Nat) (src srcx : Word) : State :=
  let c := s.core pid
  if ringCount c.rrhead c.rrtail 256 = 256 then
    let x := c.ctx 0
    s.holdTrap pid 0 x.gen.toNat
      { cause := 0x10, info := BitVec.ofNat 64
          (3 * 2 ^ 60 + 5 * 2 ^ 56 + c.rank % 256 * 2 ^ 20 + off % 2 ^ 20), src := src, srcx := srcx }
  else
    let at_ := c.rrbase + 4 * (c.rrtail % 256)
    let s := (s.wr (lsAddr pid at_) 4 off).lsWake pid at_ false false true
    let s := s.setCore pid { s.core pid with rrtail := (c.rrtail + 1) % 512 }
    s.wakeIf pid (· == .ring)

/-- What a decrement meets (R39, R476, R498). -/
inductive Decr where
  | done (s : State)
  | malformed (dcoff : Nat)
  | poisoned (s : State)

/-- RDEC at the owning core: one indivisible step. -/
def State.decrement (s : State) (pid rec : Nat) (src srcx : Word) : Decr :=
  let dc := fld (s.rd (lsAddr pid (rec + 16)) 8) 0 20
  if dc % 8 ≠ 0 then .malformed dc
  else if s.isPoison (lsAddr pid dc) then
    let c := s.core pid
    if c.poisonTold.contains dc then .poisoned s
    else
      let s := s.setCore pid { c with poisonTold := c.poisonTold ++ [dc] }
      .poisoned (s.holdTrap pid 0 (c.ctx 0).gen.toNat
        { cause := 0x10, info := BitVec.ofNat 64 (4 * 2 ^ 60 + 5 * 2 ^ 56 + c.rank % 256 * 2 ^ 20 + dc)
          src := src, srcx := srcx })
  else
    let v := BitVec.ofNat 64 (s.rd (lsAddr pid dc) 8) - 1
    let s := s.wr (lsAddr pid dc) 8 v.toNat
    let s := s.lsWake pid dc false false true
    .done (if v = 0 then s.pushReady pid rec src srcx else s)

/-! ### REL (R165) -/

/-- The condition of R165 for a context: its stores are acknowledged, and the operation in its slot
has been performed. -/
def State.relMet (s : State) (pid k : Nat) : Bool :=
  let c := s.core pid
  let x := c.ctx k
  !(c.sbuf.any fun e => e.ctx == k && e.gen == x.gen.toNat) &&
  (match x.slot with
    | some sl => sl.ans.isSome || s.replies.any (·.id == sl.id)
    | none => true)

/-- A context gives up what it holds, and its place at loads under way (R74). -/
def Core.releaseHolds (c : Core) (k : Nat) : Core :=
  { c with
    holds := c.holds.filter (·.ctx != k)
    lineReqs := c.lineReqs.map fun r =>
      { r with waiters := r.waiters.filter fun w => !(w.1 == k && w.2 != .pfx) } }

/-- The data held for a context go, and its place at data under way; its fault notes stay, which the three ways of
R465 alone release. -/
def Core.releaseData (c : Core) (k : Nat) : Core :=
  { c with
    holds := c.holds.filter fun h => h.ctx != k || h.fault.isSome
    lineReqs := c.lineReqs.map fun r => match r.fill with
      | some (.data _ _ _ _) => { r with waiters := r.waiters.filter fun w => !(w.1 == k && w.2 != .pfx) }
      | _ => r }

/-- A context that begins or ends leaves nothing that the next one of its number would find: holds, notes,
waiters. -/
def Core.forget (c : Core) (k : Nat) : Core :=
  { c with
    holds := c.holds.filter (·.ctx != k)
    absents := c.absents.filter (·.ctx != k)
    lineReqs := c.lineReqs.map fun r => { r with waiters := r.waiters.filter (·.1 != k) } }

/-- ACQ (R163): unowned words go, fills of requests already sent are of no use to later loads, and the
holds of the context are released. -/
def Core.acquire (c : Core) (k : Nat) : Core :=
  let c := c.releaseHolds k
  { c with
    dcache := c.dcache.filter fun e => e.2.owned
    lineReqs := c.lineReqs.map fun r => { r with stale := true } }

/-- The present value of a word at its home, or in memory when its line is in no slice. -/
def State.wordNow (s : State) (wk : Nat) : Option Word :=
  let key := wk / 8
  match s.lines.find? key with
  | some l => l.ws[wk % 8]?
  | none =>
    let base := match s.xlates.find? (linePage key) with
      | some x => some (x.base + (keyVa key).toNat % (if keyHost key then 4096 else 65536))
      | none => if keyHost key then none else s.rawAddr (keyVa key)
    base.map fun a => BitVec.ofNat 64 (s.rd (a + 8 * (wk % 8)) 8)

/-- ACQ of the executing context. Copies of the constant path stay, but for those that a store has made
old (R118, R188). -/
def State.acquire (s : State) : State :=
  let c := s.myCore.acquire s.cur.2
  s.setMyCore { c with kcache := c.kcache.filter fun e => s.wordNow e.1 == some e.2.v }

end Sys2Proof.Machine
end

