-- ==== Sys2Proof/Machine/Operands.lean ====
section
/-! DEFINITION. The operand forms and results of the scalar groups (R224, R230, R237). -/

namespace Sys2Proof.Machine
open Sys2Proof

/-- uval(s) of R224: the low w bits of a register. -/
def State.uval (s : State) (t : Ty) (r : Spec) : Nat := (s.G r).toNat % 2 ^ t.width

/-- ival(s) of R224. -/
def State.ival (s : State) (t : Ty) (r : Spec) : Int := t.int (s.G r).toNat

/-- wint(x) of R224: clamped or wrapped, and extended to 64 bits by the type. -/
def wint (t : Ty) (sat : Bool) (x : Int) : Word := t.ext (t.wrapInt sat x)

/-- The shift count G(B) mod w of R226. -/
def State.shamt (s : State) (t : Ty) (r : Spec) : Nat := (s.G r).toNat % t.width

/-- An integer instruction of R226 or R229 whose exact result is `x`. -/
def intOp (o : ROp) (s : State) (x : Int) : Out :=
  guarded o.grd s fun s => s.retire (s.setG o.d (wint o.ty o.sat x))

/-- An instruction that writes `v` to its D and does nothing else. -/
def wordOp (g : Guard) (d : Spec) (s : State) (v : Word) : Out :=
  guarded g s fun s => s.retire (s.setG d v)

/-- A predicate result. -/
def boolWord (b : Bool) : Word := if b then 1 else 0

/-- The format of a float type. -/
def fmtD (t : Ty) : Fmt :=
  (fmtOf t).getD ⟨11, 52, 1023, 0x7FEFFFFFFFFFFFFF, 0x7FF8000000000000, true, true⟩

/-- fval(s) of R237. -/
def State.fval (s : State) (t : Ty) (r : Spec) : Val := (fmtD t).val (s.uval t r)

/-- wflt(x) of R237. -/
def wflt (o : ROp) (x : Val) : Word :=
  BitVec.ofNat 64 ((fmtD o.ty).round (.ofCode o.rm.toNat) o.sat x)

/-- A float instruction whose exact result is `x`. -/
def fltOp (o : ROp) (s : State) (x : Val) : Out := wordOp o.grd o.d s (wflt o x)

/-- Leading zero bits within `w` bits. -/
def clzOf (x w : Nat) : Nat := if x = 0 then w else w - 1 - Nat.log2 x

/-- Trailing zero bits within `w` bits. -/
def ctzOf (x : Nat) : Nat → Nat
  | 0 => 0
  | n + 1 => if x % 2 = 1 then 0 else 1 + ctzOf (x / 2) n

/-- One bits within `w` bits. -/
def popOf (x : Nat) : Nat → Nat
  | 0 => 0
  | n + 1 => x % 2 + popOf (x / 2) n

/-- Position and width of the field of R233. -/
def bfPos (b : Word) : Nat := fld b.toNat 0 6
def bfWid (b : Word) : Nat := fld b.toNat 8 6 + 1

end Sys2Proof.Machine
end

