-- ==== Sys2Proof/Machine/Tasks.lean ====
section
/-! DEFINITION. The pools of a core, allotment, and the start and end of contexts (R36, R37, R44–R46,
R306). -/

namespace Sys2Proof.Machine
open Sys2Proof

/-- A range of a pool: base and length. -/
abbrev Range := Nat × Nat

/-! ### Task types (R44, R45) -/

/-- Needs in the units of the pools: bytes, registers, semaphores. -/
structure Need where
  slots : Nat
  sems : Nat
  ls : Nat
  ws : Nat
  treg : Nat
  vreg : Nat
deriving DecidableEq, Repr

def needOf (w0 : Word) : Need :=
  let w := w0.toNat
  { slots := fld w 56 4, sems := fld w 47 9, ls := fld w 34 13 * 256, ws := fld w 20 14 * 64,
    treg := fld w 16 4, vreg := fld w 11 5 }

/-- What the entry demands when a record names it: entry 0 begins one helper. -/
def needFor (i : Nat) (w0 : Word) : Need :=
  if i = 0 then { needOf w0 with slots := 1 } else needOf w0

def unusedType (i : Nat) (e : Word × Word) : Bool := i != 0 && e.1 == 0 && e.2 == 0

/-! ### First fit (R46) -/

def clash (a : Nat) (n : Nat) (rs : List Range) : Bool := rs.any fun r => overlap a n r.1 r.2

/-- The lowest base at which `n` units fit in a pool of `total`; a need of zero takes no range. -/
def firstFit (n total : Nat) (taken : List Range) : Option Range :=
  if n = 0 then some (0, 0)
  else
    let starts := (0 :: taken.map fun r => r.1 + r.2).filter fun a => a + n ≤ total && !clash a n taken
    starts.min?.map fun a => (a, n)

/-- The four ranges of a helper. -/
structure Ranges where
  ls : Range
  ws : Range
  v : Range
  t : Range
deriving DecidableEq, Repr

/-- Ranges of the pools already taken. -/
structure Taken where
  ls : List Range
  v : List Range
  t : List Range
deriving DecidableEq, Repr

/-- A range with its place among the taken ones. -/
def take1 (n total : Nat) (l : List Range) : Option (Range × List Range) :=
  (firstFit n total l).map fun r => (r, if n = 0 then l else r :: l)

/-- One helper: local store, window stack, vector, tile registers, in that order. -/
def placeOne (n : Need) (k : Taken) : Option (Ranges × Taken) := do
  let (ls, l1) ← take1 n.ls (2 ^ 20) k.ls
  let (ws, l2) ← take1 n.ws (2 ^ 20) l1
  let (v, lv) ← take1 n.vreg 256 k.v
  let (t, lt) ← take1 n.treg 32 k.t
  pure (⟨ls, ws, v, t⟩, ⟨l2, lv, lt⟩)

def placeMany (n : Need) : Nat → Taken → Option (List Ranges × Taken)
  | 0, k => some ([], k)
  | j + 1, k =>
    match placeOne n k with
    | none => none
    | some (r, k) => (placeMany n j k).map fun p => (r :: p.1, p.2)

def Core.taken (c : Core) : Taken :=
  ⟨c.allots.flatMap (·.ls), c.allots.flatMap (·.vs), c.allots.flatMap (·.ts)⟩

/-- The free helper slots, ascending. -/
def Core.freeSlots (c : Core) : List Nat :=
  (List.range 11).filter fun k => k != 0 && !(c.ctx k).live && !c.allots.any fun a => a.slots.contains k

/-- The allotment of a codelet: its helpers' ranges and its semaphores. -/
def Core.fit (c : Core) (n : Need) : Option (List Ranges × Range) := do
  let (rs, _) ← placeMany n n.slots c.taken
  let (ss, _) ← take1 n.sems 256 (c.allots.flatMap (·.ss))
  pure (rs, ss)

def nonEmpty (l : List Range) : List Range := l.filter fun r => r.2 != 0

def allotOf (cnum : Nat) (slots : List Nat) (entry0 : Bool) (rs : List Ranges) (ss : Range) : Allot :=
  { cnum := cnum, slots := slots, entry0 := entry0
    ls := nonEmpty (rs.flatMap fun r => [r.ls, r.ws]), vs := nonEmpty (rs.map (·.v))
    ts := nonEmpty (rs.map (·.t)), ss := nonEmpty [ss] }

/-- Clear the tags of a range of a pool (R36); the bytes stay, log entry 5. -/
def clearTags (m : KMap PReg) (r : Range) : KMap PReg :=
  (List.range r.2).foldl (fun m i => match m.find? (r.1 + i) with
    | some p => m.put (r.1 + i) { p with tag := 0 }
    | none => m) m

/-! ### A context begins (R36, R306) -/

/-- The base of a range; of an empty one the manual states none: free value number `n`. -/
def baseOf (r : Range) (n : Nat) : Nat :=
  if r.2 = 0 then (Config.freeValue n).toNat % 2 ^ 20 / 64 * 64 else r.1

def u64 (n : Nat) : Word := BitVec.ofNat 64 n

/-- The state of a context that begins, apart from its general registers: ctx.budget as R36 gives it, where
R77 leaves COUNT and ARMED as they were (DESIGN CHOICE, log entry 90). `n` numbers the free values of its
empty ranges. -/
def Ctx.begin (old : Ctx) (entry : Word) (g : KMap Word) (r : Ranges) (cnum n : Nat) : Ctx :=
  let ws := baseOf r.ws n
  { live := true, ip := entry, g := g, gen := old.gen + 1, cnum := BitVec.ofNat 8 cnum
    wsb := ws, wsp := ws, wsl := ws + r.ws.2, vbase := r.v.1, vcnt := r.v.2, tbase := r.t.1
    tcnt := r.t.2, entryCheck := true }

/-! ### A context ends (R37) -/

/-- What a freed allotment leaves: the local-store ranges that range locks still hold. -/
def Core.leftover (c : Core) (a : Allot) : Allot :=
  { a with slots := [], ss := [], vs := [], ts := []
           ls := a.ls.filter fun r => c.locks.any fun e => e.2.ls && overlap e.2.base e.2.len r.1 r.2 }

/-- Return what ended codelets hold: all but locked local store. -/
def Core.reap (c : Core) : Core :=
  let l := c.allots.map fun a => if a.slots.isEmpty && !a.entry0 then c.leftover a else a
  let l := l.filter fun a => a.entry0 || !a.slots.isEmpty || !a.ls.isEmpty
  { c with allots := l }

/-- Locks of a core are released: locked ranges of ended codelets return, and those who wait on
locks, on the lock table or on a pool wake (R65). -/
def State.locksFreed (s : State) (pid : Nat) : State :=
  let s := s.setCore pid (s.core pid).reap
  s.wakeIf pid fun w => w == .busy 4 || w == .parkLock || w == .busy 10 || w == .busy 7 || w == .busy 8

/-- The helper in slot `k` ends: its context becomes unallocated, and its slot free at once (DESIGN CHOICE,
log entry 89), a pending stop lapses, and with the last of its codelet the allotments return. Traps that it
still holds go to context 0. -/
def State.endHelper (s : State) (pid k : Nat) : State :=
  let c := s.core pid
  let x := c.ctx k
  let dead := { x with live := false, wait := none, slot := none, stop := none, held := [],
                       yielded := none, mode := false, cls := [], ovf := 0 }
  let c := { (c.setCtx k dead).forget k with
    allots := c.allots.map fun a => { a with slots := a.slots.filter (· != k) }
    locks := c.locks.filter fun e => !(e.2.kind == 3 && e.2.ctx == k) }
  let s := (s.setCore pid c).locksFreed pid
  let s := s.wakeIf pid (· == .helper)
  x.held.foldl (fun s t => s.holdTrap pid 0 (s.ctx pid 0).gen.toNat t) s

end Sys2Proof.Machine
end

