-- ==== Sys2Proof/Machine/Control.lean ====
section
/-! DEFINITION. The control instructions apart from PARK (R245–R256), and the ellipsis monitor (R79). -/

namespace Sys2Proof.Machine
open Sys2Proof

/-! ### The ellipsis monitor (R79, R80) -/

/-- The registers that two branches are compared by. -/
def Ctx.allRegs (x : Ctx) : List Word := (List.range 32).map fun n => x.reg (BitVec.ofNat 6 n)

/-- The two passes that the branch at `br` ends qualify. -/
def Ctx.spinning (x : Ctx) (br : Word) : Bool :=
  x.mon.br == some br && !x.mon.dirty && x.mon.load.isSome && x.mon.load == x.mon.prev &&
    x.mon.regs == x.allRegs && x.mon.p == x.p && x.mon.oc == x.oc

/-- The line of a load in the core's own local store, by offset; none elsewhere. -/
def ownOffset (rank : Nat) (a : Word) : Option Nat :=
  match windowOf rank a with
  | .rank r off => if r = rank then some off else none
  | _ => none

/-- Register the line watch of a spinning context; false when it cannot be registered. -/
def State.monitorWatch (s : State) (a : Word) : State × Bool :=
  let pid := s.cur.1
  let c := s.myCore
  let w : Watch := { word := 0, want := none, changing := false, pid := pid, ctx := s.cur.2,
                     gen := s.me.gen.toNat }
  match ownOffset c.rank a with
  | some off => s.addLsWatch pid { w with word := lsWord pid off } false
  | none =>
    if isHost a || isDevice a then s.addWatch { w with word := wordKey c.dom a } true false
    else (s, false)

/-- A backward branch at `br` has been taken to `t`: a qualifying pass parks the context. -/
def State.ellipsis (s : State) (br t : Word) : State :=
  let x := s.me
  if !s.conf.monitor || x.spinsOff || x.ip != t || x.wait.isSome then s
  else
    let m := { x.mon with br := some br, regs := x.allRegs, p := x.p, oc := x.oc, prev := x.mon.load
                          load := none, dirty := false }
    let s1 := s.setMe { x with mon := m }
    match x.mon.load with
    | none => s1
    | some (a, _) =>
      if x.spinning br then
        match s1.monitorWatch a with
        | (s2, true) =>
          let n := if x.spins = 0xFFFFFFFF then x.spins else x.spins + 1
          (s2.setMe { s2.me with spins := n }).parkCtx s.cur.1 s.cur.2 .monitor
        | (_, false) => s1
      else s1

/-! ### Transfers -/

/-- R246. -/
def execBr (o : BOp) (s : State) : Out :=
  guarded o.grd s fun s =>
    let t := targetOf s.ip o.tgt
    let s' := s.finish s (.jump .stay t)
    if s.pair.isNone && t.toNat ≤ s.ip.toNat && s.myCore.land s.me t == .ok then s'.ellipsis s.ip t else s'

/-- R247: IMM24[c] for the code c in ctx.oc, as it stood before the group. -/
def execBoc (o : BOp) (s : State) : Out :=
  guarded o.grd s fun s =>
    if bitAt o.imm.toNat (s.view.oc.toNat % 8) then s.finish s (.jump .stay (targetOf s.ip o.tgt))
    else s.finish s .next

/-- The spill of a CALL would write at or above ctx.wsl − 128 (R447). -/
def Ctx.callOverflow (x : Ctx) : Bool :=
  match x.spillAt with
  | some a => decide (x.wsl < a + 192)
  | none => false

/-- CALL to `t` (R248). -/
def State.callTo (s : State) (t : Word) : State :=
  if s.me.callOverflow then s.check 0x12 (u64 s.me.wsp) else s.finish s (.jump .call t)

/-- R248. -/
def execCall (o : BOp) (s : State) : Out :=
  guarded o.grd s fun s => s.callTo (targetOf s.ip o.tgt)

/-- R249, R495. -/
def execRet (o : ROp) (s : State) : Out :=
  guarded o.grd s fun s =>
    if s.me.depth = 0 then s.check 0x12 (u64 (s.me.wsp + 2 ^ 63))
    else s.finish s (.jump .ret (s.G 0x10))

/-- R250. -/
def execJmp (o : ROp) (s : State) : Out :=
  guarded o.grd s fun s => s.finish s (.jump .stay (s.G o.a))

/-- R250. -/
def execCalli (o : ROp) (s : State) : Out := guarded o.grd s fun s => s.callTo (s.G o.a)

/-- R251. -/
def execLoopI (o : BOp) (s : State) : Out :=
  guarded o.grd s fun s =>
    let c := s.G o.d - 1
    s.finish (s.setG o.d c) (if c = 0 then .next else .jump .stay (targetOf s.ip o.tgt))

/-! ### Turns, clauses, the end of a helper -/

/-- A wait keeps the context out of the rotation, but for one that began with a trap held that may be delivered
(R470). -/
def Ctx.heldOut (x : Ctx) : Bool := x.wait.any fun w => x.mode || x.held.isEmpty || !w.on.parked

/-- The context is in the rotation of R28, apart from its window (R33). -/
def Core.inTurn (c : Core) (k : Nat) : Bool :=
  let x := c.ctx k
  x.live && !x.heldOut && (match x.yielded with
    | some (cyc, l) => l.isEmpty || decide (cyc + 16 ≤ c.cyc)
    | none => true)

def Core.ready (c : Core) (k : Nat) : Bool :=
  c.inTurn k && !(c.ctx k).spillDue && !(c.ctx k).fillDue

/-- R252. A context that is held out by a YIELD of its own is not among the others that were ready at this one:
DESIGN CHOICE, log entry 98. -/
def execYieldI (o : ROp) (s : State) : Out :=
  guarded o.grd s fun s =>
    let c := s.myCore
    let others := (List.range 16).filter fun k => k != s.cur.2 && c.ready k
    s.retire ((s.setMe { s.me with yielded := some (c.cyc, others) }).dirty)

/-- R254; the edge of R431. -/
def execEnter (o : IOp) (s : State) : Out :=
  guarded o.grd s fun s =>
    let x := s.me
    let ovf := if x.cls.length < 8 || x.ovf = 0xFFFF then x.ovf else x.ovf + 1
    let x := { x with cls := (BitVec.ofNat 16 o.imm.toNat :: x.cls).take 8, ovf := ovf }
    (s.retire (s.setMe x).dirty).clauseEdge s.cur.1 s.cur.2

/-- R255; the edge of R431. -/
def execLeave (o : ROp) (s : State) : Out :=
  guarded o.grd s fun s =>
    (s.retire (s.setMe { s.me with cls := s.me.cls.tail }).dirty).clauseEdge s.cur.1 s.cur.2

/-- The request in the reply slot has not been answered (R37, R68). -/
def Ctx.replyDue (x : Ctx) : Bool :=
  match x.slot with
  | some sl => sl.ans.isNone
  | none => false

/-- R256, R37: the helper ends once its reply slot is empty. -/
def execEndI (o : ROp) (s : State) : Out :=
  guarded o.grd s fun s =>
    let k := s.cur.2
    if k = 0 || 10 < k then s.denied (.endI o)
    else if s.me.replyDue then s.parkCtx s.cur.1 k (.ending false)
    else s.endHelper s.cur.1 k

end Sys2Proof.Machine
end

