-- ==== Sys2Proof/Machine/Access.lean ====
section
/-! DEFINITION. Memory accesses of a context: addresses, checks at issue, windows, forwarding from the
store buffer and the core cache, the reply slot, the store buffer (R67–R69, R82–R90, R107–R111,
R257–R279, R465–R467, R475, R503). -/

namespace Sys2Proof.Machine
open Sys2Proof

/-! ### Addresses (R189, R258) -/

def State.dispAt (s : State) (o : MOp) : Word := s.G o.a + ofInt (sextInt o.disp.toNat 24)
/-- ea(). -/
def State.ea (s : State) (o : MOp) : Word := s.dispAt o + s.G o.b
/-- aea(). -/
def State.aea (s : State) (o : MOp) : Word := s.dispAt o

/-! ### Checks at issue (R108, R259, R260, R503) -/

/-- The union of the rights of the matching entries (R108). -/
def Core.rightsAt (c : Core) (va : Word) : Nat :=
  c.perms.foldl (fun r e =>
    let w0 := e.2.w0.toNat
    let w1 := e.2.w1.toNat
    if bitAt w1 0 && fld w0 5 16 == c.dom && decide (w0 / 2 ^ 21 ≤ va.toNat / 2 ^ 21) &&
        decide (va.toNat / 2 ^ 21 ≤ w1 / 2 ^ 21) then r ||| w0 % 32 else r) 0

def Core.allowed (c : Core) (va : Word) (need : Nat) : Bool := hasRights (c.rightsAt va) need

/-- Where an access that passed its checks goes. -/
inductive Place where
  | own (off : Nat)
  | other (rank off : Nat)
  | home
  | fabric
  | weight (off : Nat)
deriving DecidableEq, Repr

/-- What an instruction accepts (R260): its alignment, the windows, whether it writes, and the right
it needs. -/
structure Use where
  align : Nat
  own : Bool := false
  other : Bool := false
  host : Bool := false
  device : Bool := false
  /-- the weight store of its own die; of every die -/
  weight : Bool := false
  anyDie : Bool := false
  fabric : Bool := false
  write : Bool := false
  need : Nat
deriving DecidableEq, Repr

/-- Checks 2 to 4 of R259: the place, or the cause. -/
def State.placeOf (s : State) (a : Word) (u : Use) : Except Nat Place :=
  let c := s.myCore
  let perm := fun (ok : Bool) (p : Place) =>
    if !ok then Except.error 6 else if c.allowed a u.need then .ok p else .error 6
  if a.toNat % u.align ≠ 0 then .error 7
  else match windowOf c.rank a with
  | .host => perm u.host .home
  | .device => perm u.device .home
  | .rank r off =>
    if s.teamSize s.cur.1 ≤ r then .error 6
    else if r = c.rank then (if u.own then .ok (.own off) else .error 6)
    else if u.other then .ok (.other r off) else .error 6
  | .weight die off =>
    if u.write then .error 0x11
    else perm (u.anyDie || (u.weight && die == dieOf s.cur.1)) (.weight off)
  | .fabric _ _ => perm u.fabric .fabric
  | .reserved => .error 6

/-- Go on with the place of an access, or trap. -/
def State.access (s : State) (a : Word) (u : Use) (k : Place → State) : State :=
  match s.placeOf a u with
  | .ok p => k p
  | .error c => s.check c a

/-! ### What a context parks on -/

/-- The context parks on a not-ready outcome of the executing instruction: by its NRA, or because the
outcome exhausts a budget with PARK set (R62, R78). -/
def State.parks (s : State) (nra : Nra) : Bool :=
  nra == .park || (s.me.budPark && (s.me.notReady s.ip 0).2)

/-! ### Own local store -/

/-- A range lock other than a CLCK lock of the executing context overlaps `n` bytes of own local store
at `off` (R159, R367). -/
def State.lsLocked (s : State) (off n : Nat) : Bool := s.myCore.locked (some s.cur.2) true off n

/-- An operation on own local store that needs no watch (R87): BUSY (4), or performed with `k` on its
value. -/
def State.ownLs (s : State) (nra : Nra) (tgt : BitVec 32) (off n : Nat) (op : HomeOp)
    (k : State → Word → State) : State :=
  if s.lsLocked off n then s.busy s 4 nra tgt
  else match s.lsOp s.cur.1 off op with
  | (s1, .ok v) => k s1 v
  | (s1, .poisoned) => s.found s1 0x0E (BitVec.ofNat 64 (off / 8 * 8))
  | (s1, .unready) => s.okay s1

/-! ### The reply slot (R67–R69) -/

/-- The ordering suffixes (R166). -/
def acqOf (r : Ord) : Bool := r == .acq || r == .ar
def relOf (r : Ord) : Bool := r == .rel || r == .ar

/-- The last reply for the line of `a` told this context that the page is not resident (R263). -/
def Core.absentAt (c : Core) (k line : Nat) : Option Absent :=
  c.absents.find? fun e => e.ctx == k && e.line == line && !e.pfx

/-- The note of a context on a line, of a load's or of a PFX's reply, goes. -/
def Core.clearAbsent (c : Core) (k line : Nat) (pfx : Bool) : Core :=
  { c with absents := c.absents.filter fun e => !(e.ctx == k && e.line == line && e.pfx == pfx) }

/-- ABSENT of R263: 0 or 1 the first time, 2 after; 0Bh after a failed page request (R467). -/
def State.absent (s s1 : State) (e : Absent) (a : Word) (nra : Nra) (tgt : BitVec 32) : State :=
  let c := s1.myCore
  if e.failed then s.found (s1.setMyCore (c.clearAbsent e.ctx e.line e.pfx)) 0x0B a
  else
    let l := c.absents.map fun f => if f = e then { f with told := true } else f
    s.refuse (s1.setMyCore { c with absents := l }) 5 (if e.told then 2 else if e.host then 1 else 0) nra
      tgt (.page e.page)

/-- The page of a non-resident line is still being brought in; with 256 page requests outstanding one
more waits for a place. -/
def State.pagePending (s : State) (key : Nat) : Bool :=
  s.pageIns.contains key || s.priAsked key || s.priFailed.contains key ||
    (2 ^ 64 ≤ key && 256 ≤ s.pri.length)

/-- Put a request into the slot of the executing context; its number. -/
def State.openSlot (s : State) (a : Word) (remote : Bool) : State :=
  let x := s.me
  let sl : Slot := { id := s.nextId, ip := s.ip, addr := a, gen := x.gen.toNat, remote := remote }
  { s.setMe { x with slot := some sl, rung := none } with nextId := s.nextId + 1 }

/-- Send a request to a home of this package or of a remote device. -/
def State.sendHome (s : State) (a : Word) (op : HomeOp) (park : Bool) : State :=
  let x := s.me
  let r : HomeReq := { id := s.nextId, pid := s.cur.1, ctx := s.cur.2, gen := x.gen.toNat
                       dom := s.myCore.dom, va := a, op := op, park := park, front := x.front
                       seq := s.myCore.seq, ticks := s.ticks }
  { s with homeReqs := s.homeReqs ++ [r] }

/-- A message of the executing context to a rank of its team (R291, R296). MSENT counts those of the
request network (R457). -/
def State.sendMsg (s : State) (rank : Nat) (kind : MsgKind) : State :=
  let x := s.me
  let c := s.myCore
  let m : Msg := { id := s.nextId, kind := kind, team := (c.team).getD 0, pid := s.cur.1
                   ctx := s.cur.2, gen := x.gen.toNat, srank := c.rank, rank := rank, ip := s.ip
                   cls := x.top2, front := x.front }
  let n := match kind with
    | .software true _ _ _ _ => c.msent
    | _ => (c.msent + 1) % 2 ^ 32
  { s.setMyCore { c with msent := n } with msgs := s.msgs ++ [m] }

/-- The request is on its way: MISS (2), or BUSY (12) for another rank's local store. -/
def State.pending (s s1 : State) (o : MOp) (remote : Bool) : State :=
  s.refuse s1 (if remote then 4 else 1) (if remote then 12 else 2) o.nra o.tgt .reply

/-- A .rel form must wait for REL's condition (R166). -/
def State.relDue (s : State) (o : MOp) : Bool := relOf o.ord && !s.relMet s.cur.1 s.cur.2

/-- A range lock on the VA space keeps the executing context out (R331, R367). -/
def State.vaLocked (s : State) (a : Word) (n : Nat) : Bool :=
  s.myCore.locked (some s.cur.2) false (canonVa s.myCore.rank a).toNat n

/-- Send the request of an exchange, unless REL's condition, a lock or ABSENT stands before it. -/
def State.request (s s1 : State) (o : MOp) (a : Word) (remote : Bool) (send : State → State) : State :=
  if s.relDue o then s.busy s1 11 o.nra o.tgt
  else if s.vaLocked a (elemBytes o.ty) then s.busy s1 4 o.nra o.tgt
  else match s1.myCore.absentAt s.cur.2 (lineKey s.myCore.dom a) with
  | some e => s.absent s1 e a o.nra o.tgt
  | none => s.pending ((send s1).openSlot a remote) o remote

/-- The watch of a form whose request carried no PARK, and which parks after all: on the budget's end
(R78). The word is looked at where it is ordered, and the watch registered in the same step (R65): the
wait. A word of a remote device has none but the timed one (R177). -/
def State.lateWatch (s : State) (a : Word) (op : HomeOp) : State × WaitOn :=
  let add := fun (full : Bool) (w : Watch) (f : State → State × Bool) =>
    if w.want = some full then (s, WaitOn.now)
    else match f s with
    | (s1, true) => (s1, .word)
    | (s1, false) => (s1, .timed)
  let watch := fun (word : Nat) => watchOf op word s.cur.1 s.cur.2 s.me.gen.toNat
  match windowOf s.myCore.rank a with
  | .rank r off => match s.rankCore s.cur.1 r with
    | none => (s, .timed)
    | some p => let w := watch (lsWord p off)
      add (s.isFull (lsAddr p off)) w fun s => s.addLsWatch p w s.me.front
  | .device => match s.homeOp s.myCore.dom a .feq with
    | (s1, .done (.ok v)) =>
      let w := watch (wordKey s.myCore.dom a)
      add (v == 1) w fun _ => s1.addWatch w true s.me.front
    | (s1, _) => (s1, .timed)
  | _ => (s, .timed)

/-- The answer in the slot is returned; `s1` is the state with the slot emptied, `rung` says that the
watch has been woken. -/
def State.collected (s s1 : State) (o : MOp) (a : Word) (op : HomeOp) (ans : Answer)
    (rung : Option Bool) (collect : State → Word → State) : State :=
  let code := if fills op then 3 else 2
  match ans with
  | .ok v => collect s1 v
  | .trap cause info => s.found s1 cause info
  | .absent host =>
    let k := s.cur.2
    let line := lineKey s.myCore.dom a
    let page := linePage line
    if !s.pagePending page then
      -- the page came while the reply was on its way
      s.refuse s1 5 (if host then 1 else 0) o.nra o.tgt .now
    else
      let failed := s.priFailed.contains page
      let e : Absent := { ctx := k, line := line, page := page, host := host, failed := failed, told := true }
      let c := s1.myCore.clearAbsent k line false
      s.refuse (s1.setMyCore { c with absents := c.absents ++ [e] }) 5 (if host then 1 else 0) o.nra o.tgt
        (if failed then .now else .page page)
  | .unready watch =>
    if !watch then
      if s.parks o.nra && o.nra != .park then
        let (s2, on) := s1.lateWatch a op
        s.refuse s2 code 0 o.nra o.tgt on
      else s.refuse s1 code 0 o.nra o.tgt .timed
    else match rung with
    | some changing => s.refuse (s1.setMe { s1.me with front := changing }) code 0 o.nra o.tgt .now
    | none => s.refuse s1 code 0 o.nra o.tgt (if isFabric a && (s.loopback a).isNone then .far else .word)

/-- One execution of a reply-slot instruction for address `a` (R67, R68): `send` sends its request for
`op`, `collect` ends it with the value. -/
def State.exchange (s : State) (o : MOp) (a : Word) (remote : Bool) (op : HomeOp)
    (send : State → State) (collect : State → Word → State) : State :=
  let x := s.me
  match x.slot with
  | none => s.request s o a remote send
  | some sl =>
    if sl.ip != s.ip then s.busy s (if s.relDue o then 11 else 13) o.nra o.tgt
    else
      let s1 := s.setMe { x with slot := none, rung := none }
      match sl.ans with
      | none => s.pending s o sl.remote
      | some ans =>
        if sl.addr != a then s.request s1 o a remote send
        else s.collected s1 o a op ans x.rung collect

/-! ### The core cache, the store buffer and line requests (R74, R109–R111, R262–R267, R465) -/

/-- The bits of a word that a mask of bytes selects. -/
def maskBits (bm : Nat) : Word := BitVec.ofNat 64 (ofBits ((List.range 64).map fun i => bitAt bm (i / 8)))

/-- The bits of a word that an entry carries. -/
def SEntry.bits (e : SEntry) : Word :=
  if e.fe = 2 then 0
  else match e.nib with
    | some hi => BitVec.ofNat 64 (15 * 2 ^ (8 * (e.va.toNat % 8) + if hi then 4 else 0))
    | none => maskBits e.bmask

/-- The stores of a context to a word that are still in the buffer, oldest first: the bits they
carry, laid over `v`; and which bits they are. -/
def forward (es : List SEntry) (v : Word) : Word × Word :=
  es.foldl (fun p e => let m := e.bits; ((p.1 &&& ~~~m) ||| (e.data &&& m), p.2 ||| m)) (v, 0)

def Core.buffered (c : Core) (k : Nat) (a : Word) : List SEntry :=
  c.sbuf.filter fun e => e.ctx == k && e.gen == (c.ctx k).gen.toNat && wordAddr e.va == wordAddr a

/-- Data held for a context, where it may still be read (R74). -/
def Core.held (c : Core) (k : Nat) (a : Word) : Option CWord :=
  let i := a.toNat / 8 % 8
  (c.holds.find? fun h => h.ctx == k && h.line == lineKey c.dom a && h.fault.isNone && bitAt h.valid i).map
    fun h => ⟨(h.data[i]?).getD 0, false, bitAt h.poison i⟩

/-- The bits of an element within its word. -/
def elemMask (t : Ty) (hi : Bool) (a : Word) : Word :=
  BitVec.ofNat 64 (ones t.width * 2 ^ elemBit t hi a.toNat)

/-- What the core can answer of an element of a context (R262): youngest buffered stores, then the
copy of the word, then held data. The word with those bits right, and whether poison is in them. -/
def Core.lookup (c : Core) (k : Nat) (a : Word) (m : Word) (copy : Option CWord) : Option (Word × Bool) :=
  let (v, b) := forward (c.buffered k a) ((copy.map (·.v)).getD 0)
  if m &&& ~~~b = 0 then some (v, false)
  else copy.map fun w => (v, w.poison)

/-- The copy of a word that a load may use. LDK may also use the constant path's copies (R264). -/
def Core.copyFor (c : Core) (k : Nat) (a : Word) (ldk : Bool) : Option CWord :=
  let wk := wordKey c.dom a
  match c.dcache.find? wk with
  | some w => some w
  | none => match (if ldk then c.kcache.find? wk else none) with
    | some w => some w
    | none => c.held k a

/-- Add a waiter to a line request. A PFX waits beside a load of its context; a load outweighs an LDK. -/
def addWaiter (l : List (Nat × Want)) (k : Nat) (w : Want) : List (Nat × Want) :=
  match l with
  | [] => [(k, w)]
  | (j, v) :: l =>
    if j = k ∧ ((v = .pfx) ↔ (w = .pfx)) then (k, if v = .ld then v else w) :: l
    else (j, v) :: addWaiter l k w

/-- Send a line request, or join the one in flight: the new core and the MISS reason; none when no
further request fits. A context that waits on a request sends no second one (R74). -/
def State.requestLine (s : State) (a : Word) (w : Want) : Option (State × Nat) :=
  let c := s.myCore
  let k := s.cur.2
  let line := lineKey c.dom a
  let waits := fun (r : LineReq) => r.line == line && w != .pfx && r.waiters.any fun e => e.1 == k && e.2 != .pfx
  if c.lineReqs.any fun r => waits r then some (s, 1)
  else if c.lineReqs.any fun r => r.line == line && !r.stale then
    let rs := c.lineReqs.map fun r =>
      if r.line == line && !r.stale then { r with waiters := addWaiter r.waiters k w } else r
    some (s.setMyCore { c with lineReqs := rs }, 1)
  else if s.conf.lineDepth ≤ c.lineReqs.length then none
  else
    let va := BitVec.ofNat 64 (a.toNat / 64 * 64)
    let r : LineReq := { line := line, va := va, dom := c.dom, waiters := [(k, w)] }
    some (s.setMyCore { c.clearAbsent k line (w == .pfx) with lineReqs := c.lineReqs ++ [r] }, 0)

/-- A note of a fault stands where the context's hold of the line would (R465). -/
def Core.noteAt (c : Core) (k line : Nat) : Option Nat :=
  ((c.holds.find? fun h => h.ctx == k && h.line == line && h.fault.isSome).bind (·.fault))

def Core.clearNote (c : Core) (k line : Nat) : Core :=
  { c with holds := c.holds.filter fun h => !(h.ctx == k && h.line == line && h.fault.isSome) }

/-- A load of host-half or device memory (R262–R264). -/
def State.cachedLoad (s : State) (o : MOp) (a : Word) (ldk : Bool) (done : State → Word → State) : State :=
  let c := s.myCore
  let k := s.cur.2
  let line := lineKey c.dom a
  match c.noteAt k line with
  | some cause => s.found (s.setMyCore (c.clearNote k line)) cause a
  | none =>
    if s.vaLocked a (elemBytes o.ty) then s.busy s 4 o.nra o.tgt else
    match c.lookup k a (elemMask o.ty o.v0 a) (c.copyFor k a ldk) with
    | some (_, true) => s.found s 0x0E (wordAddr a)
    | some (w, false) => done s (o.ty.ext (getElem w o.ty o.v0 a.toNat))
    | none =>
      match c.absentAt k line with
      | some e => s.absent s e a o.nra o.tgt
      | none => match s.requestLine a (if ldk then .ldk else .ld) with
        | some (s1, r) => s.refuse s1 1 r o.nra o.tgt (.line line)
        | none => s.busy s 0 o.nra o.tgt

/-- A store retires into the buffer (R109), or BUSY: of a lock and a full buffer, the lock is reported.
DESIGN CHOICE, log entry 85. -/
def State.bufferStore (s : State) (nra : Nra) (tgt : BitVec 32) (a : Word) (data : Word) (bm fe : Nat)
    (nib : Option Bool) (done : State → State) : State :=
  let c := s.myCore
  let x := s.me
  if s.vaLocked (wordAddr a) 8 then s.busy s 4 nra tgt
  else if 64 ≤ c.sbuf.length then s.busy s 6 nra tgt
  else
    let e : SEntry := { seq := c.seq, va := a, data := data, bmask := bm, fe := fe, ip := s.ip
                        gen := x.gen.toNat, ctx := s.cur.2, state := 1, dom := c.dom, cls := x.top2
                        nib := nib, ticks := s.ticks }
    done (s.setMyCore { c with sbuf := c.sbuf ++ [e], seq := (c.seq + 1) % 2 ^ 32 })

/-- The data, mask and marking of a store of an element (R109, R267). -/
def State.storeParts (s : State) (o : MOp) (a : Word) (v : Word) : Word × Nat × Option Bool :=
  let off := a.toNat % 8
  let v := if o.ty = .l6 then v.toNat % 64 else v.toNat
  if o.ty.width = 4 then
    let c := s.myCore
    let k := s.cur.2
    let copy := if isFabric a then none else c.dcache.find? (wordKey c.dom a)
    let other := BitVec.ofNat 64 (15 * 2 ^ (8 * off + if o.v0 then 0 else 4))
    match c.lookup k a other copy with
    | some (w, _) => (putElem w o.ty o.v0 off v, 2 ^ off, none)
    | none => (putElem 0 o.ty o.v0 off v, 2 ^ off, some o.v0)
  else (putElem 0 o.ty false off v, ones (elemBytes o.ty) * 2 ^ off, none)

end Sys2Proof.Machine
end

