-- ==== Sys2Proof/Machine/Sync.lean ====
section
/-! DEFINITION. Semaphores, messages, barriers and tasks (R283–R305). -/

namespace Sys2Proof.Machine
open Sys2Proof

/-! ### Shared forms -/

/-- sidx() of R283. -/
def State.sidx (s : State) (o : EOp) : Nat := ((s.G o.b).toNat + o.sem.toNat) % 256

/-- BUSY of an E format instruction. -/
def State.busyE (s : State) (o : EOp) (reason : Nat) : State := s.busy s reason o.nra o.tgt

/-- ctx.tinfo of 0Fh and 10h (R453). -/
def msgInfo (reason mkind gen tag ctx rank off : Nat) : Word :=
  BitVec.ofNat 64 (reason * 2 ^ 60 + mkind * 2 ^ 56 + gen % 256 * 2 ^ 48 + tag % 65536 * 2 ^ 32 +
    ctx % 16 * 2 ^ 28 + rank % 256 * 2 ^ 20 + off % 2 ^ 20)

/-- Go on with the rank in G(A), or raise 10h with REASON 1 (R498). -/
def State.withRank (s : State) (o : EOp) (mkind tag off : Nat) (k : Nat → State) : State :=
  let a := (s.G o.a).toNat
  if a < 256 && a < s.teamSize s.cur.1 then k a
  else s.found s 0x10 (msgInfo 1 mkind s.me.gen.toNat tag s.cur.2 a off)

/-- The outbound queue of the core is full (R292). -/
def State.outFull (s : State) : Bool := s.conf.outDepth ≤ (s.posted s.cur.1).length

/-- Post a message; the instruction ends OK, or BUSY (9). -/
def State.post (s : State) (o : EOp) (rank : Nat) (kind : MsgKind) (k : State → State) : State :=
  if s.outFull then s.busyE o 9
  else
    let s1 := s.sendMsg rank kind
    s.okay (k { s1 with nextId := s1.nextId + 1 })

/-- Change a count and walk its waiters; an unchanged count walks none. -/
def State.changeSem (s : State) (i v : Nat) : State :=
  if v = s.myCore.sems.get i 0 then s else s.setSem s.cur.1 i v 64

/-! ### Semaphores -/

/-- R287, R289. -/
def execSwait (o : EOp) (s : State) : Out :=
  guarded o.grd s fun s =>
    let i := s.sidx o
    let thr := o.imm.toNat
    let c := s.myCore
    let n := c.sems.get i 0
    if n < thr then
      let w : SemWaiter := { ctx := some s.cur.2, thr := thr, dec := o.v0 }
      let l := c.semWait.get i []
      let l := if s.me.front then w :: l else l ++ [w]
      let s1 := if s.parks o.nra then s.setMyCore { c with semWait := c.semWait.put i l } else s
      s.refuse s1 6 0 o.nra o.tgt (.sem i)
    else
      let s1 := if o.v0 then s.changeSem i (n - thr) else s
      s.okay (if o.ord == .acq then s1.acquire else s1)

/-- R286. -/
def execSsig (o : EOp) (s : State) : Out :=
  guarded o.grd s fun s =>
    let i := s.sidx o
    let inc := o.imm.toNat
    let late := o.ord == .rel && !s.relMet s.cur.1 s.cur.2
    let own := fun (_ : Unit) => if late then s.busyE o 11 else s.okay (s.signal s.cur.1 i inc)
    if !o.v0 then own ()
    else s.withRank o 4 0 i fun r =>
      if r = s.myCore.rank then own ()
      else if late then s.busyE o 11
      else s.post o r (.signal i inc) id

/-- R288. -/
def execSset (o : EOp) (s : State) : Out :=
  guarded o.grd s fun s => s.retire (s.changeSem (s.sidx o) o.imm.toNat).dirty

/-! ### Messages -/

/-- R290, R292, R491, R498. -/
def execMsend (o : EOp) (s : State) : Out :=
  guarded o.grd s fun s =>
    let k := s.cur.2
    let tag := o.imm.toNat
    if k = 15 || (10 < k && !o.v0) then s.denied (.msend o)
    else s.withRank o (if o.v0 then 8 else 7) tag 0 fun r =>
      s.post o r (.software o.v0 (o.sem.toNat % 4) tag (s.G o.d) (s.G o.b)) id

/-- The header of a message (R291). -/
def Msg.header (m : Msg) : Word :=
  match m.kind with
  | .software rep cls tag _ _ =>
    BitVec.ofNat 64 (tag * 2 ^ 48 + m.srank * 2 ^ 32 + m.ctx * 2 ^ 28 + (if rep then 0 else cls) * 2 ^ 26 +
      (if rep then 2 ^ 25 else 0))
  | _ => 0

def Msg.word (m : Msg) (n : Nat) : Word :=
  match m.kind with
  | .software _ _ _ w1 w2 => if n = 0 then m.header else if n = 1 then w1 else w2
  | _ => 0

/-- R294. -/
def execMrd (o : EOp) (s : State) : Out :=
  guarded o.grd s fun s =>
    match s.me.msg with
    | none => s.refuse s 2 4 o.nra o.tgt .message
    | some m => s.okay (s.setG o.d (m.word o.imm.toNat))

/-! ### The team barrier -/

/-- R298. -/
def execBara (o : EOp) (s : State) : Out :=
  guarded o.grd s fun s =>
    let c := s.myCore
    if 10 < s.cur.2 then s.denied (.bara o)
    else if o.ord == .rel && !s.relMet s.cur.1 s.cur.2 then s.busyE o 11
    else if (c.barq + 65536 - c.ph) % 65536 = 2 then s.busyE o 14
    else s.post o 0 (.arrival c.barq) fun s1 =>
      s1.setMyCore { s1.myCore with barq := (c.barq + 1) % 65536 }

/-- R299. -/
def execBarw (o : EOp) (s : State) : Out :=
  guarded o.grd s fun s =>
    let c := s.myCore
    if 10 < s.cur.2 then s.denied (.barw o)
    else if c.barq % 65536 = c.ph % 65536 then s.okay (if o.ord == .acq then s.acquire else s)
    else s.refuse s 6 1 o.nra o.tgt .barrier

/-! ### Completion -/

/-- A context of a core that executes DONE ends (R53): its slot stays until the reply has come. -/
def Ctx.ended (x : Ctx) : Ctx :=
  { x with live := false, wait := none, stop := none, held := [], yielded := none
           mode := false, cls := [], ovf := 0, msg := none }

/-- A held trap of work or of a store, or one that waits for its record, for which no context remains after DONE; a
faulted entry fails the team with 0Ch (R450, R472). -/
def orphanTrap (c : Core) : Option Trap :=
  let late := c.posts.filterMap fun p => p.trap.map fun t => { t.2.2 with cause := 0x0C }
  ((c.ctxs.flatMap fun e => e.2.held) ++ late).find? fun t => !(t.cause == 0x13 || t.cause == 0x14 || t.cause == 0x16)

/-- R53, R300: every context of the core ends; its watches, waiters and CLCK locks go. The quiet point
is watched for by the core (Issue.lean). -/
def execDoneI (o : ROp) (s : State) : Out :=
  guarded o.grd s fun s =>
    let pid := s.cur.1
    if 10 < s.cur.2 then s.denied (.doneI o)
    else
      let c := s.myCore
      let s := s.setMyCore { c with
        ctxs := c.ctxs.mapVals Ctx.ended
        finishing := some s.cur.2
        locks := c.locks.filter fun e => e.2.kind != 3
        semWait := c.semWait.mapVals fun l => l.filter (·.ctx.isNone) }
      let s := (s.removeWatches fun w => w.pid == pid && w.chain.isNone && w.dev.isNone).locksFreed pid
      match orphanTrap c with
      | some t => s.failCore pid t.cause t 0 false
      | none => s

/-! ### Tasks -/

/-- lsrec() of R283 with its checks: alignment, then the range. -/
def State.withRecord (s : State) (o : EOp) (k : Nat → State) : State :=
  let a := (s.G o.a).toNat
  if a % 32 ≠ 0 then s.check 7 (s.G o.a) else if 2 ^ 20 ≤ a then s.check 6 (s.G o.a) else k a

/-- Word `i` of a record in own local store. -/
def State.recWord (s : State) (off i : Nat) : Nat := s.rd (lsAddr s.cur.1 (off + 8 * i)) 8

/-- The task-type entry of the core's grid (R44). -/
def State.typeOf (s : State) (i : Nat) : Word × Word :=
  (((s.gridOf s.cur.1).map fun g => (g.types[i]?).getD (0, 0))).getD (0, 0)

/-- The record's codelet begins in its slots (R36, R301). -/
def State.beginHelpers (s : State) (off cn : Nat) (slots : List Nat) (rs : List Ranges) (ss : Range) : State :=
  let entry := BitVec.ofNat 64 (s.recWord off 0)
  let arg := BitVec.ofNat 64 (s.recWord off 1)
  let user := BitVec.ofNat 64 (s.recWord off 3)
  let n := s.free
  let c := s.myCore
  let c := { c with
    cnum := (cn + 1) % 256
    allots := c.allots ++ [allotOf cn slots false rs ss]
    poisonTold := c.poisonTold.filter (· != fld (s.recWord off 2) 0 20) }
  let c := ((slots.zip rs).zipIdx).foldl (fun c e =>
    let ((k, r), j) := e
    let m := n + 3 * j
    let ls := baseOf r.ls (m + 1)
    let g : KMap Word := [(1, arg), (2, u64 off), (3, user), (4, u64 j), (5, u64 ls),
      (6, u64 (if ss.2 = 0 then (Config.freeValue (m + 2)).toNat % 256 else ss.1)), (15, u64 (ls + r.ls.2))]
    { (c.forget k).setCtx k ((c.ctx k).begin entry g r cn m) with
      vregs := clearTags c.vregs r.v, tregs := clearTags c.tregs r.t }) c
  { s.setMyCore c with free := n + 3 * slots.length }

/-- R301, R498. -/
def execStartI (o : EOp) (s : State) : Out :=
  guarded o.grd s fun s =>
    if s.cur.2 ≠ 0 then s.denied (.startI o)
    else s.withRecord o fun off =>
      if s.lsLocked off 32 then s.busyE o 4
      else
        let w2 := s.recWord off 2
        let ty := fld w2 20 4
        let e := s.typeOf ty
        if 2 ^ 24 ≤ w2 || unusedType ty e then s.check 1 (slotBits (.startI o))
        else
          let need := needFor ty e.1
          let slots := s.myCore.freeSlots
          if slots.length < need.slots then s.busyE o 7
          else match s.myCore.fit need with
          | none => s.busyE o 8
          | some (rs, ss) =>
            let slots := slots.take need.slots
            let cn := s.myCore.cnum
            let s1 := s.acquire.beginHelpers off cn slots rs ss
            let mask := slots.foldl (fun m k => m + 2 ^ (k - 1)) 0
            s.okay (s1.setG o.d (u64 (cn * 65536 + mask)))

/-- R302. The data that context 0 holds are older than what an ended helper may have acquired, and go with an OK:
the edge of R152. -/
def execHchk (o : EOp) (s : State) : Out :=
  guarded o.grd s fun s =>
    let h := (s.G o.a).toNat
    let c := s.myCore
    let live := (List.range 10).any fun i =>
      let x := c.ctx (i + 1)
      bitAt h i && x.live && x.cnum.toNat == fld h 16 8
    if live then s.refuse s 6 3 o.nra o.tgt .helper
    else s.okay (s.setMyCore (s.myCore.releaseData s.cur.2))

/-- Ring entries whose word is poisoned are removed, each with 0Eh in context 0 (R477). -/
def State.skipPoisoned (s : State) (pid : Nat) : Nat → State
  | 0 => s
  | n + 1 =>
    let c := s.core pid
    let off := c.rrbase + 4 * (c.rrhead % 256)
    if c.rrhead != c.rrtail && s.isPoison (lsAddr pid off) then
      let s := s.setCore pid { c with rrhead := (c.rrhead + 1) % 512 }
      (s.holdBare pid 0 0x0E (u64 off)).skipPoisoned pid n
    else s

/-- R40, R303, R477. -/
def execRpop (o : EOp) (s : State) : Out :=
  guarded o.grd s fun s =>
    if s.cur.2 ≠ 0 then s.denied (.rpop o)
    else
      let s1 := s.skipPoisoned s.cur.1 256
      let c := s1.myCore
      if c.rrhead = c.rrtail then s.refuse s1 2 1 o.nra o.tgt .ring
      else
        let off := s1.rd (lsAddr s.cur.1 (c.rrbase + 4 * (c.rrhead % 256))) 4
        let ty := fld (s1.recWord off 2) 20 4
        let need := needFor ty (s1.typeOf ty).1
        if c.freeSlots.length < need.slots || (c.fit need).isNone then s.busy s1 8 o.nra o.tgt
        else s.okay ((s1.setMyCore { c with rrhead := (c.rrhead + 1) % 512 }).setG o.d (u64 off))

/-- R39, R304, R476, R498. -/
def execRdec (o : EOp) (s : State) : Out :=
  guarded o.grd s fun s =>
    let b := (s.G o.b).toNat
    if b % 32 ≠ 0 then s.check 7 (s.G o.b)
    else if 2 ^ 20 ≤ b then s.check 6 (s.G o.b)
    else s.withRank o 5 0 b fun r =>
      if r = s.myCore.rank then
        let dc := fld (s.recWord b 2) 0 20
        if s.lsLocked b 32 || s.lsLocked dc 8 then s.busyE o 4
        else match s.decrement s.cur.1 b s.ip s.me.top2 with
        | .done s1 => s.okay s1
        | .malformed d => s.check 7 (u64 d)
        | .poisoned s1 => s.found s1 0x10 (msgInfo 4 5 s.me.gen.toNat 0 s.cur.2 r b)
      else s.post o r (.decrement b) id

/-- The zones that hold a core of a grid. -/
def State.gridZones (s : State) (g : Nat) : List Nat :=
  (s.teams.flatMap fun e => if e.2.grid = g && !e.2.swapped then e.2.map.map zoneOf else []).dedup

/-- The zone of a die whose TAKE the floor of R43 serves: the coolest of the grid's there, the lowest of equals. -/
def State.floorZone (s : State) (die g : Nat) : Option Nat :=
  ((s.gridZones g).filter fun z => z / 16 == die).foldl (fun b z => match b with
    | none => some z
    | some y =>
      if s.zoneTemp z < s.zoneTemp y || (s.zoneTemp z == s.zoneTemp y && z < y) then some z else b) none

/-- Write a record into local store as one step. -/
def State.putRecord (s : State) (pid off : Nat) (ws : List Word) : State :=
  ws.zipIdx.foldl (fun s e =>
    (s.lsStep pid (off + 8 * e.2) fun _ _ full _ => ⟨.ok 0, e.1, full, false, true⟩).1) s

/-- Remove a record of a grid: the dispenser hands out the oldest. The manual fixes no order (R42). DESIGN
CHOICE, log entry 91. -/
def takeRec (g : Nat) : List DRec → Option (DRec × List DRec)
  | [] => none
  | r :: rs => if r.grid = g then some (r, rs) else (takeRec g rs).map fun p => (p.1, r :: p.2)

/-- R42, R43, R305. -/
def execTake (o : EOp) (s : State) : Out :=
  guarded o.grd s fun s =>
    let pid := s.cur.1
    let die := dieOf pid
    if 10 < s.cur.2 then s.denied (.take o)
    else s.withRecord o fun off =>
      if s.lsLocked off 32 then s.check 6 (u64 off)
      else
        let d := s.dispenser die
        match s.teamOf pid with
        | none => s.refuse s 2 2 o.nra o.tgt .dispenser
        | some t => match takeRec t.grid d.recs with
          | none => s.refuse s 2 2 o.nra o.tgt .dispenser
          | some (r, rest) =>
            let floor := d.grant.contains t.grid && s.allWithheld t.grid && s.floorZone die t.grid == some (zoneOf pid)
            let hold := if floor then none else s.withheld (zoneOf pid)
            match hold with
            | some reason => s.refuse s 7 reason o.nra o.tgt (.withheld reason)
            | none =>
              let d := { d with recs := rest, grant := if floor then setDel d.grant t.grid else d.grant
                                floor := if floor then d.floor.put t.grid s.ticks else d.floor }
              let s1 := { s with dispensers := s.dispensers.put die d }
              let s1 := s1.putRecord pid off r.ws
              let s1 := s1.cores.foldl (fun s e =>
                if dieOf e.1 = die then s.wakeIf e.1 (· == .busy 1) else s) s1
              s.okay s1

/-- R42, R305. -/
def execGive (o : EOp) (s : State) : Out :=
  guarded o.grd s fun s =>
    let pid := s.cur.1
    let die := dieOf pid
    s.withRecord o fun off =>
      let d := s.dispenser die
      if s.lsLocked off 32 then s.busyE o 4
      else if 8192 ≤ d.recs.length then s.busyE o 1
      else
        let t := s.teamOf pid
        let g := (t.map (·.grid)).getD 0
        let r : DRec := { grid := g, ws := (List.range 4).map fun i => BitVec.ofNat 64 (s.recWord off i)
                          rank := s.myCore.rank, off := off, team := (t.map (·.number)).getD 0 }
        let s1 := { s with dispensers := s.dispensers.put die { d with recs := d.recs ++ [r] } }
        let s1 := s1.cores.foldl (fun s1 e =>
          if dieOf e.1 = die && ((s.teamOf e.1).map (·.grid)) == some g then s1.wakeIf e.1 (· == .dispenser)
          else s1) s1
        s.okay s1

/-! ### The end of a handling -/

/-- The handling of the current message ends: the context holds no instruction pointer until the next
message of its class is taken (R293, R295). -/
def State.endHandler (s : State) (pid k : Nat) : State :=
  let c := s.core pid
  let x := c.ctx k
  let dead := { x with live := false, wait := none, slot := none, stop := none, held := []
                       yielded := none, msg := none }
  let c := { (c.setCtx k dead).forget k with
    locks := c.locks.filter fun e => !(e.2.kind == 3 && e.2.ctx == k) }
  x.held.foldl (fun s t => s.holdTrap pid 0 (s.ctx pid 0).gen.toNat t) ((s.setCore pid c).locksFreed pid)

/-- R295. -/
def execMret (o : ROp) (s : State) : Out :=
  guarded o.grd s fun s =>
    let k := s.cur.2
    if k < 11 then s.denied (.mret o)
    else if s.me.replyDue then s.parkCtx s.cur.1 k (.ending true)
    else s.endHandler s.cur.1 k

end Sys2Proof.Machine
end

