-- ==== Sys2Proof/Machine/Copy.lean ====
section
/-! DEFINITION. Copy records: their fields, shapes and ranges (R353–R357); the engine instructions
(R363–R368, R491, R501). -/

namespace Sys2Proof.Machine
open Sys2Proof

/-! ### Fields of a record (R353) -/

def recW (ws : List Word) (i : Nat) : Nat := ((ws[i]?).getD 0).toNat
/-- A field. -/
def recF (ws : List Word) (w lo n : Nat) : Nat := fld (recW ws w) lo n

def rKind (ws : List Word) : Nat := recF ws 0 0 4
def rSides (ws : List Word) : Bool := bitAt (recW ws 0) 5
def rSidec (ws : List Word) : Bool := bitAt (recW ws 0) 4
def rSidecar (ws : List Word) : Bool := rSides ws || rSidec ws
def rSrc (ws : List Word) : Nat := recW ws 1
def rDst (ws : List Word) : Nat := recW ws 2
def rSrp (ws : List Word) : Int := sextInt (recF ws 3 40 24) 24
def rDrp (ws : List Word) : Int := sextInt (recF ws 3 16 24) 24
/-- Bytes of a row. -/
def rRow (ws : List Word) : Nat := recF ws 3 0 16 + 1
def rDtag (ws : List Word) : Nat := recF ws 4 56 4
def rStag (ws : List Word) : Nat := recF ws 4 52 4
def rMcast (ws : List Word) : Nat := recF ws 4 48 4
def rSfe (ws : List Word) : Nat := recF ws 4 46 2
def rDfe (ws : List Word) : Nat := recF ws 4 44 2
def rDpp (ws : List Word) : Int := 4096 * sextInt (recF ws 4 32 12) 12
def rSpp (ws : List Word) : Int := 4096 * sextInt (recF ws 4 20 12) 12
/-- NPLN and NROW: planes and rows, minus 1. -/
def rPlanes (ws : List Word) : Nat := recF ws 4 12 8
def rRows (ws : List Word) : Nat := recF ws 4 0 12
def rWdec (ws : List Word) : Bool := bitAt (recW ws 5) 49
def rSigd (ws : List Word) : Bool := bitAt (recW ws 5) 48
def rSinc (ws : List Word) : Nat := recF ws 5 40 8
def rSsem (ws : List Word) : Nat := recF ws 5 32 8
def rWrank (ws : List Word) : Nat := recF ws 5 24 8
def rWsem (ws : List Word) : Nat := recF ws 5 16 8
def rWthr (ws : List Word) : Nat := if rSidecar ws then 0 else recF ws 5 0 16
def rEvq (ws : List Word) : Bool := bitAt (recW ws 7) 63
def rFo (ws : List Word) : Bool := bitAt (recW ws 7) 62
def rTag (ws : List Word) : Nat := recF ws 7 32 16
/-- The follow-on image, bits 95 to 0. -/
def rImage (ws : List Word) : Nat := recW ws 6 + recF ws 7 0 32 * 2 ^ 64

/-- The record converts (R357). -/
def rConv (ws : List Word) : Bool := rKind ws == 9 || (rKind ws == 3 && rStag ws != 0)

/-- The width of the format of a tag. -/
def tagBits (t : Nat) : Nat := ((Ty.ofTag t).getD .none).width

/-- Bytes of a destination row (R357). -/
def rDrow (ws : List Word) : Nat :=
  if rConv ws then rRow ws * tagBits (rDtag ws) / tagBits (rStag ws) else rRow ws

/-! ### Shapes and ranges (R355, R356, R179) -/

/-- A range that a record names: its bytes, whether it is written, and whether it is a list. -/
structure RRange where
  lo : Int
  len : Nat
  write : Bool
deriving DecidableEq, Repr

/-- The hull of a shape. -/
def rHull (base : Nat) (rp pp : Int) (n rows planes : Nat) (w : Bool) : RRange :=
  let l : List Int := [0, rows * rp, planes * pp, planes * pp + rows * rp]
  let lo := l.foldl min 0
  ⟨base + lo, (l.foldl max 0 - lo).toNat + n, w⟩

/-- The ranges that a record names directly, and its lists. -/
def recRanges (ws : List Word) : List RRange :=
  let rows := rRows ws
  let list := 8 * (rows + 1)
  let dst := rHull (rDst ws) (rDrp ws) (rDpp ws) (rDrow ws) rows (rPlanes ws) true
  match rKind ws with
  | 1 | 9 => [rHull (rSrc ws) (rSrp ws) (rSpp ws) (rRow ws) rows (rPlanes ws) false, dst]
  | 2 | 3 => [⟨rSrc ws, list, false⟩, rHull (rDst ws) (rDrp ws) 0 (rDrow ws) rows 0 true]
  | 4 => [rHull (rSrc ws) (rSrp ws) 0 (rRow ws) rows 0 false, ⟨rDst ws, list, false⟩]
  | 5 => [dst]
  | 6 => [⟨rSrc ws, 8, true⟩, ⟨rDst ws, rRow ws + 8, true⟩]
  | 7 => [rHull (rSrc ws) 0 0 (rRow ws) 0 0 false]
  | _ => []

/-- What a range of a record locks on the issuing core (R179): own local store or not, base, length. -/
def RRange.lock (r : RRange) (rank : Nat) : Option (Bool × Nat × Nat) :=
  if r.lo < 0 then none
  else match windowOf rank (ofInt r.lo) with
  | .rank q off => if q = rank then some (true, off, r.len)
      else some (false, (canonVa rank (ofInt r.lo)).toNat, r.len)
  | .host | .device => some (false, r.lo.toNat, r.len)
  | _ => none

def recLocks (rank : Nat) (ws : List Word) : List (Bool × Nat × Nat) :=
  (recRanges ws).filterMap fun r => r.lock rank

/-- The owner under which the locks of a record are entered. -/
def recKey (h num : Nat) : Nat := num * 8192 + h

/-! ### The engine instructions -/

/-- Go on with the chain that G(B) names, or raise 05h (R363, R491). -/
def State.withChain (s : State) (o : EOp) (i : Instr) (k : Nat → Chain → State) : State :=
  let h := fld (s.G o.b).toNat 0 13
  if s.myCore.chn.any fun e => e.2 == 2 ^ 13 + h then k h (s.chain h) else s.denied i

/-- The eight buffered stores of a record's words. -/
def Core.capp (c : Core) (k : Nat) (ip cls : Word) (gen : Nat) (va : Word) (ws : List Word) (ticks : Nat) : Core :=
  let es := ws.zipIdx.map fun e =>
    { seq := (c.seq + e.2) % 2 ^ 32, va := va + BitVec.ofNat 64 (8 * e.2), data := e.1, bmask := 255, fe := 0
      ip := ip, gen := gen, ctx := k, state := 1, dom := c.dom, cls := cls, ticks := ticks : SEntry }
  { c with sbuf := c.sbuf ++ es, seq := (c.seq + ws.length) % 2 ^ 32 }

/-- R364, R501. -/
def execCapp (o : EOp) (s : State) : Out :=
  guarded o.grd s fun s => s.withChain o (.capp o) fun h ch =>
    let a := s.G o.a
    let c := s.myCore
    let x := s.me
    if a.toNat % 64 ≠ 0 then s.check 7 a
    else if 2 ^ 20 ≤ a.toNat then s.check 6 a
    else if !((isHost ch.pend || isDevice ch.pend) && c.allowed ch.pend rW) then s.check 6 ch.pend
    else if 64 ≤ ch.recs.length then s.busyE o 1
    else if s.lsLocked a.toNat 64 then s.busyE o 4
    else if 64 < c.sbuf.length + 8 then s.busyE o 6
    else
      let ws := (List.range 8).map fun i => BitVec.ofNat 64 (s.recWord a.toNat i)
      let r : CRec := { va := ch.pend, advanced := false, dom := c.dom, ctx := s.cur.2, gen := 0
                        ip := s.ip, cls := 0, ws := ws
                        seqs := (List.range 8).map fun i => (c.seq + i) % 2 ^ 32 }
      let s1 := s.setMyCore (c.capp s.cur.2 s.ip x.top2 x.gen.toNat ch.pend ws s.ticks)
      s.okay (s1.setChain h { ch with recs := ch.recs ++ [r]
                                      pend := BitVec.ofNat 64 (recW ws 0 / 64 * 64) })

/-- Number the records that are advanced, from `n`; `at_` says which CADV it is. -/
def advanceRecs (k gen at_ : Nat) (ip cls : Word) : List CRec → Nat → List CRec × Nat
  | [], n => ([], n)
  | r :: rs, n =>
    if r.advanced then let (l, m) := advanceRecs k gen at_ ip cls rs n; (r :: l, m)
    else
      let (l, m) := advanceRecs k gen at_ ip cls rs (n + 1)
      ({ r with advanced := true, num := n + 1, order := at_, ctx := k, gen := gen, ip := ip, cls := cls } :: l, m)

/-- R178, R365, R450. -/
def execCadv (o : EOp) (s : State) : Out :=
  guarded o.grd s fun s => s.withChain o (.cadv o) fun h ch =>
    let c := s.myCore
    let x := s.me
    let k := s.cur.2
    let new := ch.recs.filter fun r => !r.advanced
    let waiting := c.sbuf.any fun e => new.any fun r => r.seqs.contains e.seq
    let locks := new.flatMap fun r => recLocks c.rank r.ws
    if waiting || !s.relMet s.cur.1 k then s.busyE o 11
    else if c.freeLocks < locks.length then s.busyE o 10
    else
      let (rs, n) := advanceRecs k x.gen.toNat s.nextId s.ip x.top2 ch.recs ch.seq
      let c := ((rs.zip ch.recs).filter fun e => !e.2.advanced).foldl
        (fun c e => c.lockWork 2 k (recKey h e.1.num) (recLocks c.rank e.1.ws)) c
      let s := { s with nextId := s.nextId + 1 }
      s.okay ((s.setMyCore c).setChain h { ch with recs := rs, seq := n, tail := ch.pend, stopped := false })

/-- R366. -/
def execCseq (o : EOp) (s : State) : Out :=
  guarded o.grd s fun s => s.withChain o (.cseq o) fun h ch =>
    if (s.G o.a).toNat ≤ ch.delivered then s.okay (if o.ord == .acq then s.acquire else s)
    else s.refuse s 6 2 o.nra o.tgt (.seq h)

/-- R367, R501. -/
def execClck (o : EOp) (s : State) : Out :=
  guarded o.grd s fun s =>
    let a := s.G o.a
    let n := 64 * o.imm.toNat
    let c := s.myCore
    if a.toNat % 64 ≠ 0 then s.check 7 a
    else if 2 ^ 20 < a.toNat + n then s.check 6 a
    else if s.lsLocked a.toNat n then s.busyE o 4
    else if c.freeLocks = 0 then s.busyE o 10
    else
      let (c, i) := c.addLock { kind := 3, ctx := s.cur.2, ls := true, base := a.toNat, len := n, owner := 0 }
      s.okay ((s.setMyCore c).setG o.d (u64 i))

/-- R367: no outcome. -/
def execCulk (o : EOp) (s : State) : Out :=
  guarded o.grd s fun s =>
    let i := (s.G o.a).toNat
    let c := s.myCore
    match c.locks.find? i with
    | some l =>
      if l.kind = 3 && l.ctx = s.cur.2 then
        s.retire ((s.setMyCore { c with locks := c.locks.del i }).dirty.locksFreed s.cur.1)
      else s.retire s.dirty
    | none => s.retire s.dirty

/-- R368. -/
def execEvpop (o : EOp) (s : State) : Out :=
  guarded o.grd s fun s =>
    let c := s.myCore
    if c.evqhead = c.evqtail then s.refuse s 2 3 o.nra o.tgt .events
    else
      let off := c.evqBase * 1024 + 16 * (c.evqhead % 64)
      let w0 := BitVec.ofNat 64 (s.recWord off 0)
      let w1 := BitVec.ofNat 64 (s.recWord off 1)
      s.okay (((s.setMyCore { c with evqhead := (c.evqhead + 1) % 128 }).setG o.d w0).setG (o.d + 1) w1)

end Sys2Proof.Machine
end

