-- ==== Sys2Proof/Machine/Memory.lean ====
section
/-! DEFINITION. Loads, stores, full/empty forms, atomics, fences, and PARK (R253, R257–R279). -/

namespace Sys2Proof.Machine
open Sys2Proof

/-! ### Shared forms -/

/-- A load ends with its value; the monitor remembers a plain one (R79). -/
def State.loaded (s s1 : State) (o : MOp) (a : Word) (v : Word) : State :=
  let s2 := s1.setG o.d v
  let x := s2.me
  s.finish (s2.setMe { x with mon := { x.mon with load := some (a, v) } }) (.ok true)

def elemUse (o : MOp) (need : Nat) (write : Bool) : Use :=
  { align := elemBytes o.ty, own := true, other := true, host := true, device := true, fabric := true,
    write := write, need := need }

/-- LD and LDK (R262, R264). -/
def State.loadOp (s : State) (o : MOp) (ldk : Bool) : State :=
  let a := s.ea o
  let op := HomeOp.load o.ty o.v0
  let done := fun s1 v => s.loaded s1 o a v
  s.access a (elemUse o rR false) fun
    | .own off => s.ownLs o.nra o.tgt off (elemBytes o.ty) op done
    | .other r off => s.exchange o a true op (fun s1 => s1.sendMsg r (.access op off false)) done
    | .fabric => s.exchange o a false op (fun s1 => s1.sendHome a op false) done
    | .home => s.cachedLoad o a ldk done
    | .weight _ => s.check 6 a

/-- lsoff() of R258 with its checks: alignment, then the range; a write to the weight-store window goes before
(R463, R497, R503). -/
def State.offset (s : State) (o : MOp) (write : Bool) (k : Nat → State) : State :=
  let a := s.ea o
  let weight : Bool := match windowOf s.myCore.rank a with
    | .weight _ _ => true
    | _ => false
  if a.toNat % elemBytes o.ty ≠ 0 then s.check 7 a
  else if 2 ^ 20 ≤ a.toNat then s.check (if write && weight then 0x11 else 6) a
  else k a.toNat

/-- The rank-window address of an own offset, by which the monitor names a load. -/
def ownVa (rank off : Nat) : Word := BitVec.ofNat 64 (0x90 * 2 ^ 56 + rank * 2 ^ 20 + off)

/-- The full/empty forms that use the reply slot, and FEQ (R271, R272). -/
def State.waitForm (s : State) (o : MOp) (op : HomeOp) (done : State → Word → State) : State :=
  let a := s.ea o
  let finish := fun (s1 : State) v => done (if acqOf o.ord then s1.acquire else s1) v
  s.access a { align := 8, own := true, other := true, device := true, fabric := true
               write := fills op, need := rF } fun
    | .own off =>
      if s.relDue o then s.busy s 11 o.nra o.tgt
      else if s.lsLocked off 8 then s.busy s 4 o.nra o.tgt
      else match s.lsOp s.cur.1 off op with
      | (s1, .ok v) => finish s1 v
      | (s1, .poisoned) => s.found s1 0x0E (BitVec.ofNat 64 off)
      | (s1, .unready) =>
        let w := watchOf op (lsWord s.cur.1 off) s.cur.1 s.cur.2 s.me.gen.toNat
        let s2 := if s.parks o.nra then (s1.addLsWatch s.cur.1 w s.me.front).1 else s1
        s.refuse s2 (if fills op then 3 else 2) 0 o.nra o.tgt .word
    | .other r off =>
      s.exchange o a true op (fun s1 => s1.sendMsg r (.access op off (o.nra == .park))) finish
    | .home => s.exchange o a false op (fun s1 => s1.sendHome a op (o.nra == .park)) finish
    | .fabric => s.exchange o a false op (fun s1 => s1.sendHome a op (o.nra == .park)) finish
    | .weight _ => s.check 6 a

/-- STE and FESET (R271, R272): `fe` as R109 codes it. -/
def State.setForm (s : State) (o : MOp) (op : HomeOp) (data : Word) (bm fe : Nat) : State :=
  let a := s.ea o
  let finish := fun (s1 : State) => s.okay (if acqOf o.ord then s1.acquire else s1)
  s.access a { align := 8, own := true, other := true, device := true, fabric := true
               write := true, need := rF } fun
    | .own off =>
      if s.relDue o then s.busy s 11 o.nra o.tgt
      else s.ownLs o.nra o.tgt off 8 op fun s1 _ => finish s1
    | .other r off =>
      s.exchange o a true op (fun s1 => s1.sendMsg r (.access op off false)) fun s1 _ => finish s1
    | .weight _ => s.check 6 a
    | _ =>
      if s.relDue o then s.busy s 11 o.nra o.tgt
      else s.bufferStore o.nra o.tgt a data bm fe none finish

/-- An atomic (R274). -/
def State.atomic (s : State) (o : MOp) (op : AtomOp) : State :=
  let a := s.aea o
  let h := HomeOp.atomic op o.ty (s.G o.b) (s.G o.d)
  let finish := fun (s1 : State) v => s.okay ((if acqOf o.ord then s1.acquire else s1).setG o.d v)
  s.access a { elemUse o rA true with need := rA } fun
    | .own off =>
      if s.relDue o then s.busy s 11 o.nra o.tgt
      else s.ownLs o.nra o.tgt off (elemBytes o.ty) h finish
    | .other r off => s.exchange o a true h (fun s1 => s1.sendMsg r (.access h off false)) finish
    | .weight _ => s.check 6 a
    | _ => s.exchange o a false h (fun s1 => s1.sendHome a h false) finish

/-! ### Loads and stores -/

/-- R262. -/
def execLd (o : MOp) (s : State) : Out := guarded o.grd s fun s => s.loadOp o false

/-- R264. -/
def execLdk (o : MOp) (s : State) : Out := guarded o.grd s fun s => s.loadOp o true

/-- R265. -/
def execLdl (o : MOp) (s : State) : Out :=
  guarded o.grd s fun s => s.offset o false fun off =>
    s.ownLs o.nra o.tgt off (elemBytes o.ty) (.load o.ty o.v0) fun s1 v =>
      s.loaded s1 o (ownVa s.myCore.rank off) v

/-- R266, R267. -/
def execSt (o : MOp) (s : State) : Out :=
  guarded o.grd s fun s =>
    let a := s.ea o
    let v := s.G o.d
    let op := HomeOp.store o.ty o.v0 v
    s.access a (elemUse o rW true) fun
      | .own off => s.ownLs o.nra o.tgt off (elemBytes o.ty) op fun s1 _ => s.okay s1
      | .other r off =>
        s.exchange o a true op (fun s1 => s1.sendMsg r (.access op off false)) fun s1 _ => s.okay s1
      | .weight _ => s.check 6 a
      | _ =>
        let (data, bm, nib) := s.storeParts o a v
        s.bufferStore o.nra o.tgt a data bm 0 nib s.okay

/-- R265, R266. -/
def execStl (o : MOp) (s : State) : Out :=
  guarded o.grd s fun s => s.offset o true fun off =>
    s.ownLs o.nra o.tgt off (elemBytes o.ty) (.store o.ty o.v0 (s.G o.d)) fun s1 _ => s.okay s1

/-! ### Fields of bits (R89, R268) -/

/-- The field of `w` bits at bit address `a` (R268): its checks, then the first byte and the number of
bytes that it touches. -/
def State.bitField (s : State) (o : MOp) (k : Nat → Nat → State) : State :=
  let a := s.G o.a + s.G o.b
  let w := o.disp.toNat % 64 + 1
  if 2 ^ 23 < a.toNat + w then s.check 6 a
  else
    let b := a.toNat / 8
    let n := (a.toNat + w - 1) / 8 - b + 1
    if s.lsLocked b n then s.busy s 4 o.nra o.tgt else k a.toNat w

/-- A poisoned word among those of `n` bytes of own local store at `off`. -/
def State.lsPoison (s : State) (pid off n : Nat) : Option Nat :=
  ((List.range ((off + n - 1) / 8 - off / 8 + 1)).map fun i => (off / 8 + i) * 8).find? fun o =>
    s.isPoison (lsAddr pid o)

/-- R268. -/
def execLdb (o : MOp) (s : State) : Out :=
  guarded o.grd s fun s => s.bitField o fun a w =>
    let b := a / 8
    let n := (a + w - 1) / 8 - b + 1
    match s.lsPoison s.cur.1 b n with
    | some off => s.found s 0x0E (BitVec.ofNat 64 off)
    | none =>
      let f := fld (s.rd (lsAddr s.cur.1 b) n) (a % 8) w
      s.okay (s.setG o.d (if o.ty.signed then ofInt (sextInt f w) else BitVec.ofNat 64 f))

/-- Write the part of a field that lies in the word at offset `w8`. -/
def State.putField (s : State) (pid w8 a w : Nat) (v : Word) : State :=
  let lo := max a (8 * w8)
  let hi := min (a + w) (8 * w8 + 64)
  if hi ≤ lo then s
  else (s.lsStep pid w8 fun _ x full p =>
    ⟨.ok 0, BitVec.ofNat 64 (setFld x.toNat (lo - 8 * w8) (hi - lo) (v.toNat / 2 ^ (lo - a))), full, p,
      true⟩).1

/-- R268. -/
def execStb (o : MOp) (s : State) : Out :=
  guarded o.grd s fun s => s.bitField o fun a w =>
    let w8 := a / 64 * 8
    let v := s.G o.d
    s.okay ((s.putField s.cur.1 w8 a w v).putField s.cur.1 (w8 + 8) a w v)

/-! ### The weight store and prefetch -/

/-- A scale column of 1 (R335): every entry scale 7Fh, layout 0. -/
def scOne : Nat := (List.range 16).foldl (fun n r => n + 0x7F * 2 ^ (16 * r)) 0

/-- The pool register behind a vector or tile specifier of a context; none beyond its allotment
(R492). -/
def Ctx.pool (x : Ctx) (d : Spec) : Option Nat :=
  let n := d.toNat
  if isV d then (if n - 32 < x.vcnt then some (x.vbase + (n - 32)) else none)
  else if isT d then (if n - 48 < x.tcnt then some (x.tbase + (n - 48)) else none)
  else none

/-- ctx.tinfo of 08h (R437). -/
def tagInfo (d : Spec) (tag : Nat) : Word := BitVec.ofNat 64 (d.toNat * 256 + tag)

/-- The counter of R95. -/
def State.wsphase (s : State) : Nat := s.ticks / 840 % 32768
def State.refreshing (s : State) (bank : Nat) : Bool := s.wsphase / 1024 == bank && s.wsphase % 1024 < 64

/-- R269. -/
def execWld (o : MOp) (s : State) : Out :=
  guarded o.grd s fun s =>
    let a := s.ea o
    let size := if isV o.d then 64 else 2048
    match s.me.pool o.d with
    | none => s.check 8 (tagInfo o.d 15)
    | some r => s.access a { align := size, weight := true, need := rR } fun
      | .weight off =>
        let c := s.myCore
        let named := fun (w : Work) => if isV o.d then w.vregs.contains r else w.tregs.contains r
        if c.mats.any named then s.busy s 2 o.nra o.tgt
        else if c.sweeps.any named then s.busy s 3 o.nra o.tgt
        else if s.refreshing (off / 2 ^ 23) then s.busy s 5 o.nra o.tgt
        else
          let at_ := wsAddr (dieOf s.cur.1) off
          match ((List.range (size / 8)).map (8 * ·)).find? fun i => s.isPoison (at_ + i) with
          | some i => s.found s 0x0E (a + BitVec.ofNat 64 i)
          | none =>
            let v : PReg := { v := s.rd at_ size, tag := o.ty.tag, sc := if isV o.d then 0 else scOne }
            s.okay (s.setMyCore (if isV o.d then { c with vregs := c.vregs.put r v }
              else { c with tregs := c.tregs.put r v }))
      | _ => s.check 6 a

/-- R270. A line is present when all its words are valid in the core cache: DESIGN CHOICE, log entry 86.
A note of its own that a failed page request has marked goes, and no trap is raised (R465, R467). -/
def execPfx (o : MOp) (s : State) : Out :=
  guarded o.grd s fun s =>
    let a := s.ea o
    s.access a { align := 8, own := true, other := true, host := true, device := true, weight := true
                 anyDie := true, fabric := true, need := rR } fun
      | .home =>
        let c := s.myCore
        let k := s.cur.2
        let line := lineKey c.dom a
        if (c.noteAt k line).isSome ||
            (List.range 8).all fun i => (c.dcache.find? (line * 8 + i)).isSome then s.okay s
        else match c.absents.find? fun e => e.ctx == k && e.line == line && e.pfx && !e.failed with
          | some e => s.absent s e a o.nra o.tgt
          | none => if s.vaLocked (wordAddr a) 8 then s.busy s 4 o.nra o.tgt
            else match s.requestLine a .pfx with
            | some (s1, _) => s.okay s1
            | none => s.busy s 0 o.nra o.tgt
      | _ => s.okay s

/-! ### Full/empty forms -/

/-- R271. -/
def execLdw (o : MOp) (s : State) : Out :=
  guarded o.grd s fun s => s.waitForm o .ldw fun s1 v => s.okay (s1.setG o.d v)
/-- R271. -/
def execLdc (o : MOp) (s : State) : Out :=
  guarded o.grd s fun s => s.waitForm o .ldc fun s1 v => s.okay (s1.setG o.d v)
/-- R271. -/
def execStf (o : MOp) (s : State) : Out :=
  guarded o.grd s fun s => s.waitForm o (.stf (s.G o.d)) fun s1 _ => s.okay s1
/-- R271. -/
def execSte (o : MOp) (s : State) : Out :=
  guarded o.grd s fun s => let v := s.G o.d; s.setForm o (.ste v) v 255 1
/-- R271. -/
def execFeq (o : MOp) (s : State) : Out :=
  guarded o.grd s fun s => s.waitForm o .feq fun s1 v => s.okay (s1.setG o.d v)
/-- R271. -/
def execFeset (o : MOp) (s : State) : Out := guarded o.grd s fun s => s.setForm o .feset 0 0 2

/-! ### Atomics -/

/-- R274. -/
def execAadd (o : MOp) (s : State) : Out := guarded o.grd s fun s => s.atomic o .add
/-- R274. -/
def execAand (o : MOp) (s : State) : Out := guarded o.grd s fun s => s.atomic o .and
/-- R274. -/
def execAor (o : MOp) (s : State) : Out := guarded o.grd s fun s => s.atomic o .or
/-- R274. -/
def execAxor (o : MOp) (s : State) : Out := guarded o.grd s fun s => s.atomic o .xor
/-- R274. -/
def execAmin (o : MOp) (s : State) : Out := guarded o.grd s fun s => s.atomic o .min
/-- R274. -/
def execAmax (o : MOp) (s : State) : Out := guarded o.grd s fun s => s.atomic o .max
/-- R274. -/
def execAswp (o : MOp) (s : State) : Out := guarded o.grd s fun s => s.atomic o .swap
/-- R274. -/
def execAcas (o : MOp) (s : State) : Out := guarded o.grd s fun s => s.atomic o .cas
/-- R274. -/
def execAfadd (o : MOp) (s : State) : Out := guarded o.grd s fun s => s.atomic o .fadd

/-- R275. -/
def execRsta (o : MOp) (s : State) : Out :=
  guarded o.grd s fun s =>
    let a := s.aea o
    s.access a { align := elemBytes o.ty, host := true, device := true, fabric := true, write := true
                 need := rA } fun _ =>
      s.exchange o a false (.rsta o.ty (s.G o.b)) (fun s1 => s1.sendHome a (.rsta o.ty (s.G o.b)) false)
        fun s1 _ => s.okay s1

/-! ### Acquire, release, fence -/

/-- R276. -/
def execAcq (o : ROp) (s : State) : Out := guarded o.grd s fun s => s.retire s.acquire.dirty

/-- R277. -/
def execRel (o : MOp) (s : State) : Out :=
  guarded o.grd s fun s =>
    if s.relMet s.cur.1 s.cur.2 then s.okay s else s.busy s 11 o.nra o.tgt

/-- Every earlier posted message of the context has been performed (R161). -/
def State.fenceMet (s : State) (pid k : Nat) : Bool :=
  (s.posted pid).all fun m => !(m.ctx == k && m.gen == (s.ctx pid k).gen.toNat)

/-- R278. -/
def execFence (o : MOp) (s : State) : Out :=
  guarded o.grd s fun s =>
    if s.fenceMet s.cur.1 s.cur.2 then s.okay s else s.busy s 11 o.nra o.tgt

/-! ### PARK -/

/-- The check of a PARK is on its way, under the next number. -/
def State.askPark (s : State) (timeout : Nat) : State :=
  { s.setMe { s.me with rung := none, asked := some s.nextId } with nextId := s.nextId + 1 }.parkCtx s.cur.1 s.cur.2
    (.parkAsk timeout)

/-- R253, R496. -/
def execPark (o : ROp) (s : State) : Out :=
  guarded o.grd s fun s =>
    let a := s.G o.a
    let v := s.G o.b
    let t := fld (s.G o.c).toNat 0 32
    let pid := s.cur.1
    let k := s.cur.2
    let s := s.dirty
    s.access a { align := 8, own := true, other := true, host := true, device := true, need := rR } fun
      | .own off =>
        if s.lsLocked off 8 then s.parkCtx pid k .parkLock
        else match s.lsOp pid off (.park v) with
        | (s1, .ok _) => s.retire s1
        | (s1, .poisoned) => s.found s1 0x0E (BitVec.ofNat 64 off)
        | (s1, .unready) =>
          let w : Watch := { word := lsWord pid off, want := none, changing := false, pid := pid
                             ctx := k, gen := s.me.gen.toNat }
          (s1.addLsWatch pid w false).1.parkCtx pid k
            (.parkWatch (lineKey 0 (ownVa s.myCore.rank off)) t)
      | .other r off =>
        (s.sendMsg r (.parkCheck off v)).askPark t
      | _ =>
        if s.vaLocked a 8 then s.parkCtx pid k .parkLock else (s.sendHome a (.park v) true).askPark t

end Sys2Proof.Machine
end

