-- ==== Sys2Proof/Machine/Sweep.lean ====
section
/-! DEFINITION. Acceptance of vector sweeps: operands, checks, outcomes, locks (R309–R319, R331, R492,
R499, R503). -/

namespace Sys2Proof.Machine
open Sys2Proof

/-- A range of own local store that a sweep names: the address and step of its segments, how many, the
bytes of each, the alignment of R311. A table base (R328) has no hull of its own. -/
structure Span where
  x0 : Word
  step : Int
  cnt : Nat
  bytes : Nat
  align : Nat
  table : Bool := false
deriving DecidableEq, Repr

/-- The least address of the hull (R311), and its length. -/
def Span.lo (p : Span) : Int := min (p.x0.toNat : Int) (p.x0.toNat + (p.cnt - 1 : Int) * p.step)
def Span.len (p : Span) : Nat :=
  (max (p.x0.toNat : Int) (p.x0.toNat + (p.cnt - 1 : Int) * p.step) + p.bytes - p.lo).toNat

def Span.aligned (p : Span) : Bool := p.x0.toNat % p.align == 0 && p.step % (p.align : Int) == 0
/-- The range lies in own local store. -/
def Span.inside (p : Span) : Bool :=
  p.x0.toNat < 2 ^ 20 && (p.table || (0 ≤ p.lo && p.lo + p.len ≤ 2 ^ 20))

/-- What a sweep names, each list in the order D, A, B: vector registers with the type a source is
read as (none: only written, or a raw mask); ranges of own local store; the memory side of VLD and
VST; whether the whole local store is locked; the tag it writes. -/
structure VPlan where
  regs : List (Spec × Option Ty)
  spans : List Span
  mem : Option (Span × Nat) := none
  whole : Bool := false
  dtag : Nat
deriving DecidableEq, Repr

/-- The step of an operand. -/
def stepOf (x : BitVec 10) : Int := sextInt x.toNat 10

/-- The tag that a pool register holds once the accepted sweeps have run (R312, R314). -/
def Core.vtag (c : Core) (r : Nat) : Nat :=
  c.sweeps.foldl (fun t w => if w.dreg = some r then w.dtag else t) (c.vregs.get r {}).tag

/-- R312, R492, R493: the specifier and tag of the first register that fails. -/
def State.badTag (s : State) : List (Spec × Option Ty) → Option Word
  | [] => none
  | (d, t) :: l =>
    if !isV d then State.badTag s l
    else match s.me.pool d with
    | none => some (tagInfo d 15)
    | some r =>
      let g := s.myCore.vtag r
      match t with
      | some t => if g = 0 || t = .none || g = t.tag then State.badTag s l else some (tagInfo d g)
      | none => State.badTag s l

/-- The first address of the memory side outside one window of the two, or without the right
(R331, R499). -/
def State.memFault (s : State) (p : Span) (need : Nat) : Option Word :=
  let lo := p.lo
  let hi := lo + p.len - 1
  if !(isHost p.x0 || isDevice p.x0) then some p.x0
  else
    let base : Int := if isHost p.x0 then 0 else 2 ^ 63
    if lo < base then some (ofInt lo)
    else if base + 2 ^ 56 ≤ hi then some (ofInt (base + 2 ^ 56))
    else
      let c := s.myCore
      let blocks := (List.range ((hi / 2 ^ 21 - lo / 2 ^ 21).toNat + 1)).map fun (i : Nat) =>
        max lo ((lo / 2 ^ 21 + (i : Int)) * 2 ^ 21)
      (blocks.find? fun a => !c.allowed (ofInt a) need).map ofInt

/-- Locks of work of context `k` that keep a sweep out: of matrix work, copy records and other
contexts' CLCK (R313). -/
def Core.lockedFor (c : Core) (k : Nat) (ls : Bool) (a n : Nat) : Bool :=
  c.locks.any fun e => e.2.kind != 0 && e.2.ls == ls && overlap e.2.base e.2.len a n &&
    !(e.2.kind == 3 && e.2.ctx == k)

/-- The ranges that a sweep locks (R315): own local store or not, base, length. The empty hull of a VBSR of length 0
takes no entry: DESIGN CHOICE, log entry 118. -/
def VPlan.locks (p : VPlan) : List (Bool × Nat × Nat) :=
  (if p.whole then [(true, 0, 2 ^ 20)]
   else (p.spans.filter fun x => !x.table && x.len != 0).map fun x => (true, x.lo.toNat, x.len)) ++
  match p.mem with
  | some (x, _) => [(false, x.lo.toNat, x.len)]
  | none => []

/-- An outcome of a sweep or matrix instruction: they act as SET (R63). -/
def State.busyV (s : State) (reason : Nat) : State := s.busy s reason .set 0

/-- The checks of R499 in the order of R503, a VST into the weight-store window among them (R463); then the outcomes of
R313; then acceptance. -/
def State.sweep (s : State) (i : Instr) (o : VOp) (p : VPlan) (a2 : Word := 0) : State :=
  let c := s.myCore
  let x := s.me
  let k := s.cur.2
  match s.badTag p.regs with
  | some info => s.check 8 info
  | none =>
  let all := p.spans ++ (p.mem.map (·.1)).toList
  match all.find? fun q => !q.aligned with
  | some q => s.check 7 q.x0
  | none =>
  match p.spans.find? fun q => !q.inside with
  | some q => s.check 6 q.x0
  | none =>
  match p.mem.bind fun m => s.memFault m.1 m.2 with
  | some a =>
    let weight : Bool := match windowOf c.rank a with
      | .weight _ _ => p.mem.any (·.2 == rW)
      | _ => false
    s.check (if weight then 0x11 else 6) a
  | none =>
    let regs := (p.regs.filter fun r => isV r.1).filterMap fun r => x.pool r.1
    let stores := match p.mem with
      | some (m, _) => c.sbuf.any fun e => e.ctx == k && e.gen == x.gen.toNat &&
          overlap (wordAddr e.va).toNat 8 m.lo.toNat m.len
      | none => false
    if stores then s.busyV 11
    else if regs.any fun r => c.mats.any fun w => w.vregs.contains r then s.busyV 2
    else if p.locks.any fun l => c.lockedFor k l.1 l.2.1 l.2.2 then s.busyV 4
    else if c.freeLocks < p.locks.length then s.busyV 10
    else if 4 ≤ c.sweeps.length then s.busyV 3
    else
      let w : Work := { id := s.nextId, instr := i, ctx := k, gen := x.gen.toNat, ip := s.ip
                        cls := x.top2, seq := c.seq, d := s.G o.d, a := s.G o.a, b := s.G o.b, e := 0, a2 := a2
                        b2 := 0, vbase := x.vbase, tbase := x.tbase, dom := c.dom, vregs := regs
                        tregs := [], dreg := x.pool o.d, dtag := p.dtag }
      let c := c.lockWork 0 k w.id p.locks
      s.okay { s.setMyCore { c with sweeps := c.sweeps ++ [w] } with nextId := s.nextId + 1 }

/-! ### Plans -/

/-- The range of a memory operand of a sweep. -/
def State.span (s : State) (sp : Spec) (scalar : Bool) (step : BitVec 10) (cnt bytes : Nat) (t : Ty) :
    List Span :=
  if isV sp || scalar then []
  else [{ x0 := s.G sp, step := stepOf step, cnt := cnt, bytes := bytes, align := elemBytes t }]

/-- A binary sweep of one type; `dread`: D is read as that type too, or as a raw mask. -/
def State.planBin (s : State) (o : VOp) (dread : Option Ty) (dtag : Nat) : VPlan :=
  let n := o.cnt.toNat
  { regs := [(o.d, dread), (o.a, some o.ty), (o.b, some o.ty)]
    spans := s.span o.d false o.sd n 64 o.ty ++ s.span o.a o.aS o.sa n 64 o.ty ++
      s.span o.b o.bS o.sb n 64 o.ty
    dtag := dtag }

/-- A unary sweep of one type; `dn` segments of D. -/
def State.planUn (s : State) (o : VOp) (dn : Nat) (dtag : Nat) : VPlan :=
  { regs := [(o.d, none), (o.a, some o.ty)]
    spans := s.span o.d false o.sd dn 64 o.ty ++ s.span o.a o.aS o.sa o.cnt.toNat 64 o.ty
    dtag := dtag }

/-- The source type of VCVT, and the wide type of VQNT and VDQ. -/
def tsOf (o : VOp) : Ty := (Ty.ofCode o.b.toNat).getD .none

/-- Bytes that VCVT moves a step on the side of type `t`, the other being `u` (R323). -/
def cvtBytes (t u : Ty) : Nat := 64 * t.width / max t.width u.width

end Sys2Proof.Machine
end

