-- ==== Sys2Proof/Machine/VectorRun.lean ====
section
/-! DEFINITION. What accepted sweeps do, segment by segment (R317, R320–R334, R450). -/

namespace Sys2Proof.Machine
open Sys2Proof

/-- A fault of accepted work: cause, ctx.tinfo. -/
abbrev WFault := Nat × Word

/-- Run `n` segments from `i`: the state, and the fault with the index where it stopped. -/
def runSegs (f : State → Nat → State × Option WFault) : Nat → Nat → State → State × Option (Nat × Word × Nat)
  | 0, _, s => (s, none)
  | n + 1, i, s =>
    match f s i with
    | (s, some e) => (s, some (e.1, e.2, i))
    | (s, none) => runSegs f n (i + 1) s

/-! ### Segments -/

/-- Elements of `w` bits of a packed value (R126). -/
def lanesOf (w n v : Nat) : List Nat := (List.range n).map fun j => fld v (w * j) w
def packLanes (w : Nat) : List Nat → Nat
  | [] => 0
  | x :: xs => x % 2 ^ w + 2 ^ w * packLanes w xs

/-- An element as it is written: an L6 byte has bits [7:6] zero and one zero (R127). -/
def laneOut (t : Ty) (x : Nat) : Nat := if t = .l6 then (if x % 32 = 0 then 0 else x % 64) else x

/-- Lanes of a type as they are written. -/
def packOut (t : Ty) (l : List Nat) : Nat := packLanes t.width (l.map (laneOut t))

/-- Write `n` bytes of own local store, word by word, bits preserved; a whole word loses its poison
(R317, R475). -/
def State.lsPut (s : State) (pid off n v : Nat) : State :=
  (List.range ((off + n + 7) / 8 - off / 8)).foldl (fun s j =>
    let wa := (off / 8 + j) * 8
    let lo := max off wa
    let hi := min (off + n) (wa + 8)
    (s.lsStep pid wa fun _ x full p =>
      ⟨.ok 0, BitVec.ofNat 64 (setFld x.toNat (8 * (lo - wa)) (8 * (hi - lo)) (v / 2 ^ (8 * (lo - off)))),
        full, p && hi - lo != 8, true⟩).1) s

/-- Read bytes of own local store; poison faults. -/
def State.lsGet (s : State) (pid off n : Nat) : Except WFault Nat :=
  match s.lsPoison pid off n with
  | some o => .error (0x0E, BitVec.ofNat 64 o)
  | none => .ok (s.rd (lsAddr pid off) n)

/-- The address of segment `i`. -/
def segAt (base : Word) (step : BitVec 10) (i : Nat) : Nat := ((base.toNat : Int) + i * stepOf step).toNat

/-- An operand's segment `i` of `bytes` bytes (R310). -/
def State.segGet (s : State) (pid : Nat) (w : Work) (sp : Spec) (scalar : Bool) (base : Word)
    (step : BitVec 10) (t : Ty) (bytes i : Nat) : Except WFault Nat :=
  if isV sp then .ok (((s.core pid).vregs.get (w.vbase + (sp.toNat - 32)) {}).v % 2 ^ (8 * bytes))
  else if scalar then
    .ok (packLanes t.width (List.replicate (8 * bytes / t.width) (base.toNat % 2 ^ t.width)))
  else s.lsGet pid (segAt base step i) bytes

/-- Write segment `i` of D. A register's remaining bytes are zero (R323). -/
def State.segPut (s : State) (pid : Nat) (w : Work) (sp : Spec) (step : BitVec 10) (bytes i v : Nat) :
    State :=
  if isV sp then
    let c := s.core pid
    s.setCore pid { c with vregs := c.vregs.put (w.vbase + (sp.toNat - 32)) { v := v, tag := w.dtag } }
  else s.lsPut pid (segAt w.d step i) bytes v

def getA (s : State) (pid : Nat) (w : Work) (o : VOp) (t : Ty) (bytes i : Nat) : Except WFault Nat :=
  s.segGet pid w o.a o.aS w.a o.sa t bytes i
def getB (s : State) (pid : Nat) (w : Work) (o : VOp) (t : Ty) (bytes i : Nat) : Except WFault Nat :=
  s.segGet pid w o.b o.bS w.b o.sb t bytes i
def getD (s : State) (pid : Nat) (w : Work) (o : VOp) (t : Ty) (bytes i : Nat) : Except WFault Nat :=
  s.segGet pid w o.d false w.d o.sd t bytes i

/-- Lift a computation of segment `i`'s value. -/
def segStep (s : State) (pid : Nat) (w : Work) (o : VOp) (bytes i : Nat) (r : Except WFault Nat) :
    State × Option WFault :=
  match r with
  | .ok v => (s.segPut pid w o.d o.sd bytes i v, none)
  | .error e => (s, some e)

/-! ### Elementwise (R320–R322) -/

/-- A binary elementwise sweep; `useD`: D is read; `out`: how a lane is written. -/
def runBin (pid : Nat) (w : Work) (o : VOp) (useD : Bool) (out : Nat → Nat) (f : Nat → Nat → Nat → Nat) (s : State) :
    State × Option (Nat × Word × Nat) :=
  let wd := o.ty.width
  let n := 512 / wd
  runSegs (fun s i => segStep s pid w o 64 i (do
    let d ← if useD then getD s pid w o o.ty 64 i else pure 0
    let a ← getA s pid w o o.ty 64 i
    let b ← getB s pid w o o.ty 64 i
    pure (packLanes wd ((List.range n).map fun j =>
      out (f (fld a (wd * j) wd) (fld b (wd * j) wd) (fld d (wd * j) wd)))))) o.cnt.toNat 0 s

/-- A unary elementwise sweep. -/
def runUn (pid : Nat) (w : Work) (o : VOp) (f : Nat → Nat) (s : State) : State × Option (Nat × Word × Nat) :=
  let wd := o.ty.width
  runSegs (fun s i => segStep s pid w o 64 i (do
    let a ← getA s pid w o o.ty 64 i
    pure (packOut o.ty ((lanesOf wd (512 / wd) a).map f)))) o.cnt.toNat 0 s

def vrm (o : VOp) : Rm := .ofCode (o.low.toNat % 8)
def vsat (o : VOp) : Bool := 8 ≤ o.low.toNat
/-- fl(x) of R320. -/
def vfl (o : VOp) (x : Val) : Nat := (fmtD o.ty).round (vrm o) (vsat o) x
/-- il(x) of R320. -/
def vil (o : VOp) (x : Int) : Nat := o.ty.wrapInt (vsat o) x
def fv (o : VOp) (x : Nat) : Val := (fmtD o.ty).val x

/-- f(a, b) by type: floats exactly, integers exactly. -/
def arith (o : VOp) (ff : Val → Val → Val) (fi : Int → Int → Int) (a b : Nat) : Nat :=
  if o.ty.isF then vfl o (ff (fv o a) (fv o b)) else vil o (fi (o.ty.int a) (o.ty.int b))

/-- Minimum and maximum by type. -/
def extreme (o : VOp) (mx : Bool) (a b : Nat) : Nat :=
  if o.ty.isF then (fmtD o.ty).minmax mx a b
  else if (o.ty.int a ≤ o.ty.int b) != mx then a else b

def absLane (o : VOp) (a : Nat) : Nat :=
  if o.ty.isF then
    if (fv o a).isNan then (fmtD o.ty).nan else a % 2 ^ (o.ty.width - 1)
  else if o.ty.signed then vil o (o.ty.int a).natAbs else a

def cmpLane (o : VOp) (a b : Nat) : Nat :=
  let c := if o.ty.isF then condFlt o.low.toNat (fv o a) (fv o b)
    else condOrd o.low.toNat (compare (o.ty.int a) (o.ty.int b))
  if c then ones o.ty.width else 0

/-! ### VCVT (R323) -/

def runCvt (pid : Nat) (w : Work) (o : VOp) (s : State) : State × Option (Nat × Word × Nat) :=
  let td := o.ty
  let ts := tsOf o
  let l := 512 / max td.width ts.width
  let nd := cvtBytes td ts
  runSegs (fun s i => segStep s pid w o nd i (do
    let a ← getA s pid w o ts (cvtBytes ts td) i
    pure (packLanes td.width ((lanesOf ts.width l a).map (convert td ts (vrm o) (vsat o)))))) o.cnt.toNat 0 s

/-! ### Reductions (R325, R326) -/

/-- An exact partial result of a reduction. -/
inductive Acc where
  | flt (v : Val)
  | int (n : Int)
  | pat (x : Nat)
deriving DecidableEq, Repr

/-- One element as a partial result; `op`: 0 add, 1 min, 2 max. -/
def accOf (o : VOp) (op x : Nat) : Acc :=
  if op = 0 then if o.ty.isF then .flt (fv o x) else .int (o.ty.int x) else .pat x

def accJoin (o : VOp) (op : Nat) (a b : Acc) : Acc :=
  match a, b with
  | .flt u, .flt v => .flt (Val.add (vrm o) u v)
  | .int u, .int v => .int (u + v)
  | .pat u, .pat v => .pat (extreme o (op == 2) u v)
  | a, _ => a

/-- The one rounding; a NaN that came through alone is canonical (R122). -/
def accOut (o : VOp) : Acc → Nat
  | .flt v => vfl o v
  | .int n => vil o n
  | .pat x => if o.ty.isF && (fv o x).isNan then (fmtD o.ty).nan else x

def accAdd (o : VOp) (op : Nat) (a : Option Acc) (x : Nat) : Option Acc :=
  match a with
  | none => some (accOf o op x)
  | some u => some (accJoin o op u (accOf o op x))

/-- Every segment's lanes in turn. -/
def readAll (pid : Nat) (w : Work) (o : VOp) (s : State) : Nat → Nat → Except (WFault × Nat) (List (List Nat))
  | 0, _ => .ok []
  | n + 1, i =>
    match getA s pid w o o.ty 64 i with
    | .error e => .error (e, i)
    | .ok v => (readAll pid w o s n (i + 1)).map fun l => lanesOf o.ty.width (512 / o.ty.width) v :: l

def runRed (pid : Nat) (w : Work) (o : VOp) (s : State) : State × Option (Nat × Word × Nat) :=
  let op := o.b.toNat % 4
  match readAll pid w o s o.cnt.toNat 0 with
  | .error (e, i) => (s, some (e.1, e.2, i))
  | .ok segs =>
    let n := 512 / o.ty.width
    let red := fun (l : List Nat) => ((l.foldl (accAdd o op) none).map (accOut o)).getD 0
    let res := if o.var then [red segs.flatten]
      else (List.range n).map fun j => red (segs.map fun g => (g[j]?).getD 0)
    (s.segPut pid w o.d o.sd 64 0 (packLanes o.ty.width res), none)

/-- The identity of the exclusive form. -/
def identity (o : VOp) (op : Nat) : Nat :=
  let f := fmtD o.ty
  if op = 0 then 0
  else if o.ty.isF then f.round .rne false (.inf (op == 2))
  else toBits (if op = 1 then o.ty.hi else o.ty.lo) o.ty.width

/-- Scan of lanes, from a partial result: the outputs and the partial result after them. -/
def scanLanes (o : VOp) (op : Nat) (ex : Bool) : List Nat → Option Acc → List Nat × Option Acc
  | [], a => ([], a)
  | x :: xs, a =>
    let a' := accAdd o op a x
    let out := if ex then (match a with
        | none => identity o op
        | some u => accOut o u)
      else (a'.map (accOut o)).getD 0
    let (l, r) := scanLanes o op ex xs a'
    (out :: l, r)

def runScan (pid : Nat) (w : Work) (o : VOp) : Nat → Nat → Option Acc → State →
    State × Option (Nat × Word × Nat)
  | 0, _, _, s => (s, none)
  | n + 1, i, a, s =>
    match getA s pid w o o.ty 64 i with
    | .error e => (s, some (e.1, e.2, i))
    | .ok v =>
      let wd := o.ty.width
      let (l, a) := scanLanes o (o.b.toNat % 4) o.var (lanesOf wd (512 / wd) v) a
      runScan pid w o n (i + 1) a (s.segPut pid w o.d o.sd 64 i (packLanes wd l))

/-! ### Rearrangement (R327, R328) -/

def runPerm (pid : Nat) (w : Work) (o : VOp) (s : State) : State × Option (Nat × Word × Nat) :=
  let wd := o.ty.width
  let n := 512 / wd
  runSegs (fun s i => segStep s pid w o 64 i (do
    let a ← getA s pid w o o.ty 64 i
    let b ← getB s pid w o o.ty 64 i
    pure (packOut o.ty ((List.range n).map fun j => fld a (wd * (fld b (8 * j) 8 % n)) wd)))) o.cnt.toNat 0 s

/-- The offset of the element that an index names, modulo 2^20 (R499). -/
def tableAt (base : Word) (step : BitVec 10) (i idx bytes : Nat) : Nat :=
  (((base.toNat : Int) + i * stepOf step + (idx * bytes : Nat)) % 2 ^ 20).toNat

def gatherLanes (s : State) (pid : Nat) (at_ : Nat → Nat) (bytes : Nat) : List Nat → Except WFault (List Nat)
  | [] => .ok []
  | x :: xs => do
    let v ← s.lsGet pid (at_ x) bytes
    let l ← gatherLanes s pid at_ bytes xs
    pure (v :: l)

def runGath (pid : Nat) (w : Work) (o : VOp) (s : State) : State × Option (Nat × Word × Nat) :=
  let wd := o.ty.width
  let n := 512 / wd
  runSegs (fun s i => segStep s pid w o 64 i (do
    let b ← getB s pid w o o.ty 64 i
    let l ← gatherLanes s pid (fun x => tableAt w.a o.sa i x (wd / 8)) (wd / 8) (lanesOf wd n b)
    pure (packOut o.ty l))) o.cnt.toNat 0 s

def runScat (pid : Nat) (w : Work) (o : VOp) (s : State) : State × Option (Nat × Word × Nat) :=
  let wd := o.ty.width
  let n := 512 / wd
  runSegs (fun s i =>
    match (do
      let a ← getA s pid w o o.ty 64 i
      let b ← getB s pid w o o.ty 64 i
      pure (a, b) : Except WFault (Nat × Nat)) with
    | .error e => (s, some e)
    | .ok (a, b) =>
      ((List.range n).foldl (fun s j =>
        s.lsPut pid (tableAt w.d o.sd i (fld b (wd * j) wd) (wd / 8)) (wd / 8) (laneOut o.ty (fld a (wd * j) wd))) s, none))
    o.cnt.toNat 0 s

/-! ### Block scaling (R329, R330) -/

def runQnt (pid : Nat) (w : Work) (o : VOp) (s : State) : State × Option (Nat × Word × Nat) :=
  let ts := tsOf o
  let wb := ts.width / 8 * 256
  let eb := o.ty.width * 256 / 8
  let n := o.cnt.toNat
  runSegs (fun s j =>
    match s.lsGet pid (w.a.toNat + j * wb) wb with
    | .error e => (s, some e)
    | .ok v =>
      let (code, el) := vqntBlock o.ty ((lanesOf ts.width 256 v).map ts.val)
      let lay := if o.var then 1 else 0
      let el := (List.range 256).map fun p => (el[layoutPos lay p]?).getD 0
      let s := s.lsPut pid (w.d.toNat + j * eb) eb (packLanes o.ty.width el)
      (s.lsPut pid (w.d.toNat + n * eb + 2 * j) 2 (code + lay * 256), none)) n 0 s

def runDq (pid : Nat) (w : Work) (o : VOp) (s : State) : State × Option (Nat × Word × Nat) :=
  let td := tsOf o
  let wb := td.width / 8 * 256
  let eb := o.ty.width * 256 / 8
  let n := o.cnt.toNat
  runSegs (fun s j =>
    match (do
      let sc ← s.lsGet pid (w.a.toNat + n * eb + 2 * j) 2
      let lay := sc / 256
      if 2 ≤ lay || (lay = 1 && o.ty.width = 8) then
        .error (9, BitVec.ofNat 64 (15 * 2 ^ 28 + lay * 2 ^ 20 + (w.a.toNat + n * eb + 2 * j + 1)))
      else
        let v ← s.lsGet pid (w.a.toNat + j * eb) eb
        pure (packLanes td.width ((List.range 256).map fun k =>
          dequant td o.ty (fld v (o.ty.width * layoutPos lay k) o.ty.width) (sc % 256))) :
        Except WFault Nat) with
    | .error e => (s, some e)
    | .ok v => (s.lsPut pid (w.d.toNat + j * wb) wb v, none)) n 0 s

/-! ### Local store and memory (R331, R332) -/

/-- Read `n` words from a home-side address. A page that is not resident starts its page-in and faults
(R499). -/
def memGet (dom : Nat) (a : Nat) : Nat → State → State × Except WFault (List Word)
  | 0, s => (s, .ok [])
  | n + 1, s =>
    let va := BitVec.ofNat 64 a
    match s.homeRead dom va with
    | (s, .absent) => (s, .error (0x0B, va))
    | (s, .fault c) => (s, .error (c, va))
    | (s, .ok w _ p) =>
      if p then (s, .error (0x0E, va))
      else match memGet dom (a + 8) n s with
        | (s, .ok l) => (s, .ok (w :: l))
        | r => r

/-- The memory address of segment `i`. -/
def memAt (base : Word) (step : BitVec 10) (i : Nat) : Nat :=
  (ofInt ((base.toNat : Int) + i * stepOf step)).toNat

def runVld (pid : Nat) (w : Work) (o : VOp) (s : State) : State × Option (Nat × Word × Nat) :=
  runSegs (fun s i =>
    match memGet w.dom (memAt w.a o.sa i) 8 s with
    | (s, .error e) => (s, some e)
    | (s, .ok l) => (s.segPut pid w o.d o.sd 64 i (packLanes 64 (l.map (·.toNat))), none)) o.cnt.toNat 0 s

/-- Write words at their homes, each with its poison; the issuing core loses its copies (R316). -/
def memPut (pid dom : Nat) : List (Nat × Word × Bool) → State → State × Option WFault
  | [], s => (s, none)
  | (a, v, p) :: l, s =>
    let va := BitVec.ofNat 64 a
    match s.homeWrite dom va v 255 none p with
    | (s, .absent) => (s, some (0x0B, va))
    | (s, .fault c) => (s, some (c, va))
    | (s, .done _) => memPut pid dom l (s.setCore pid ((s.core pid).dropWord (wordKey dom va) true))

/-- The words of the source of a VST, with their poison: they carry it (R475). -/
def vstWords (s : State) (pid : Nat) (w : Work) (o : VOp) (i : Nat) : List (Word × Bool) :=
  (List.range 8).map fun j =>
    if isV o.a then
      (BitVec.ofNat 64 (fld ((s.core pid).vregs.get (w.vbase + (o.a.toNat - 32)) {}).v (64 * j) 64), false)
    else
      let a := lsAddr pid (segAt w.a o.sa i + 8 * j)
      -- a source that is not aligned to words takes the poison of both words it touches
      (BitVec.ofNat 64 (s.rd a 8), s.isPoison a || s.isPoison (a + 7))

def runVst (pid : Nat) (w : Work) (o : VOp) (s : State) : State × Option (Nat × Word × Nat) :=
  runSegs (fun s i =>
    let a := memAt w.d o.sd i
    memPut pid w.dom ((vstWords s pid w o i).zipIdx.map fun e => (a + 8 * e.2, e.1.1, e.1.2)) s)
    o.cnt.toNat 0 s

/-! ### Sorted data (R333, R334) -/

/-- `n` outputs of the merge from elements `ia` and `ib`. -/
def mergeLanes (s : State) (pid : Nat) (t : Ty) (a b : Nat) : Nat → Nat → Nat →
    Except WFault (List Nat × Nat × Nat)
  | 0, ia, ib => .ok ([], ia, ib)
  | n + 1, ia, ib => do
    let e := elemBytes t
    let x ← s.lsGet pid (a + ia * e) e
    let y ← s.lsGet pid (b + ib * e) e
    if t.int x ≤ t.int y then
      let (l, r) ← mergeLanes s pid t a b n (ia + 1) ib
      pure (x :: l, r)
    else
      let (l, r) ← mergeLanes s pid t a b n ia (ib + 1)
      pure (y :: l, r)

/-- VMRG, segment by segment as R317 has every sweep, so that a D that overlaps A or B is read by later segments as
earlier ones wrote it, where the pseudocode of R333 writes D at the end: DESIGN CHOICE, log entry 120. -/
def runMrg (pid : Nat) (w : Work) (o : VOp) : Nat → Nat → Nat → Nat → State →
    State × Option (Nat × Word × Nat)
  | 0, _, _, _, s => (s, none)
  | n + 1, i, ia, ib, s =>
    match mergeLanes s pid o.ty w.a.toNat w.b.toNat (512 / o.ty.width) ia ib with
    | .error e => (s, some (e.1, e.2, i))
    | .ok (l, ia, ib) =>
      runMrg pid w o n (i + 1) ia ib (s.segPut pid w o.d o.sd 64 i (packLanes o.ty.width l))

/-- The search of R334 within `[lo, hi)`; `n` bounds its halvings. -/
def bsearch (s : State) (pid : Nat) (t : Ty) (base key : Nat) (le : Bool) : Nat → Nat → Nat → Except WFault Nat
  | 0, lo, _ => .ok lo
  | n + 1, lo, hi =>
    if hi ≤ lo then .ok lo
    else do
      let mid := (lo + hi) / 2
      let x ← s.lsGet pid (base + mid * elemBytes t) (elemBytes t)
      if t.int x < t.int key || (le && t.int x == t.int key) then bsearch s pid t base key le n (mid + 1) hi
      else bsearch s pid t base key le n lo mid

def bsearchAll (s : State) (pid : Nat) (t : Ty) (base len : Nat) (le : Bool) : List Nat →
    Except WFault (List Nat)
  | [] => .ok []
  | k :: ks => do
    let x ← bsearch s pid t base k le 24 0 len
    let l ← bsearchAll s pid t base len le ks
    pure (x :: l)

def runBsr (pid : Nat) (w : Work) (o : VOp) (s : State) : State × Option (Nat × Word × Nat) :=
  let wd := o.ty.width
  runSegs (fun s i => segStep s pid w o 64 i (do
    let b ← getB s pid w o o.ty 64 i
    let l ← bsearchAll s pid o.ty w.a.toNat w.a2.toNat o.var (lanesOf wd (512 / wd) b)
    pure (packLanes wd l))) o.cnt.toNat 0 s

/-! ### The sweep that work stands for -/

/-- The tag that a VMOV writes: of type 00h from a register to a register, the source's (R321). -/
def State.movTag (s : State) (pid : Nat) (w : Work) (o : VOp) : Nat :=
  if o.ty = .none && isV o.d && isV o.a then
    ((s.core pid).vregs.get (w.vbase + (o.a.toNat - 32)) {}).tag
  else w.dtag

/-- Perform an accepted sweep: the state, and where it stopped at a fault. VMOV, VSEL, VPERM, VGATH and VSCAT move the
patterns of their lanes as they are, a NaN among them: DESIGN CHOICE, log entry 115. -/
def State.runSweep (s : State) (pid : Nat) (w : Work) : State × Option (Nat × Word × Nat) :=
  match w.instr with
  | .vadd o => runBin pid w o false (laneOut o.ty) (fun a b _ => arith o (Val.add (vrm o)) (· + ·) a b) s
  | .vsub o => runBin pid w o false (laneOut o.ty) (fun a b _ => arith o (fun x y => Val.add (vrm o) x y.neg) (· - ·) a b) s
  | .vmul o => runBin pid w o false (laneOut o.ty) (fun a b _ => arith o Val.mul (· * ·) a b) s
  | .vfma o => runBin pid w o true (laneOut o.ty)
      (fun a b d => vfl o (Val.add (vrm o) (Val.mul (fv o a) (fv o b)) (fv o d))) s
  | .vmin o => runBin pid w o false (laneOut o.ty) (fun a b _ => extreme o false a b) s
  | .vmax o => runBin pid w o false (laneOut o.ty) (fun a b _ => extreme o true a b) s
  | .vabs o => runUn pid w o (absLane o) s
  | .vcmp o => runBin pid w o false id (fun a b _ => cmpLane o a b) s
  | .vsel o => runBin pid w o true (laneOut o.ty) (fun a b d => if d = 0 then b else a) s
  | .vand o => runBin pid w o false (laneOut o.ty) (fun a b _ => a &&& b) s
  | .vor o => runBin pid w o false (laneOut o.ty) (fun a b _ => a ||| b) s
  | .vxor o => runBin pid w o false (laneOut o.ty) (fun a b _ => a ^^^ b) s
  | .vshl o => runBin pid w o false (laneOut o.ty) (fun a b _ => a * 2 ^ (b % o.ty.width) % 2 ^ o.ty.width) s
  | .vshr o => runBin pid w o false (laneOut o.ty)
      (fun a b _ => toBits (o.ty.int a / (2 ^ (b % o.ty.width) : Nat)) o.ty.width) s
  | .vcvt o => runCvt pid w o s
  | .vexp2 o => runUn pid w o (fun a => exp2Round (fmtD o.ty) (vrm o) (vsat o) (fv o a)) s
  | .vlog2 o => runUn pid w o (fun a => log2Round (fmtD o.ty) (vrm o) (vsat o) (fv o a)) s
  | .vrcp o => runUn pid w o (fun a => vfl o (fv o a).rcp) s
  | .vrsq o => runUn pid w o (fun a => vfl o (fv o a).rsq) s
  | .vred o => runRed pid w o s
  | .vscan o => runScan pid w o o.cnt.toNat 0 none s
  | .vperm o => runPerm pid w o s
  | .vgath o => runGath pid w o s
  | .vscat o => runScat pid w o s
  | .vqnt o => runQnt pid w o s
  | .vdq o => runDq pid w o s
  | .vmov o => runUn pid { w with dtag := s.movTag pid w o } o id s
  | .vld o => runVld pid w o s
  | .vst o => runVst pid w o s
  | .vmrg o => runMrg pid w o o.cnt.toNat 0 0 0 s
  | .vbsr o => runBsr pid w o s
  | _ => (s, none)

/-- The semaphore and increment of a sweep or matrix operation (R207, R208). -/
def signalOf : Instr → Nat × Nat
  | .vadd o | .vsub o | .vmul o | .vfma o | .vmin o | .vmax o | .vabs o | .vcmp o | .vsel o | .vand o
  | .vor o | .vxor o | .vshl o | .vshr o | .vcvt o | .vexp2 o | .vlog2 o | .vrcp o | .vrsq o | .vred o
  | .vscan o | .vperm o | .vgath o | .vscat o | .vqnt o | .vdq o | .vmov o | .vld o | .vst o | .vmrg o
  | .vbsr o => (o.sem.toNat, o.inc.toNat)
  | .mld o | .mst o | .mma o | .mzero o | .mtrn o | .mcvt o | .mscl o | .macc o | .mstat o =>
    (o.sem.toNat, o.inc.toNat)
  | _ => (0, 0)

end Sys2Proof.Machine
end

