-- ==== Sys2Proof/Machine/MatrixRun.lean ====
section
/-! DEFINITION. Scratchpad operands, accumulators, tiles, and what accepted matrix operations do
(R335–R350, R142, R450). -/

namespace Sys2Proof.Machine
open Sys2Proof

/-! ### Scratchpad operands (R336) -/

/-- A base and a descriptor as they were read at acceptance. -/
structure Pad where
  base : Word
  desc : Word
deriving DecidableEq, Repr

def Pad.rp (p : Pad) : Nat := fld p.desc.toNat 0 16
def Pad.tp (p : Pad) : Nat := fld p.desc.toNat 16 16
def Pad.rot (p : Pad) : Nat := fld p.desc.toNat 32 4

/-- Where line `j` of row `r` of step `k` lies. -/
def Pad.line (p : Pad) (k r j : Nat) : Nat :=
  (p.base.toNat + k * p.tp + r * p.rp + 64 * j) ^^^ (r * p.rot % 16 * 64)

/-- The lines of `n` steps with `m` lines a row. -/
def Pad.lines (p : Pad) (n m : Nat) : List Nat :=
  (List.range n).flatMap fun k => (List.range 16).flatMap fun r => (List.range m).map fun j => p.line k r j

/-- The hull: base and length. -/
def Pad.hull (p : Pad) (n m : Nat) : Nat × Nat :=
  let ls := p.lines n m
  let lo := ls.foldl min ((ls.head?).getD 0)
  (lo, ls.foldl max 0 + 64 - lo)

/-! ### Formats by tag -/

/-- The type that a tag names; L6 and the integers by their own width. -/
def tyOf (tag : Nat) : Ty := (Ty.ofTag tag).getD .none
def tagWidth (tag : Nat) : Nat := (tyOf tag).width

/-- Bytes of an accumulator element, and the tag an accumulator tile carries (R337). -/
def accBytes (accf : Nat) : Nat := if accf = 1 then 8 else 4
def accTag (accf : Nat) : Nat := if accf = 12 then 13 else accf

/-- The exact value of an accumulator element. -/
def accVal (accf x : Nat) : Val :=
  if accf = 12 then
    let n := sextInt x 32
    .fin (n < 0) n.natAbs (-12)
  else (tyOf accf).val x

/-- The sum of R142 and R350 for integer and L6 accumulators: saturated. -/
def accSat (x : Int) : Nat := toBits (sat32 x) 32

/-- Rounding to a float accumulator. -/
def accRound (accf : Nat) (M : Rm) (x : Val) : Nat := (fmtD (tyOf accf)).round M false x

/-! ### Reading and writing -/

def State.tile (s : State) (pid r : Nat) : PReg := (s.core pid).tregs.get r {}
def State.setTile (s : State) (pid r : Nat) (v : PReg) : State :=
  s.setCore pid { s.core pid with tregs := (s.core pid).tregs.put r v }

/-- The 256 elements of an accumulator. -/
def State.accGet (s : State) (pid : Nat) (w : Work) (x : XOp) : Except WFault (List Nat) :=
  let n := accBytes x.accf.toNat
  if x.mode.getLsbD 0 then
    .ok (lanesOf (8 * n) 256 (s.tile pid (w.tbase + (x.d.toNat - 48))).v)
  else (s.lsGet pid w.d.toNat (256 * n)).map (lanesOf (8 * n) 256)

/-- Write an accumulator: the first 1 or 2 KiB of a tile, or local store. -/
def State.accPut (s : State) (pid : Nat) (w : Work) (x : XOp) (l : List Nat) : State :=
  let n := accBytes x.accf.toNat
  let v := packLanes (8 * n) l
  if x.mode.getLsbD 0 then
    let r := w.tbase + (x.d.toNat - 48)
    let t := s.tile pid r
    s.setTile pid r { t with v := setFld t.v 0 (2048 * n) v, tag := accTag x.accf.toNat, sc := scOne }
  else s.lsPut pid w.d.toNat (256 * n) v

/-- The 128-byte rows of step `k` of a scratchpad operand, with `m` lines a row. -/
def padRows (s : State) (pid : Nat) (p : Pad) (k m : Nat) : Nat → Except WFault (List Nat)
  | 0 => .ok []
  | n + 1 => do
    let l ← padRows s pid p k m n
    let r ← (List.range m).foldlM (fun (a : Nat) j => do
      let x ← s.lsGet pid (p.line k n j) 64
      pure (a + x * 2 ^ (512 * j))) 0
    pure (l ++ [r])

/-- An operand as it was named at acceptance: a tile's first register, or a scratchpad pair with its
format. -/
inductive MSrc where
  | tile (r : Nat)
  | pad (p : Pad) (tag : Nat)
deriving DecidableEq, Repr

/-- Step `k` of an operand: its rows, the scale of each, its tag (R338: a scratchpad is unscaled). -/
def State.stepOfSrc (s : State) (pid : Nat) (m : MSrc) (k : Nat) : Except WFault (List (Nat × Nat) × Nat) :=
  match m with
  | .tile r =>
    let t := s.tile pid (r + k)
    .ok ((List.range 16).map fun i => (fld t.v (1024 * i) 1024, fld t.sc (16 * i) 8), t.tag)
  | .pad p tag => (padRows s pid p k 2 16).map fun l => (l.map fun v => (v, 127), tag)

/-! ### MMA (R345, R142, R129) -/

/-- The elements of a row: as exact values with the row's scale, as integers, or as L6 bytes. -/
def rowVals (tag : Nat) (r : Nat × Nat) : List Val :=
  (lanesOf (tagWidth tag) (1024 / tagWidth tag) r.1).map fun x => scaleVal ((tyOf tag).val x) r.2
def rowInts (tag : Nat) (sg : Bool) (r : Nat × Nat) : List Int :=
  let w := tagWidth tag
  (lanesOf w (1024 / w) r.1).map fun x => if sg then sextInt x w else (x : Int)

def dotF (M : Rm) (a : List Val) (b : List Val) (x : Val) : Val :=
  (a.zip b).foldl (fun x p => Val.add M x (Val.mul p.1 p.2)) x
def dotI (a b : List Int) (x : Int) : Int := (a.zip b).foldl (fun x p => x + p.1 * p.2) x
def dotL (a b : List Nat) (x : Int) : Int := (a.zip b).foldl (fun x p => x + l6prod p.1 p.2) x

/-- Element (r, c) for every r and c, from the rows of A and of B. -/
def outer {α β γ : Type} (f : α → β → γ → γ) (A : List α) (B : List β) (acc : List γ) : List γ :=
  ((A.flatMap fun a => B.map fun b => (a, b)).zip acc).map fun e => f e.1.1 e.1.2 e.2

/-- The exact sums, step by step; the fault with its step. -/
def mmaSteps {γ : Type} (s : State) (pid : Nat) (a b : MSrc)
    (f : List (Nat × Nat) × Nat → List (Nat × Nat) × Nat → List γ → List γ) :
    Nat → Nat → List γ → Except (WFault × Nat) (List γ)
  | 0, _, acc => .ok acc
  | n + 1, k, acc =>
    match s.stepOfSrc pid a k with
    | .error e => .error (e, k)
    | .ok ra => match s.stepOfSrc pid b k with
      | .error e => .error (e, k)
      | .ok rb => mmaSteps s pid a b f n (k + 1) (f ra rb acc)

def Work.padA (w : Work) : Pad := ⟨w.a, w.a2⟩
def Work.padB (w : Work) : Pad := ⟨w.b, w.b2⟩
def srcA (w : Work) (x : XOp) : MSrc :=
  if x.ak then .pad w.padA x.fmt.toNat else .tile (w.tbase + (x.a.toNat - 48))
def srcB (w : Work) (x : XOp) : MSrc :=
  if x.bk then .pad w.padB x.fmt.toNat else .tile (w.tbase + (x.b.toNat - 48))

def xrm (x : XOp) : Rm := .ofCode x.rnd.toNat

def runMma (s : State) (pid : Nat) (w : Work) (x : XOp) : Except (WFault × Nat) State := do
  let accf := x.accf.toNat
  let acc ← (s.accGet pid w x).mapError fun e => (e, 0)
  let n := x.kcnt.toNat
  let out ← (if accf = 12 then
      (mmaSteps s pid (srcA w x) (srcB w x)
        (fun ra rb => outer dotL (ra.1.map fun r => lanesOf 8 128 r.1) (rb.1.map fun r => lanesOf 8 128 r.1))
        n 0 (acc.map fun v => sextInt v 32)).map (·.map accSat)
    else if accf = 13 then
      (mmaSteps s pid (srcA w x) (srcB w x)
        (fun ra rb => outer dotI (ra.1.map (rowInts ra.2 x.sa)) (rb.1.map (rowInts rb.2 x.sb)))
        n 0 (acc.map fun v => sextInt v 32)).map (·.map accSat)
    else
      (mmaSteps s pid (srcA w x) (srcB w x)
        (fun ra rb => outer (dotF (xrm x)) (ra.1.map (rowVals ra.2)) (rb.1.map (rowVals rb.2)))
        n 0 (acc.map (accVal accf))).map (·.map (accRound accf (xrm x))))
  pure (s.accPut pid w x out)

/-! ### The other operations -/

/-- A tile without scales (R335). -/
def plainTile (v tag : Nat) : PReg := { v := v, tag := tag, sc := scOne }

def runMzero (s : State) (pid : Nat) (w : Work) (x : XOp) : State :=
  if x.mode.getLsbD 0 then
    s.setTile pid (w.tbase + (x.d.toNat - 48)) (plainTile 0 (accTag x.accf.toNat))
  else s.lsPut pid w.d.toNat (256 * accBytes x.accf.toNat) 0

/-- R347. -/
def runMtrn (s : State) (pid : Nat) (w : Work) (x : XOp) : State :=
  let t := s.tile pid (w.tbase + (x.a.toNat - 48))
  let n := tagWidth t.tag
  let k := 1024 / n
  let out := laneOut ((Ty.ofTag t.tag).getD .none)
  let v := packLanes n ((List.range 16).flatMap fun r => (List.range k).map fun e =>
    out (fld t.v (1024 * (e % 16) + n * (16 * (e / 16) + r)) n))
  s.setTile pid (w.tbase + (x.d.toNat - 48)) (plainTile v t.tag)

/-- One element of MCVT: from an accumulator to the format of a tag. -/
def accConvert (accf tag : Nat) (M : Rm) (sat : Bool) (v : Nat) : Nat :=
  let td := tyOf tag
  if accf = 13 && td.integer then td.wrapInt sat (sextInt v 32)
  else if td.integer then toBits (roundInt M td.lo td.hi (accVal accf v)) td.width
  else if td = .l6 then roundL6 M (accVal accf v)
  else (fmtD td).round M sat (accVal accf v)

/-- R348. -/
def runMcvt (s : State) (pid : Nat) (w : Work) (x : XOp) : Except (WFault × Nat) State := do
  let tag := x.fmt.toNat
  let acc ← (s.accGet pid w x).mapError fun e => (e, 0)
  let row := fun r => packLanes (tagWidth tag) (((acc.drop (16 * r)).take 16).map
    (accConvert x.accf.toNat tag (xrm x) (x.mode.getLsbD 1)))
  pure (s.setTile pid (w.tbase + (x.e.toNat - 48))
    (plainTile (packLanes 1024 ((List.range 16).map row)) tag))

/-- R349. -/
def runMscl (s : State) (pid : Nat) (w : Work) (x : XOp) : Except (WFault × Nat) State := do
  let accf := x.accf.toNat
  let n := accBytes accf
  let acc ← (s.accGet pid w x).mapError fun e => (e, 0)
  let fs ← (if x.mode.getLsbD 1 then
      ((s.lsGet pid w.b.toNat (16 * n)).map (lanesOf (8 * n) 16)).mapError fun e => (e, 0)
    else .ok (List.replicate 16 (w.b.toNat % 2 ^ (8 * n))))
  pure (s.accPut pid w x (acc.zipIdx.map fun e =>
    accRound accf (xrm x) (Val.mul (accVal accf e.1) (accVal accf ((fs[e.2 / 16]?).getD 0)))))

/-- R350. -/
def runMacc (s : State) (pid : Nat) (w : Work) (x : XOp) : Except (WFault × Nat) State := do
  let accf := x.accf.toNat
  let n := accBytes accf
  let acc ← (s.accGet pid w x).mapError fun e => (e, 0)
  let xs ← (if x.ak then
      ((padRows s pid w.padA 0 (n / 4) 16).map fun l =>
        l.flatMap fun v => lanesOf (8 * n) 16 v).mapError fun e => (e, 0)
    else .ok (lanesOf (8 * n) 256 (s.tile pid (w.tbase + (x.a.toNat - 48))).v))
  pure (s.accPut pid w x ((acc.zip xs).map fun e =>
    if accf = 12 || accf = 13 then accSat (sextInt e.1 32 + sextInt e.2 32)
    else accRound accf (xrm x) (Val.add (xrm x) (accVal accf e.1) (accVal accf e.2))))

/-! ### MLD and MST (R343, R344, R494) -/

/-- Source steps of a load, and the source steps that one block column spans. -/
def mldQ (x : XOp) : Nat := if x.var.getLsbD 0 then (if x.fmt = 5 then 2 else 4) else 1
def mldSteps (x : XOp) : Nat := x.kcnt.toNat / mldQ x
def blockSpan (x : XOp) : Nat := if x.fmt = 7 then 1 else 2

/-- The scale entries for a source step, each with its layout byte equal to the expected one. -/
def mldScales (s : State) (pid : Nat) (w : Work) (x : XOp) (j : Nat) : Except WFault (List Nat) :=
  if !x.sc then .ok (List.replicate 16 0x7F)
  else do
    let off := w.e.toNat + 32 * (j / blockSpan x)
    let v ← s.lsGet pid off 32
    let lm := x.mode.toNat % 2
    match (List.range 16).find? fun r => fld v (16 * r + 8) 8 != lm with
    | some r =>
      .error (9, BitVec.ofNat 64 (lm * 2 ^ 28 + fld v (16 * r + 8) 8 * 2 ^ 20 + (off + 2 * r + 1)))
    | none => pure (lanesOf 16 16 v)

/-- The rows of a source step in natural order, with the entries of their scales. -/
def mldStep (s : State) (pid : Nat) (w : Work) (x : XOp) (j : Nat) : Except WFault (List (Nat × Nat)) := do
  let sc ← mldScales s pid w x j
  let rows ← padRows s pid w.padA j 2 16
  let rows := if x.mode.getLsbD 0 then rows.map fun v =>
      packLanes 4 ((List.range 256).map fun k => fld v (4 * layoutPos 1 k) 4) else rows
  pure (rows.zip sc)

def mldAll (s : State) (pid : Nat) (w : Work) (x : XOp) : Nat → Nat →
    Except (WFault × Nat) (List (List (Nat × Nat)))
  | 0, _ => .ok []
  | n + 1, j =>
    match mldStep s pid w x j with
    | .error e => .error (e, j)
    | .ok r => (mldAll s pid w x n (j + 1)).map fun l => r :: l

/-- The tile that a load fills as its number `k`. -/
def mldTile (x : XOp) (steps : List (List (Nat × Nat))) (k : Nat) : PReg :=
  let q := mldQ x
  let rows := (steps[k / q]?).getD []
  if x.var.getLsbD 0 then
    -- a scratchpad's INT4 elements are signed or unsigned by SA (R338)
    let t := if x.fmt = 10 && !x.sa then .n4 else tyOf x.fmt.toNat
    plainTile (packLanes 1024 (rows.map fun r => packLanes 16
      ((((lanesOf t.width (1024 / t.width) r.1).drop (64 * (k % q))).take 64).map fun e =>
        dequant .bf16 t e (r.2 % 256)))) 4
  else { v := packLanes 1024 (rows.map (·.1)), tag := x.fmt.toNat, sc := packLanes 16 (rows.map (·.2)) }

def runMld (s : State) (pid : Nat) (w : Work) (x : XOp) : Except (WFault × Nat) State := do
  let steps ← mldAll s pid w x (mldSteps x) 0
  pure ((List.range x.kcnt.toNat).foldl (fun s k =>
    s.setTile pid (w.tbase + (x.d.toNat - 48) + k) (mldTile x steps k)) s)

def runMst (s : State) (pid : Nat) (w : Work) (x : XOp) : State :=
  (List.range x.kcnt.toNat).foldl (fun s k =>
    let t := s.tile pid (w.tbase + (x.a.toNat - 48) + k)
    let s := (List.range 32).foldl (fun s i =>
      s.lsPut pid (w.padB.line k (i / 2) (i % 2)) 64 (fld t.v (512 * i) 512)) s
    if x.sc then s.lsPut pid (w.e.toNat + 32 * (k / blockSpan x)) 32 t.sc else s) s

/-- Perform an accepted matrix operation, or stop at a fault with nothing written: cause, ctx.tinfo,
K step (R450). -/
def State.runMatrix (s : State) (pid : Nat) (w : Work) : State × Option (Nat × Word × Nat) :=
  let r : Except (WFault × Nat) State := match w.instr with
    | .mld x => runMld s pid w x
    | .mst x => .ok (runMst s pid w x)
    | .mma x => runMma s pid w x
    | .mzero x => .ok (runMzero s pid w x)
    | .mtrn x => .ok (runMtrn s pid w x)
    | .mcvt x => runMcvt s pid w x
    | .mscl x => runMscl s pid w x
    | .macc x => runMacc s pid w x
    | _ => .ok s
  match r with
  | .ok s' => (s', none)
  | .error (e, k) => (s, some (e.1, e.2, k))

end Sys2Proof.Machine
end

