-- ==== Sys2Proof/Machine/Matrix.lean ====
section
/-! DEFINITION. Acceptance of matrix instructions: operands, checks, outcomes, the ramp limiter
(R338–R351, R361, R384, R493, R500, R503). -/

namespace Sys2Proof.Machine
open Sys2Proof

/-- A range of own local store that a matrix operation reaches: its offset as the program gave it,
its hull, and whether it is locked (R340). -/
structure MRange where
  off : Word
  lo : Nat
  len : Nat
  lock : Bool := true
deriving DecidableEq, Repr

/-- What a matrix instruction names: an encoding that fails (01h); its tiles in the order of R493 with
the tags they may have (none: any); values with their alignments; ranges; the first tile it writes and
the tag. -/
structure XPlan where
  bad : Bool := false
  tiles : List (Spec × Option (List Nat)) := []
  aligns : List (Word × Nat) := []
  ranges : List MRange := []
  dreg : Option Spec := none
  dtag : Nat := 0
deriving DecidableEq, Repr

/-! ### Tags (R337, R338, R493) -/

/-- Tiles that an accepted operation writes: from `dreg`, as many as it fills. -/
def Work.writesTile (w : Work) (r : Nat) : Bool :=
  match w.dreg with
  | some d => d ≤ r && r < d + (match w.instr with | .mld x => x.kcnt.toNat | _ => 1)
  | none => false

/-- The tag that a tile holds once the accepted operations have run (R340). -/
def Core.ttag (c : Core) (r : Nat) : Nat :=
  c.mats.foldl (fun t w => if w.writesTile r then w.dtag else t) (c.tregs.get r {}).tag

/-- The first tile whose tag fails, with its specifier and the tag found. -/
def State.badTile (s : State) : List (Spec × Option (List Nat)) → Option Word
  | [] => none
  | (d, ok) :: l =>
    match s.me.pool d with
    | none => some (tagInfo d 15)
    | some r =>
      let g := s.myCore.ttag r
      match ok with
      | some ok => if ok.contains g then State.badTile s l else some (tagInfo d g)
      | none => State.badTile s l

/-- The tags with the signedness of an operand bit: 8 and 10 need 1, 9 and 11 need 0, all others 0. -/
def signOk (sg : Bool) (tag : Nat) : Bool := sg == (tag == 8 || tag == 10)

/-- The tags that an MMA accepts of A, which is T, and of B, in one row of R140 and one width. -/
def mmaTagsA (x : XOp) : List Nat := [x.fmt.toNat].filter (signOk x.sa)
def mmaTagsB (x : XOp) : List Nat :=
  ((List.range 13).tail.filter fun t => accOfTag t == x.accf.toNat && tagWidth t == tagWidth x.fmt.toNat).filter
    (signOk x.sb)

/-! ### Parts of plans -/

def steps (d : Spec) (n : Nat) : List Spec := (List.range n).map fun k => d + BitVec.ofNat 6 k

/-- An operand as a plan's part: `n` steps from a pair, or tiles with the tags they may have. -/
def padPlan (G : Spec → Word) (d : Spec) (n m : Nat) : XPlan :=
  let p : Pad := ⟨G d, G (d + 1)⟩
  let h := p.hull n m
  { bad := fld p.desc.toNat 36 28 != 0
    aligns := [(p.base, 64), (BitVec.ofNat 64 p.rp, 64), (BitVec.ofNat 64 p.tp, 64)]
    ranges := [{ off := p.base, lo := h.1, len := h.2 }] }

def tilePlan (d : Spec) (n : Nat) (ok : List Nat) : XPlan := { tiles := (steps d n).map fun t => (t, some ok) }

/-- The accumulator of R337; `any`: its old tag is not checked (R346). -/
def accPlan (G : Spec → Word) (x : XOp) (any : Bool) : XPlan :=
  if x.mode.getLsbD 0 then
    { tiles := [(x.d, if any then none else some [accTag x.accf.toNat])]
      dreg := some x.d, dtag := accTag x.accf.toNat }
  else
    let a := G x.d
    { aligns := [(a, 64)], ranges := [{ off := a, lo := a.toNat, len := 256 * accBytes x.accf.toNat }] }

/-- The scale base of .sc (R343): a range that is checked and not locked. -/
def scPlan (G : Spec → Word) (x : XOp) (n : Nat) : XPlan :=
  if !x.sc then {}
  else
    let a := G x.e
    { aligns := [(a, 32)]
      ranges := [{ off := a, lo := a.toNat, len := 32 * ((n - 1) / blockSpan x + 1), lock := false }] }

/-- Two parts, the first reported first. -/
def XPlan.and (p q : XPlan) : XPlan :=
  { bad := p.bad || q.bad, tiles := p.tiles ++ q.tiles, aligns := p.aligns ++ q.aligns
    ranges := p.ranges ++ q.ranges, dreg := p.dreg.or q.dreg
    dtag := if p.dreg.isSome then p.dtag else q.dtag }

/-! ### The ramp limiter (R384) -/

/-- Units of the reservations that stand in a window. -/
def Zone.reserved (z : Zone) : Nat := ((z.refused.filter (·.reserved)).map (·.units)).sum

/-- What names an MMA among those that its core was refused (R384): its context and IP, and the chain of an image.
DEDUCED, log entry 121. -/
def Work.op (w : Work) : Nat :=
  w.ip.toNat * 16 + w.ctx + (match w.chain with
    | some h => 2 ^ 68 * (h + 1)
    | none => 0)

/-- The limiter's test of an MMA of `u` units of a domain from a core of the zone, which `op` names: the zone after
it, and whether the MMA is admitted. A core keeps its place while one that it was refused has not been admitted. -/
def Zone.grant (z : Zone) (pid dom u op : Nat) : Zone × Bool :=
  let mine := (z.refused.filter fun r => r.pid == pid && r.reserved).map (·.units)
  let q := z.r + z.reserved - mine.sum
  if 0 < q && z.act + z.rup.toNat < q + u then
    let l := if z.refused.any (·.pid == pid) then
        z.refused.map fun r =>
          if r.pid == pid then { r with units := u, reserved := false, ops := setAdd r.ops op } else r
      else z.refused ++ [{ pid := pid, units := u, reserved := false, ops := [op] }]
    ({ z with refused := l, held := true }, false)
  else
    let l := z.refused.map fun r =>
      if r.pid == pid then { r with reserved := false, ops := setDel r.ops op } else r
    ({ z with r := z.r + u, units := z.units.put dom (z.units.get dom 0 + u)
              refused := l.filter fun r => !(r.pid == pid && r.ops.isEmpty) }, true)

/-! ### Acceptance (R339, R340) -/

/-- A lock of sweeps, copy records or CLCK locks keeps matrix work out. `own`: whose CLCK locks do not
count; `skip`: indices that do not count. -/
def Core.matLocked (c : Core) (own : Option Nat) (skip : List Nat) (a n : Nat) : Bool :=
  c.locks.any fun e => e.2.kind != 1 && e.2.ls && overlap e.2.base e.2.len a n &&
    !(e.2.kind == 3 && some e.2.ctx == own) && !skip.contains e.1

/-- The units of the limiter's count: K steps of an MMA. -/
def mmaUnits : Instr → Nat
  | .mma x => x.kcnt.toNat
  | _ => 0

/-- How an array answers. -/
inductive Accept where
  | ok (s : State)
  | busy (reason : Nat)
  | withheld (s : State)
deriving DecidableEq, Repr

/-- The tests of R339 for work `w` with plan `p` on a core, and acceptance. -/
def State.offerWork (s : State) (pid : Nat) (w : Work) (p : XPlan) (own : Option Nat) (skip : List Nat) :
    Accept :=
  let c := s.core pid
  let locks := p.ranges.filter (·.lock)
  if c.sweeps.any fun v => w.tregs.any v.tregs.contains then .busy 3
  else if locks.any fun l => c.matLocked own skip l.lo l.len then .busy 4
  else if c.freeLocks < locks.length then .busy 10
  else if 4 ≤ c.mats.length then .busy 2
  else
    let z := zoneOf pid
    let u := mmaUnits w.instr
    let r := if u = 0 then (s.zone z, true) else (s.zone z).grant pid w.dom u w.op
    let s := s.setZone z r.1
    if !r.2 then .withheld s
    else
      let c := c.lockWork 1 w.ctx w.id (locks.map fun l => (true, l.lo, l.len))
      .ok { s.setCore pid { c with mats := c.mats ++ [w] } with nextId := s.nextId + 1 }

/-- The range leaves own local store. -/
def MRange.outside (r : MRange) : Bool := 2 ^ 20 ≤ r.off.toNat || 2 ^ 20 < r.lo + r.len

/-- Work as an operation names it: its registers as `G` gives them. -/
def workOf (s : State) (i : Instr) (x : XOp) (p : XPlan) (G : Spec → Word) (k gen : Nat) (ip cls : Word)
    (c : Ctx) (dom : Nat) : Work :=
  { id := s.nextId, instr := i, ctx := k, gen := gen, ip := ip, cls := cls, d := G x.d, a := G x.a
    b := G x.b, e := G x.e, a2 := G (x.a + 1), b2 := G (x.b + 1), vbase := c.vbase, tbase := c.tbase
    dom := dom, vregs := [], tregs := p.tiles.filterMap fun t => c.pool t.1
    dreg := p.dreg.bind c.pool, dtag := p.dtag }

/-- The checks of R493 and R500 in the order of R503; the tests of R339; acceptance. -/
def State.matrix (s : State) (i : Instr) (x : XOp) (p : XPlan) : State :=
  let c := s.myCore
  let me := s.me
  if p.bad then s.check 1 (slotBits i)
  else match s.badTile p.tiles with
  | some info => s.check 8 info
  | none =>
  match p.aligns.find? fun e => e.1.toNat % e.2 != 0 with
  | some e => s.check 7 e.1
  | none =>
  match p.ranges.find? MRange.outside with
  | some r => s.check 6 r.off
  | none =>
    let w := workOf s i x p s.G s.cur.2 me.gen.toNat s.ip me.top2 me c.dom
    match s.offerWork s.cur.1 w p (some s.cur.2) [] with
    | .ok s1 => s.okay s1
    | .busy r => s.busyV r
    | .withheld s1 => s.refuse s1 7 0 .set 0 (.withheld 0)

/-! ### The instructions -/

/-- The plan of an MMA over registers `G`; of a follow-on image too (R361). -/
def mmaPlan (G : Spec → Word) (x : XOp) : XPlan :=
  let n := x.kcnt.toNat
  (accPlan G x false).and
    ((if x.ak then padPlan G x.a n 2 else tilePlan x.a n (mmaTagsA x)).and
      (if x.bk then padPlan G x.b n 2 else tilePlan x.b n (mmaTagsB x)))

/-- R343. -/
def execMld (x : XOp) (s : State) : Out :=
  guarded x.grd s fun s =>
    let n := mldSteps x
    let dst : XPlan := { tiles := (steps x.d x.kcnt.toNat).map fun t => (t, none), dreg := some x.d
                         dtag := if x.var.getLsbD 0 then 4 else x.fmt.toNat }
    s.matrix (.mld x) x ((dst.and (padPlan s.G x.a n 2)).and (scPlan s.G x n))

/-- R344. -/
def execMst (x : XOp) (s : State) : Out :=
  guarded x.grd s fun s =>
    let n := x.kcnt.toNat
    s.matrix (.mst x) x
      (((tilePlan x.a n ([x.fmt.toNat].filter (signOk x.sa))).and (padPlan s.G x.b n 2)).and (scPlan s.G x n))

/-- R345. -/
def execMma (x : XOp) (s : State) : Out :=
  guarded x.grd s fun s => s.matrix (.mma x) x (mmaPlan s.G x)

/-- R346. -/
def execMzero (x : XOp) (s : State) : Out :=
  guarded x.grd s fun s => s.matrix (.mzero x) x (accPlan s.G x true)

/-- R347: every tag but 0, 7 and 15; it is copied. -/
def execMtrn (x : XOp) (s : State) : Out :=
  guarded x.grd s fun s =>
    let tag := ((s.me.pool x.a).map s.myCore.ttag).getD 0
    s.matrix (.mtrn x) x
      { tiles := [(x.d, none), (x.a, some ([1, 2, 3, 4, 5, 6, 8, 9, 10, 11, 12, 13, 14].filter (signOk x.sa)))]
        dreg := some x.d, dtag := tag }

/-- R348. -/
def execMcvt (x : XOp) (s : State) : Out :=
  guarded x.grd s fun s =>
    let acc := { accPlan s.G x false with dreg := none }
    s.matrix (.mcvt x) x (acc.and { tiles := [(x.e, none)], dreg := some x.e, dtag := x.fmt.toNat })

/-- R349. -/
def execMscl (x : XOp) (s : State) : Out :=
  guarded x.grd s fun s =>
    let b := s.G x.b
    let f : XPlan := if x.mode.getLsbD 1 then
        { aligns := [(b, 64)], ranges := [{ off := b, lo := b.toNat, len := 16 * accBytes x.accf.toNat }] }
      else {}
    s.matrix (.mscl x) x ((accPlan s.G x false).and f)

/-- R350: TP is zero with a pair. -/
def execMacc (x : XOp) (s : State) : Out :=
  guarded x.grd s fun s =>
    let a : XPlan := if x.ak then
        let p := padPlan s.G x.a 1 (accBytes x.accf.toNat / 4)
        { p with bad := p.bad || (Pad.tp ⟨s.G x.a, s.G (x.a + 1)⟩ != 0) }
      else tilePlan x.a 1 ([accTag x.accf.toNat].filter (signOk x.sa))
    s.matrix (.macc x) x ((accPlan s.G x false).and a)

/-- R351. -/
def execMstat (x : XOp) (s : State) : Out :=
  guarded x.grd s fun s =>
    let z := s.zone (zoneOf s.cur.1)
    s.okay (s.setG x.d (BitVec.ofNat 64 (s.myCore.mats.length + (if z.held then 8 else 0))))

end Sys2Proof.Machine
end

