-- ==== Sys2Proof/Machine/Fetch.lean ====
section
/-! DEFINITION. The issue group of a context: its fetch line, the checks of the line word, of a pair
and of an entry, and the slots that are no instruction (R190–R198, R437, R443, R475, R485–R490). -/

namespace Sys2Proof.Machine
open Sys2Proof

/-! ### The line word (R190, R488) -/

def ILine.pairAt (l : ILine) (j : Nat) : Bool := j < 4 && bitAt l.word (10 + j)
def ILine.landAt (l : ILine) (j : Nat) : Bool := bitAt l.word (5 + j)

/-- Two adjacent PAIR bits, or LAND on the second slot of a pair. -/
def ILine.pairFault (l : ILine) : Bool :=
  (List.range 4).any fun j => l.pairAt j && (l.pairAt (j + 1) || l.landAt (j + 1))

/-- KIND or bits [31:16] of the line word are not zero (R487). -/
def lineWordBad (w : Nat) : Bool := fld w 14 18 != 0

/-- Parity of `n` bits. -/
def oddOnes (x : Nat) : Nat → Bool
  | 0 => false
  | n + 1 => bitAt x n != oddOnes x n

/-- Slot `i` with its PAR bit holds an even number of ones (R191). -/
def slotParity (slots : List Nat) (word i : Nat) : Bool := oddOnes ((slots[i]?).getD 0) 96 == bitAt word i

/-- The line word of five slots whose LAND and PAIR bits are given. -/
def lineWordOf (slots : List Nat) (land pairs : Nat) : Nat :=
  pairs * 1024 + land * 32 + ofBits ((List.range 5).map fun i => oddOnes ((slots[i]?).getD 0) 96)

/-! ### Pairs on the raw slots (R197, R488) -/

def opcOf (w : Nat) : Nat := fld w 88 8
/-- The formats M and E, which carry NRA. -/
def hasNra (op : Nat) : Bool :=
  (0x40 ≤ op && op ≤ 0x51 && op != 0x4F) || (0x60 ≤ op && op ≤ 0x69) ||
  (0x70 ≤ op && op ≤ 0x7D && op != 0x77) || (0xC0 ≤ op && op ≤ 0xC5)
def isBranch (w : Nat) : Bool :=
  (0x30 ≤ opcOf w && opcOf w ≤ 0x36) || (hasNra (opcOf w) && fld w 56 2 == 1)
/-- The members that R197 excludes. -/
def unpairable (w : Nat) : Bool :=
  (0x37 ≤ opcOf w && opcOf w ≤ 0x3B) || opcOf w == 0x77 || opcOf w == 0x78 || opcOf w == 0x7E ||
  (0xD0 ≤ opcOf w && opcOf w ≤ 0xDF)

def slotDests (w : Nat) : List Spec :=
  (((decodeSlot w).map destSpecs).getD []).filter fun d => d != 0 && d != 0x38

def pairBad (a b : Nat) : Bool :=
  (0x40 ≤ opcOf a && 0x40 ≤ opcOf b) || (isBranch a && isBranch b) || unpairable a || unpairable b ||
  (slotDests a).any fun d => (slotDests b).contains d

/-! ### The group -/

/-- What stands at the next IP of the executing context. -/
inductive Group where
  /-- no instruction issues -/
  | stop (s : State)
  | one (s : State) (w : Nat)
  | two (s : State) (a b : Nat)
  /-- a pair with one sound member `w`, the second when `second`; the other holds a poisoned word -/
  | half (s : State) (second : Bool) (w : Nat)
deriving DecidableEq, Repr

/-- A poisoned word touches slot `i` (R475): its bytes are 12i to 12i + 11. Word 7 of a line holds the line
word beside half of slot 4: poisoned, its LAND and PAIR bits stand for the other slots as they are.
DESIGN CHOICE, log entry 87. -/
def ILine.slotPoison (l : ILine) (i : Nat) : Bool :=
  bitAt l.poison (12 * i / 8) || bitAt l.poison ((12 * i + 11) / 8)

/-- The next group of the executing context, checked in the order of R443. X is checked again as it enters
a line (R195, R282, R481): the lines that complete after a change of rights are that one alone. A group that
ERET enters at the second slot of a pair issues that slot alone: DESIGN CHOICE, log entry 88. -/
def State.fetchGroup (s : State) : Group :=
  let x := s.me
  let pid := s.cur.1
  let k := s.cur.2
  let ip := x.ip
  let raise := fun (s : State) (cause : Nat) (info : Word) =>
    Group.stop (s.raise pid k { cause := cause, info := info } ip)
  if !ipOk ip then raise (s.setMe { x with entryCheck := false }) 3 ip
  else if x.line != some (lineOf ip) && !s.myCore.allowed (lineOf ip) rX then raise s 6 (lineOf ip)
  else match s.myCore.icache.find? (lineKey s.myCore.dom ip) with
  | none =>
    match x.fetchFail with
    | some (va, cause) =>
      if va = lineOf ip then raise (s.setMe { x with fetchFail := none }) cause va
      else .stop (s.waitFetch pid k ip)
    | none => .stop (s.waitFetch pid k ip)
  | some l =>
    let i := ip.toNat % 8
    let w := (l.slots[i]?).getD 0
    let w' := (l.slots[i + 1]?).getD 0
    if l.pairFault then raise s 4 (lineOf ip)
    else if l.pairAt i && pairBad w w' then raise s 4 (lineOf ip)
    else if x.entryCheck && !l.landAt i then raise (s.setMe { x with entryCheck := false }) 3 ip
    else
      let s := s.setMe { x with entryCheck := false, line := some (lineOf ip) }
      -- poisoned words are no instruction; what is fetched again after ERET may be sound
      let c := s.myCore
      let again := s.setMyCore { c with icache := c.icache.del (lineKey c.dom ip) }
      if !l.pairAt i then (if l.slotPoison i then raise again 0x0E (lineOf ip) else .one s w)
      else match l.slotPoison i, l.slotPoison (i + 1) with
        | false, false => .two s w w'
        | true, true => raise again 0x0E (lineOf ip)
        | true, false => .half again true w'
        | false, true => .half again false w

/-- A slot that is no instruction: 01h (R485). -/
def State.illegal (s : State) (w : Nat) : State := s.check 1 (BitVec.ofNat 64 (w / 2 ^ 32))

/-- The pair at the executing context's IP, before its first member. -/
def State.openPair (s : State) : State := { s with pair := some ⟨s.me, s.me.ip, []⟩ }

/-- The member whose turn it is holds a poisoned word: 0Eh, behind what the checks of the other one find (R443, R475). -/
def State.damagedSlot (s : State) : State := s.finish s (.trap 3 false { cause := 0x0E, info := lineOf s.ip })

/-- A core cycle has ended (R394). -/
def State.tick (s : State) (pid : Nat) : State :=
  let c := s.core pid
  s.setCore pid { c with cyc := c.cyc + 1 }

/-- A slot put into the instruction cache, and everything that a group of
context 0 of core 0 needs to issue from its first slot: a team of one core, the context allocated,
ready, with its window resident, and the line with that slot a landing slot. -/
def State.placeSlot (s : State) (w : Nat) : State :=
  let va : Word := 0x8000000000000000
  let line : ILine := ⟨[w % 2 ^ 96, 0, 0, 0, 0], lineWordOf [w % 2 ^ 96, 0, 0, 0, 0] 31 0, 0⟩
  let c := s.core 0
  let x := c.ctx 0
  let x := { x with live := true, ip := va, wait := none, held := [], stop := none,
                    yielded := none, wlow := x.wbase, entryCheck := false, fetchFail := none
                    line := some (lineOf va) }
  let c := { c with team := some 0, rank := 0, stopped := false, finishing := none,
                    gated := false, migrate := none, posts := [], ctxs := [(0, x)], icache := c.icache.put (lineKey c.dom va) line }
  let t : Team := { grid := 0, number := 0, die := 0, size := 1, map := [0], done := 1 }
  let g : Grid := { queue := 0, pkt := 0, prio := 0, dom := 0, entry := va, arg := 0, ttab := 0,
                    types := [], save := 0, nsave := 0, binds := [], teams := 1, size := 1, dies := 1,
                    next := 1 }
  { s with agenda := [], turn := 0, issue := false, pair := none
           cores := s.cores.put 0 c, teams := s.teams.put 0 t, grids := s.grids.put 0 g }

end Sys2Proof.Machine
end

