-- ==== Sys2Proof/Machine/Csr.lean ====
section
/-! DEFINITION. The system registers (R6, R7, R392–R400, R412–R421): what a read returns, which fields
a write changes. -/

namespace Sys2Proof.Machine
open Sys2Proof

/-! ### Who may (R392) -/

/-- The User column: 0 neither, 1 reads, 2 reads and writes. -/
def csrUser (n : Nat) : Nat :=
  if n ≤ 3 || n = 0x10 || n = 0x10C || n = 0x10F || (0x118 ≤ n && n ≤ 0x11C) then 2
  else if (0x20 ≤ n && n ≤ 0x24) || n = 0x102 || n = 0x122 || (0x200 ≤ n && n ≤ 0x23F) || n = 0x302 ||
      n = 0x303 || (0x340 ≤ n && n ≤ 0x37F) || n = 0x401 || (0x440 ≤ n && n ≤ 0x44F) || 0x500 ≤ n then 0
  else 1

/-! ### Reads -/

/-- A zone of the die by column. -/
def zoneAt (die c : Nat) : Nat := die * 16 + c

def Zone.fctl (z : Zone) : Nat :=
  (if z.evac then 2 ^ 57 else 0) + z.vmin % 256 * 2 ^ 48 + z.valve % 256 * 2 ^ 40 + z.floor.toNat * 2 ^ 24 +
    min z.need 255 * 2 ^ 8 + z.share.toNat
def Zone.fsen (z : Zone) : Nat := min z.flow 65535 * 2 ^ 48 + z.outt.toNat * 2 ^ 32 + z.int.toNat * 2 ^ 16
def Zone.fthr (z : Zone) : Nat := z.otrap.toNat * 2 ^ 32 + z.itrap.toNat * 2 ^ 16 + z.wthr.toNat
def Zone.ramp (z : Zone) : Nat := min z.act 65535 * 2 ^ 32 + z.rdn.toNat * 2 ^ 16 + z.rup.toNat
def Zone.zbud (z : Zone) : Nat := z.nmax.toNat * 2 ^ 36 + z.nmin.toNat * 2 ^ 32 + z.budget.toNat
def Zone.zdraw (z : Zone) : Nat :=
  (if z.spent then 2 ^ 63 else 0) + min z.commit 65535 * 2 ^ 16 + min z.draw 65535

/-- HK of R412. -/
def Power.hk (p : Power) : Nat := ceilDiv (p.grant * 2) 100
def Power.tok (p : Power) : Nat :=
  p.hk * 2 ^ 48 + p.borrowed % 65536 * 2 ^ 32 + p.lent % 65536 * 2 ^ 16 + p.grant % 65536

/-- The available count A (R412). -/
def Power.avail (p : Power) : Int :=
  (p.grant : Int) - p.lent + p.borrowed - p.hk - p.unc.toNat

/-- Clause-stack entries from `i`, four of them. -/
def Ctx.clauses (x : Ctx) (i : Nat) : Nat :=
  ((List.range 4).map fun j => ((x.cls[i + j]?).getD 0).toNat * 2 ^ (16 * j)).sum

/-- ctx. registers, 000h–024h. -/
def Ctx.csr (x : Ctx) (n : Nat) : Nat :=
  match n with
  | 0x00 => x.oc.toNat
  | 0x01 => x.nrip.toNat
  | 0x02 => (if x.budPark then 2 ^ 63 else 0) + (if x.armed then 2 ^ 62 else 0) + x.init.toNat * 65536 +
      x.count.toNat
  | 0x03 => (if x.spinsOff then 2 ^ 63 else 0) + x.spins.toNat
  | 0x04 => x.gen.toNat
  | 0x05 => x.cnum.toNat
  | 0x06 => if x.mode then 1 else 0
  | 0x08 => x.wsb % 2 ^ 20
  | 0x09 => x.wsp % 2 ^ 20
  | 0x0A => x.wsl % 2 ^ 20
  | 0x10 => x.ovf.toNat * 256 + x.cls.length
  | 0x11 => x.clauses 0
  | 0x12 => x.clauses 4
  | 0x20 => x.tip.toNat
  | 0x21 => x.tcause.toNat
  | 0x22 => x.tinfo.toNat
  | 0x23 => x.tsrc.toNat
  | 0x24 => x.tsrcx.toNat
  | _ => 0

/-- The range-lock table (R399). -/
def Core.rlka (c : Core) (i : Nat) : Nat :=
  match c.locks.find? i with
  | some l => 2 ^ 63 + l.kind % 8 * 2 ^ 60 + l.ctx % 16 * 2 ^ 56 + (if l.ls then 2 ^ 55 else 0) +
      (l.len - 1) % 2 ^ 40
  | none => 0
def Core.rlkb (c : Core) (i : Nat) : Nat := ((c.locks.find? i).map (·.base)).getD 0

/-- core. registers, 100h–15Fh and 200h–23Fh. -/
def Core.csr (c : Core) (pid n : Nat) : Nat :=
  if 0x200 ≤ n then
    let e := c.perms.get ((n - 0x200) / 2) {}
    (if n % 2 = 0 then e.w0 else e.w1).toNat
  else if 0x150 ≤ n then c.rlka (n - 0x150)
  else if 0x140 ≤ n then c.rlkb (n - 0x140)
  else match n with
  | 0x100 => c.rank
  | 0x101 => c.dom
  | 0x102 => pid
  | 0x103 => c.cyc % 2 ^ 64
  | 0x104 => c.clk
  | 0x105 => toBits c.temp 16
  | 0x106 => c.tthr.toNat
  | 0x108 => c.rrbase
  | 0x109 => c.rrhead
  | 0x10A => c.rrtail
  | 0x10B => c.cnum
  | 0x10C => c.evqBase * 1024 + (if c.evqEn then 1 else 0)
  | 0x10D => c.evqhead
  | 0x10E => c.evqtail
  | 0x10F => c.fobase
  | 0x120 => c.barq
  | 0x121 => c.semsat
  | 0x122 => c.tvec.toNat
  | n =>
    if 0x110 ≤ n && n ≤ 0x117 then c.chn.get (n - 0x110) 0
    else if 0x118 ≤ n && n ≤ 0x11C then (c.mhent.get (n - 0x118) 0).toNat
    else 0

/-- The save slot that a team uses: of its swap, or of the move of one of its ranks (R50, R56). -/
def State.saveSlot (s : State) (t : Team) : Option Nat :=
  t.slot.or (s.cores.findSome? fun e => e.2.reserved.bind fun r => if t.map.contains r.1 then some r.2 else none)

/-- team. and grid. registers, 300h–37Fh. -/
def State.teamCsr (s : State) (pid n : Nat) : Nat :=
  match s.teamOf pid with
  | none => 0
  | some t =>
    let g : Option Grid := s.grids.find? t.grid
    match n with
    | 0x300 => t.size
    | 0x301 => (s.core pid).ph
    | 0x302 => t.done
    | 0x303 => ((s.saveSlot t).bind fun k => g.map fun g => (g.save.toNat + k * saveSize t.size) % 2 ^ 64).getD 0
    | 0x310 => t.number
    | 0x311 => ((g.map Grid.arg).getD 0).toNat
    | 0x312 => ((g.map Grid.ttab).getD 0).toNat
    | 0x313 => (g.map Grid.queue).getD 0
    | n =>
      if 0x340 ≤ n then
        ((List.range 4).map fun k =>
          let r := 4 * (n - 0x340) + k
          if r < t.size then (t.map[r]?).getD 0 % 4096 * 2 ^ (16 * k) else 0).sum
      else 0

/-- die. registers, 400h–479h, and dev. registers. -/
def State.dieCsr (s : State) (die n : Nat) : Nat :=
  let z := fun c => s.zone (zoneAt die (c % 16))
  if 0x500 ≤ n then
    (if n = 0x500 then s.parkbase.toNat else if n = 0x501 then s.parkrsz else s.qdbase.toNat)
  else if 0x470 ≤ n then match n with
    | 0x470 => s.power.tok
    | 0x471 => s.power.unc.toNat
    | 0x472 => s.power.lease.toNat * 2 ^ 32 + s.power.bmax.toNat * 2 ^ 16 + s.power.lmax.toNat
    | 0x473 => s.power.ebase.toNat
    | 0x474 => s.power.ccls0.toNat
    | 0x475 => s.power.ccls1.toNat
    | 0x476 => s.power.pcls0.toNat
    | 0x477 => s.power.pcls1.toNat
    | 0x478 => s.power.hke
    | _ => s.power.idle
  else if 0x460 ≤ n then (z n).zdraw
  else if 0x450 ≤ n then (z n).zbud
  else if 0x440 ≤ n then (z n).ramp
  else if 0x430 ≤ n then (z n).fthr
  else if 0x420 ≤ n then (z n).fsen
  else if 0x410 ≤ n then (z n).fctl
  else if n = 0x400 then s.ticks / 840 % 32768
  else (s.die die).qnt.toNat

/-- The value of a system register, as context `k` of core `pid` reads it. -/
def State.csr (s : State) (pid k n : Nat) : Word :=
  BitVec.ofNat 64 (
    if n < 0x100 then (s.ctx pid k).csr n
    else if n < 0x300 then (s.core pid).csr pid n
    else if n < 0x400 then s.teamCsr pid n
    else s.dieCsr (dieOf pid) n)

/-! ### Writes -/

/-- The RW fields of the ctx. registers; MODE says whether the trap frame is writable (R396). -/
def Ctx.csrPut (x : Ctx) (n : Nat) (v : Word) : Ctx :=
  let w := v.toNat
  match n with
  | 0x00 => { x with oc := BitVec.ofNat 8 w }
  | 0x01 => { x with nrip := v }
  | 0x02 => { x with budPark := bitAt w 63, init := BitVec.ofNat 16 (w / 65536), count := BitVec.ofNat 16 w }
  | 0x03 => { x with spinsOff := bitAt w 63, spins := BitVec.ofNat 32 w }
  | 0x10 => { x with ovf := BitVec.ofNat 16 (w / 256) }
  | 0x20 => { x with tip := v }
  | 0x21 => { x with tcause := BitVec.ofNat 8 w }
  | 0x22 => { x with tinfo := v }
  | 0x23 => { x with tsrc := v }
  | 0x24 => { x with tsrcx := v }
  | _ => x

def Core.csrPut (c : Core) (n : Nat) (v : Word) : Core :=
  let w := v.toNat
  match n with
  | 0x106 => { c with tthr := BitVec.ofNat 16 w }
  | 0x10C => { c with evqEn := bitAt w 0, evqBase := fld w 10 10 }
  | 0x10F => { c with fobase := fld w 6 14 * 64 }
  | n => if 0x118 ≤ n && n ≤ 0x11C then { c with mhent := c.mhent.put (n - 0x118) v } else c

/-- The sum of the budgets of the 128 zones (R415). -/
def State.budgets (s : State) : Nat := ((List.range 128).map fun z => (s.zone z).budget.toNat).sum

/-- SPENT as DRAW and BUDGET have it (R417). -/
def Zone.checkSpent (z : Zone) (ticks : Nat) : Zone :=
  if z.budget.toNat < z.draw then (if z.spent then z else { z with spent := true, spentAt := ticks })
  else if 16 * z.draw ≤ 15 * z.budget.toNat then { z with spent := false }
  else z

/-- A write of pwr.zbud (R415): a field whose write breaks a limit keeps its value. -/
def State.putZbud (s : State) (z : Nat) (v : Word) : State :=
  let w := v.toNat
  let x := s.zone z
  let lo := fld w 32 4
  let hi := fld w 36 4
  let ok := 1 ≤ lo && lo ≤ hi && hi ≤ 8
  let y := if ok then { x with nmin := BitVec.ofNat 4 lo, nmax := BitVec.ofNat 4 hi } else x
  let t := s.setZone z (Zone.checkSpent { y with budget := BitVec.ofNat 16 w } s.ticks)
  if (t.budgets : Int) ≤ s.power.avail then t.holdLifted z else s.setZone z y

/-- A write of cool.fctl (R422): discarded when the effective shares would pass 256. -/
def State.putFctl (s : State) (z : Nat) (v : Word) : State :=
  let w := v.toNat
  let t := s.setZone z { s.zone z with share := BitVec.ofNat 8 w, floor := BitVec.ofNat 8 (w / 2 ^ 24) }
  if t.shares ≤ 256 then t else s

/-- The RW fields of the die. and dev. registers. -/
def State.dieCsrPut (s : State) (die n : Nat) (v : Word) : State :=
  let w := v.toNat
  let z := zoneAt die (n % 16)
  if n = 0x500 then { s with parkbase := v }
  else if n = 0x501 then { s with parkrsz := w % 32 }
  else if n = 0x502 then { s with qdbase := v }
  else if 0x470 ≤ n then
    let p := s.power
    let q := match n with
      | 0x471 => { p with unc := BitVec.ofNat 16 w }
      | 0x472 => { p with lease := BitVec.ofNat 8 (w / 2 ^ 32), bmax := BitVec.ofNat 16 (w / 65536)
                          lmax := BitVec.ofNat 16 w }
      | 0x473 => { p with ebase := v }
      | 0x474 => { p with ccls0 := v }
      | 0x475 => { p with ccls1 := v }
      | 0x476 => { p with pcls0 := v }
      | 0x477 => { p with pcls1 := v }
      | _ => p
    { s with power := q }
  else if 0x460 ≤ n then s
  else if 0x450 ≤ n then s.putZbud z v
  else if 0x440 ≤ n then
    s.setZone z { s.zone z with rdn := BitVec.ofNat 16 (w / 65536), rup := BitVec.ofNat 16 w }
  else if 0x430 ≤ n then
    s.setZone z { s.zone z with otrap := BitVec.ofNat 16 (w / 2 ^ 32)
                                itrap := BitVec.ofNat 16 (w / 65536), wthr := BitVec.ofNat 16 w }
  else if 0x420 ≤ n then s
  else if 0x410 ≤ n then s.putFctl z v
  else if n = 0x401 then s.setDie die { s.die die with qnt := BitVec.ofNat 16 w }
  else s

/-- A write of the RW fields of a system register by context `k` of core `pid` (R6, R7): every other
field keeps its value. -/
def State.csrPut (s : State) (pid k n : Nat) (v : Word) : State :=
  if n < 0x100 then s.setCtx pid k ((s.ctx pid k).csrPut n v)
  else if n < 0x300 then s.setCore pid ((s.core pid).csrPut n v)
  else if n < 0x400 then s
  else s.dieCsrPut (dieOf pid) n v

/-- The RC fields that a read clears: core.semsat (R286). -/
def State.csrClear (s : State) (pid n : Nat) : State :=
  if n = 0x121 then s.setCore pid { s.core pid with semsat := 0 } else s

end Sys2Proof.Machine
end

