-- ==== Sys2Proof/Machine/System.lean ====
section
/-! DEFINITION. The system instructions (R280–R282, R393, R427, R432, R433, R444, R445, R491). -/

namespace Sys2Proof.Machine
open Sys2Proof

/-! ### Register access (R393) -/

/-- R393, R491. -/
def execCsrr (o : IOp) (s : State) : Out :=
  guarded o.grd s fun s =>
    let n := o.imm.toNat
    if !s.me.mode && csrUser n = 0 then s.denied (.csrr o)
    else
      let v := s.csr s.cur.1 s.cur.2 n
      s.retire (((s.csrClear s.cur.1 n).setG o.d v).dirty)

/-- A write of a register as `f` makes of its old value and G(A). core.clk is left unchanged (R419). -/
def State.csrUpdate (s : State) (o : IOp) (i : Instr) (f : Word → Word → Word) : State :=
  let n := o.imm.toNat
  if !s.me.mode && csrUser n ≠ 2 && n ≠ 0x104 then s.denied i
  else
    let v := f (s.csr s.cur.1 s.cur.2 n) (s.G o.a)
    s.retire ((s.csrPut s.cur.1 s.cur.2 n v).dirty)

/-- R393. -/
def execCsrw (o : IOp) (s : State) : Out :=
  guarded o.grd s fun s => s.csrUpdate o (.csrw o) fun _ a => a
/-- R393. -/
def execCsrs (o : IOp) (s : State) : Out :=
  guarded o.grd s fun s => s.csrUpdate o (.csrs o) fun v a => v ||| a
/-- R393. -/
def execCsrc (o : IOp) (s : State) : Out :=
  guarded o.grd s fun s => s.csrUpdate o (.csrc o) fun v a => v &&& ~~~a

/-! ### Traps and returns -/

/-- R445. -/
def execTrap (o : IOp) (s : State) : Out :=
  guarded o.grd s fun s =>
    s.finish s (.trap 3 false { cause := 0x17, tip := some (nextIp s.ip), info := u64 (o.imm.toNat % 65536) })

/-- R444, R490, R491, R495. -/
def execEret (o : ROp) (s : State) : Out :=
  guarded o.grd s fun s =>
    let x := s.me
    if !x.mode then s.denied (.eret o)
    else if x.depth ≠ x.tdepth then
      -- the team fails; ctx.tinfo of this cause is not stated: a free value
      { s with free := s.free + 1 }.check 0x12 (Config.freeValue s.free)
    else if !ipOk x.tip then s.check 3 x.tip
    else s.setMe { x.eret with front := false, mon := { x.mon with dirty := true } }

/-- R433, R449. In system mode the team fails with the cause (R441). -/
def execBkpt (o : IOp) (s : State) : Out :=
  guarded o.grd s fun s =>
    let pid := s.cur.1
    let k := s.cur.2
    let tip := nextIp s.ip
    let code := u64 (o.imm.toNat % 65536)
    if s.me.mode then
      (s.stopRecord pid k).failCore pid 0x16 { cause := 0x16, tip := some tip, info := code } tip false
    else ((s.retire s.dirty).stopRecord pid k).holdBare pid k 0x16 code (some tip)

/-- R432: a stop for each named live context that has none pending. -/
def execDstp (o : ROp) (s : State) : Out :=
  guarded o.grd s fun s =>
    let m := (s.G o.a).toNat % 65536
    let c := s.myCore
    let named := fun k => if m = 0 then k == s.cur.2 else bitAt m k
    let xs := c.ctxs.map fun e =>
      (e.1, if named e.1 && e.2.live && e.2.stop.isNone then { e.2 with stop := some 1 } else e.2)
    s.retire ((s.setMyCore { c with ctxs := xs }).dirty)

/-- R427. -/
def execMarkI (o : IOp) (s : State) : Out :=
  guarded o.grd s fun s =>
    let c := s.myCore
    s.retire ((s.setMyCore (c.record s.traceSz s.ticks (traceWord 1 o.imm.toNat 0 s.cur.2 s.me))).dirty)

/-! ### Pages (R280, R281) -/

/-- The device pages that INVL and WBK name: `n` from the page of `va`, all of them for 0. -/
def inPages (va : Word) (n page : Nat) : Bool :=
  page / 2 ^ 40 == 0x80 && (n == 0 || (decide (va.toNat / 65536 ≤ page) && decide (page < va.toNat / 65536 + n)))

/-- The page of a line of the device window; lines of the host half have none here. -/
def devPage (key : Nat) : Nat := if keyHost key then 0 else key / 1024

/-- The leaf of a page is valid and resident. -/
def State.resident (s : State) (page : Nat) : Bool :=
  match s.walk (BitVec.ofNat 64 (page * 65536)) with
  | .leaf _ e _ => bitAt e 2
  | .fail => false

/-- A core loses every copy of the lines that a test names, owned words and held data included, its fault notes not
(R465); a fill under way delivers no word. -/
def Core.loseLines (c : Core) (f : Nat → Bool) : Core :=
  { c with
    dcache := c.dcache.filter fun e => !f (e.1 / 8)
    kcache := c.kcache.filter fun e => !f (e.1 / 8)
    holds := c.holds.filter fun h => !f h.line || h.fault.isSome
    lineReqs := c.lineReqs.map fun r =>
      if f r.line then
        match r.fill with
        | some (.data ws _ p o) => { r with fill := some (.data ws 0 p o) }
        | _ => r
      else r }

/-- The instruction-cache lines that a test names go. -/
def Core.loseCode (c : Core) (f : Nat → Bool) : Core := { c with icache := c.icache.filter fun e => !f e.1 }

/-- Every slice and core loses the lines that a test names; a modified line is written back first, to the
frame that it was translated to (R280). -/
def State.loseLines (s : State) (f : Nat → Bool) : State :=
  let s := (s.lines.filter fun e => f e.1).foldl (fun s e =>
    let s := if e.2.dirty then s.writeLine e.2 e.2.frame else s
    { s with lines := s.lines.del e.1 }) s
  { s with cores := s.cores.mapVals fun c => c.loseLines f
           owners := s.owners.filter fun e => !f (e.1 / 8) }

/-- What pages that have been brought in end at a core: notes, and the wait of store entries. -/
def Core.pagedIn (c : Core) (f : Nat → Bool) : Core :=
  let again := fun (e : SEntry) => if e.state = 2 && f (pageKey e.dom e.va) then { e with state := 1 } else e
  { c with absents := c.absents.filter (fun e => !f e.page), sbuf := c.sbuf.map again }

/-- The page-in of pages has ended: contexts parked ABSENT on them wake, their notes go, and held
store entries are translated anew (R280). -/
def State.pagedIn (s : State) (f : Nat → Bool) : State :=
  let s := { s with
    pageIns := s.pageIns.filter fun p => !f p
    cores := s.cores.mapVals fun c => c.pagedIn f }
  s.wakeAll fun
    | .page k | .parkPage k | .fetchPage k => f k
    | _ => false

/-- The leaf of a page is valid, and not resident. -/
def State.absentPage (s : State) (page : Nat) : Bool :=
  match s.walk (BitVec.ofNat 64 (page * 65536)) with
  | .leaf _ e _ => !bitAt e 2
  | .fail => false

/-- Lines of pages that a test names follow their page to its frame (R102). -/
def State.reframe (s : State) (f : Nat → Bool) : State :=
  { s with lines := s.lines.map fun e =>
      if !keyHost e.1 && f (devPage e.1) then (e.1, { e.2 with frame := s.lineFrame e.1 e.2 }) else e }

/-- The parked flag of each line of pages brought in that has a watch (R105). -/
def State.parkPages (s : State) (f : Nat → Bool) : State :=
  let keys := s.watches.map (·.1) ++ s.heapAll.map (·.word / 8)
  (keys.filter fun k => !keyHost k && f (devPage k)).foldl (fun s k => s.parkLine k true) s

/-- INVL over pages (R280). Lines of a page that is resident stay, and those in instruction caches stay
unless the page has been evicted (R102, R481). -/
def State.invalidate (s : State) (f : Nat → Bool) (pin : Bool) : State :=
  let s := { s with xlates := s.xlates.filter fun e => !f e.1 }
  let page := fun (g : Nat → Bool) key => !keyHost key && f (devPage key) && g (devPage key)
  let away := page s.absentPage
  let s := s.loseLines (page fun p => !s.resident p)
  let s := { s with cores := s.cores.mapVals fun c => c.loseCode away }
  let s := s.reframe f
  if pin then (s.pagedIn f).parkPages f else s

/-- R280: it completes within its step. -/
def execInvl (o : ROp) (s : State) : Out :=
  guarded o.grd s fun s =>
    let a := s.G o.a
    if !s.me.mode then s.denied (.invl o)
    else if !isDevice a then s.check 6 a
    else s.retire ((s.invalidate (inPages a (fld (s.G o.b).toNat 0 40)) (o.var == 1)).dirty)

/-- R281. -/
def execWbk (o : ROp) (s : State) : Out :=
  guarded o.grd s fun s =>
    let a := s.G o.a
    if !s.me.mode then s.denied (.wbk o)
    else if !isDevice a then s.check 6 a
    else
      let f := inPages a (fld (s.G o.b).toNat 0 40)
      let s1 := (s.lines.filter fun e => !keyHost e.1 && f (devPage e.1) && e.2.dirty).foldl (fun s e =>
        { s.writeBack e.1 e.2 with lines := s.lines.put e.1 { e.2 with dirty := false } }) s
      s.retire s1.dirty

/-- PERM on entry `i` of a core's table: the rights of a mask go (R282). -/
def Core.perm (c : Core) (i m : Nat) : Core :=
  match c.perms.find? i with
  | none => c
  | some e =>
    let w0 := e.w0.toNat
    if bitAt e.w1.toNat 0 && fld w0 5 16 = c.dom then
      { c with perms := c.perms.put i { e with w0 := BitVec.ofNat 64 (setFld w0 0 5 (w0 % 32 &&& (31 - m % 32))) } }
    else c

/-- R282. -/
def execPerm (o : ROp) (s : State) : Out :=
  guarded o.grd s fun s =>
    if !s.me.mode then s.denied (.perm o)
    else s.retire ((s.setMyCore (s.myCore.perm ((s.G o.a).toNat % 32) (s.G o.b).toNat)).dirty)

end Sys2Proof.Machine
end

