-- ==== Sys2Proof/Machine/Issue.lean ====
section
/-! DEFINITION. The issue selector of a core, its register-window transfers, its fetch unit and line
requests, and the ends of the waits of its contexts (R27–R33, R53, R65, R74, R75, R79, R95, R191, R252,
R253, R300, R431, R439, R442, R448, R465–R468, R478, R487, R489, R526). -/

namespace Sys2Proof.Machine
open Sys2Proof

/-! ### The rotation (R28) -/

/-- The contexts in the order in which rotation looks at them. -/
def rotation (rot : Nat) : List Nat := (List.range 16).map fun i => (rot + 1 + i) % 16

/-- A choice of the selector: the context, and the rotation position and floor issue after it. -/
structure Pick where
  k : Nat
  rot : Nat
  floor : Option Nat
deriving DecidableEq, Repr

/-- What rotation chooses: it passes over context 0 once within 15 cycles of its floor issue. -/
def Core.rotate (c : Core) : Option Pick :=
  let order := rotation c.rot
  match order.find? c.inTurn with
  | none => none
  | some 0 =>
    let passes := match c.floor with
      | some f => decide (c.cyc ≤ f + 15)
      | none => false
    match (if passes then order.find? fun k => k != 0 && c.inTurn k else none) with
    | some k => some ⟨k, k, none⟩
    | none => some ⟨0, 0, none⟩
  | some k => some ⟨k, k, c.floor⟩

/-- The choice of this cycle: rotation, unless the floor of context 0 goes before it. -/
def Core.choose (c : Core) : Option Pick :=
  let r := c.rotate
  if c.ready 0 && c.last0 + 16 < c.cyc && (r.map (·.k)) != some 0 then some ⟨0, c.rot, some c.cyc⟩ else r

/-! ### Spills and fills (R32) -/

/-- The oldest resident half goes to ctx.wsp. -/
def State.spillHalf (s : State) (pid k : Nat) : State :=
  let x := s.ctx pid k
  let ws := (List.range 8).map fun j => x.win.get (8 * x.wlow + j) 0
  let s := s.putRecord pid x.wsp ws
  s.setCtx pid k { x with win := x.win.filter (fun e => e.1 / 8 != x.wlow)
                          wlow := x.wlow + 1, wsp := x.wsp + 64 }

/-- The half below the oldest resident one comes back from ctx.wsp − 64. Its words of the window stack read from then on
as they were spilled (R34): DESIGN CHOICE, log entry 113. -/
def State.fillHalf (s : State) (pid k : Nat) : State :=
  let x := s.ctx pid k
  let h := x.wlow - 1
  let at_ := x.wsp - 64
  let win := (List.range 8).foldl (fun (m : KMap Word) j =>
    m.put (8 * h + j) (BitVec.ofNat 64 (s.rd (lsAddr pid (at_ + 8 * j)) 8))) x.win
  s.setCtx pid k { x with win := win, wlow := h, wsp := at_ }

def State.moveHalf (s : State) (pid k : Nat) : State :=
  let x := s.ctx pid k
  if x.spillDue then s.spillHalf pid k else if x.fillDue then s.fillHalf pid k else s

/-! ### The quiet point of DONE (R53, R300, R452) -/

/-- The core's vector, matrix and copy work is complete. A chain that a fault stopped has none. -/
def State.workDone (s : State) (pid : Nat) : Bool :=
  let c := s.core pid
  c.sweeps.isEmpty && c.mats.isEmpty && s.chains.all fun e =>
    !(e.2.team == c.team && e.2.team.isSome && e.2.rank == c.rank) ||
      (e.2.run.isNone && (e.2.stopped || e.2.recs.all fun r => !r.advanced) &&
        s.offers.all fun o => o.chain != e.1)

/-- Stores are acknowledged, reply slots hold no outstanding request, posted messages have been
performed or returned, and the checks of PARKs have been answered. -/
def State.coreQuiet (s : State) (pid : Nat) : Bool :=
  (s.core pid).sbuf.isEmpty && (s.msgs.all fun m => m.pid != pid) &&
    (s.homeReqs.all fun r => !(r.pid == pid && r.chain.isNone)) && (s.replies.all fun r => r.pid != pid) &&
    (List.range 16).all fun k => !(s.ctx pid k).replyDue

/-- DONE's last steps: the done counter, and the team's completion at zero. -/
def State.quietPoint (s : State) (pid : Nat) : State :=
  if s.workDone pid && s.coreQuiet pid then
    let c := s.core pid
    let s := s.setCore pid { c with finishing := some 16 }
    match c.team.bind fun t => (s.teams.find? t).map fun (x : Team) => (t, x) with
    | none => s
    | some (t, x) =>
      let s := { s with teams := s.teams.put t { x with done := x.done - 1 } }
      if x.done - 1 = 0 then s.endTeam t else s
  else s

/-! ### Issue -/

/-- The context is given the next group. -/
def State.issueGroup (s : State) (pid k : Nat) : State := { s with cur := (pid, k), issue := true }

/-- The turn of a context: a stop before its first group, a held trap, or its group. -/
def State.giveTurn (s : State) (pid k : Nat) : State :=
  let x := s.ctx pid k
  if x.entryCheck && x.stop.isSome && k < 11 then s.debugEdge pid k
  else if !x.mode && !x.held.isEmpty then s.deliverHeld pid k
  else s.issueGroup pid k

/-- The core records who issued: the rotation, the floor, and the waits of YIELD (R252). -/
def Core.issued (c : Core) (p : Pick) : Core :=
  let f := fun (e : Nat × Ctx) =>
    (e.1, if e.1 = p.k then { e.2 with yielded := none }
      else { e.2 with yielded := e.2.yielded.map fun y => (y.1, y.2.filter (· != p.k)) })
  { c with ctxs := c.ctxs.map f, rot := p.rot, floor := p.floor
           last0 := if p.k = 0 then c.cyc else c.last0 }

/-- A migration request is due apart from a clause edge (R526). -/
def State.migrationDue (s : State) (pid : Nat) : Bool :=
  let c := s.core pid
  match c.migrate with
  | none => false
  | some t => (s.ticks ≥ t + tMs 1) || c.ctxs.all fun e => !e.2.live || e.2.wait.any (·.on.parked)

/-- Some context has a half to spill or to fill: its transfer goes on (R32). -/
def State.moveFirst (s : State) (pid : Nat) : State :=
  match (List.range 16).find? fun k => (s.ctx pid k).live && ((s.ctx pid k).spillDue || (s.ctx pid k).fillDue) with
  | some k => s.moveHalf pid k
  | none => s

/-- What the selector does in a core cycle. A stopped core issues nothing, but for the spill or fill in progress
(R458). -/
def State.turnOf (s : State) (pid : Nat) : State :=
  let s := if !(s.core pid).stopped && s.migrationDue pid then s.honour pid else s
  let c := s.core pid
  if c.stopped then s.moveFirst pid
  else match c.finishing with
  | some k => if k < 16 then s.quietPoint pid else s
  | none =>
    match c.choose with
    | none => s.moveFirst pid
    | some p =>
      if c.ready p.k then (s.setCore pid (c.issued p)).giveTurn pid p.k
      else (s.setCore pid { c with rot := p.rot, floor := p.floor }).moveHalf pid p.k

/-- One core cycle of the selector; a gated core has none. The count of cycles goes up at its end (R394): where a group
issues, that is after the group. -/
def State.select (s : State) (pid : Nat) : State :=
  if (s.core pid).gated || !isCore pid then s
  else
    let t := s.turnOf pid
    if t.issue then t else t.tick pid

/-- R28. -/
def execIssueSelection (pid : Nat) (s : State) : Out := .next (s.select pid)

/-- R32. -/
def execWindowSpill (pid k : Nat) (s : State) : Out :=
  .next (if (s.ctx pid k).live && (s.ctx pid k).spillDue then s.spillHalf pid k else s)
/-- R32. -/
def execWindowFill (pid k : Nat) (s : State) : Out :=
  .next (if (s.ctx pid k).live && (s.ctx pid k).fillDue then s.fillHalf pid k else s)

/-- R439, R442. -/
def execTrapDelivery (pid k : Nat) (s : State) : Out :=
  let x := s.ctx pid k
  .next (if x.live && !x.mode && !x.held.isEmpty && !(s.core pid).stopped then s.deliverHeld pid k else s)

/-! ### The fetch unit (R73, R191, R468, R475, R487) -/

/-- The eight words of a line as the instruction cache holds them. -/
def ILine.ofWords (ws : List Word) (poison : Nat) : ILine :=
  let n := ofBytes (ws.flatMap fun w => bytesOf w.toNat 8)
  { slots := (List.range 5).map fun i => fld n (96 * i) 96, word := fld n 480 32, poison := poison }

/-- A sound line (R191, R487): the line word, and the parity of every slot. A slot that holds a poisoned
word is reported by its own cause; a poisoned line word gives nothing to check by (R475). -/
def ILine.sound (l : ILine) : Bool :=
  bitAt l.poison 7 || (!lineWordBad l.word && (List.range 5).all fun i => l.slotPoison i || slotParity l.slots l.word i)

/-- The fetch of a line failed for a context with this cause, raised at its group. -/
def State.fetchFails (s : State) (pid k : Nat) (va : Word) (cause : Nat) : State :=
  (s.setCtx pid k { s.ctx pid k with fetchFail := some (va, cause) }).wake pid k

/-- Room for a line in a full instruction cache (R90): any other line goes, a free choice. DESIGN CHOICE,
log entry 15. -/
def State.fetchRoom (s : State) (pid line : Nat) : State :=
  let c := s.core pid
  if c.icache.length < icacheLines || (c.icache.find? line).isSome then s
  else match c.icache[(Config.freeValue s.free).toNat % c.icache.length]? with
  | none => s
  | some e => { s.setCore pid { c with icache := c.icache.del e.1 } with free := s.free + 1 }

/-- The line of key `line` reaches context `k` of a core, which waits for it. -/
def State.fetchLine (s : State) (pid k line : Nat) : State :=
  let c := s.core pid
  let va := keyVa line
  if !((isHost va || isDevice va) && c.allowed va rX) then s.fetchFails pid k va 6
  else match s.xlate c.dom va rX with
  | (s, .fail cause) => (s.refused c.dom va).fetchFails pid k va cause
  | (s, .absent) => (s.refused c.dom va).parkCtx pid k (.fetchPage (pageKey c.dom va))
  | (s, .ok pa) =>
    let (s, l) := s.openLine c.dom va pa
    let il := ILine.ofWords l.ws l.poison
    if !il.sound then s.fetchFails pid k va 2
    else
      let s := s.fetchRoom pid line
      let c := s.core pid
      (s.setCore pid { c with icache := c.icache.put line il }).wakeIf pid (· == .fetch line)

/-- R487. -/
def execLineFetch (pid k : Nat) (s : State) : Out :=
  .next (match (s.ctx pid k).wait with
    | some ⟨.fetch line, _, _⟩ => s.fetchLine pid k line
    | _ => s)

/-! ### Line requests (R74, R75, R101, R163, R263, R465) -/

/-- The home's answer to a request for a line: a read of all of it. Whoever owns words keeps them. -/
def State.lineAnswer (s : State) (pid : Nat) (r : LineReq) : State × Fill :=
  match s.xlate r.dom r.va rR with
  | (s, .fail cause) => (s.refused r.dom r.va, .fault cause)
  | (s, .absent) => (s.refused r.dom r.va, .absent)
  | (s, .ok pa) =>
    let (s, l) := s.openLine r.dom r.va pa
    let own := ofBits ((List.range 8).map fun i => s.owners.find? (r.line * 8 + i) == some pid)
    (s, .data l.ws 255 l.poison own)

/-- The words that a home gave before, on their way for the same line: they arrive as no older than those
it gives now (R153). -/
def LineReq.renew (q : LineReq) (f : Fill) : LineReq :=
  match q.fill, f with
  | some (.data _ v _ _), .data ws _ p own => { q with fill := some (.data ws v p own) }
  | _, _ => q

/-- Words that enter the core cache are also those that a context's hold of the line gives from now on,
where it gives any (R153, rule 3). -/
def Hold.renew (h : Hold) (line : Nat) (ws : List Word) (valid poison : Nat) : Hold :=
  if h.line = line && h.fault.isNone then
    { h with
      data := (List.range 8).map fun i => ((if bitAt valid i then ws else h.data)[i]?).getD 0
      poison := ofBits ((List.range 8).map fun i => bitAt (if bitAt valid i then poison else h.poison) i) }
  else h

/-- R101. -/
def execLineRequest (pid line : Nat) (s : State) : Out :=
  .next (match (s.core pid).lineReqs.find? fun r => r.line == line && r.fill.isNone with
    | none => s
    | some r =>
      let (s, f) := s.lineAnswer pid r
      let c := s.core pid
      s.setCore pid { c with lineReqs := c.lineReqs.map fun q =>
        if q = r then { q with fill := some f } else if q.line = line then q.renew f else q })

/-- Add a hold or a note: one a line and context, at most 8, the oldest released (R75). -/
def addHold (hs : List Hold) (h : Hold) : List Hold :=
  let hs := hs.filter fun e => !(e.ctx == h.ctx && e.line == h.line)
  let mine := hs.filter (·.ctx == h.ctx)
  let hs := if 8 ≤ mine.length then match mine.head? with
    | some old => hs.erase old
    | none => hs
    else hs
  hs ++ [h]

/-- The words of a fill enter a table of copies. -/
def fillWords (m : KMap CWord) (line : Nat) (ws : List Word) (valid poison owned : Nat) : KMap CWord :=
  (List.range 8).foldl (fun m i =>
    let keep := match m.find? (line * 8 + i) with
      | some w => w.owned
      | none => false
    if bitAt valid i && !keep then
      m.put (line * 8 + i) { v := (ws[i]?).getD 0, owned := bitAt owned i, poison := bitAt poison i }
    else m) m

/-- Words of a fill that no later store has made old; the constant path takes no others from a fill that
an ACQ has overtaken (R118). -/
def State.current (s : State) (line : Nat) (ws : List Word) (valid : Nat) : Nat :=
  ofBits ((List.range 8).map fun i => bitAt valid i && s.wordNow (line * 8 + i) == ws[i]?)

/-- A reply reaches the core (R74, R263, R465). A fill that an ACQ has overtaken enters no cache; the
contexts that wait on it still, who executed no ACQ, hold it. -/
def State.fillArrives (s : State) (pid : Nat) (r : LineReq) (f : Fill) : State :=
  let c := s.core pid
  let s := s.setCore pid { c with lineReqs := c.lineReqs.erase r }
  let hold := fun (c : Core) (k : Nat) (ws : List Word) (v p : Nat) (fault : Option Nat) =>
    { c with holds := addHold c.holds { ctx := k, line := r.line, data := ws, valid := v, poison := p
                                        cyc := c.cyc, fault := fault } }
  match f with
  | .data ws v p own =>
    let ldk := r.waiters.any (·.2 == .ldk)
    let s := if r.stale then s else s.cacheRoom pid r.line
    let c := s.core pid
    let c := if ldk then
        { c with kcache := fillWords c.kcache r.line ws (if r.stale then s.current r.line ws v else v) p 0 }
      else c
    let c := if r.stale then c else
      { c with dcache := fillWords c.dcache r.line ws v p own
               holds := c.holds.map fun h => h.renew r.line ws v p }
    s.setCore pid ((r.waiters.filter (·.2 == .ld)).foldl (fun c w => hold c w.1 ws v p none) c)
  | .absent =>
    let page := pageKey r.dom r.va
    let c := s.core pid
    if s.pagePending page then
      let note := fun (c : Core) (w : Nat × Want) =>
        let e : Absent := { ctx := w.1, line := r.line, page := page, host := isHost r.va
                            failed := s.priFailed.contains page, pfx := w.2 == .pfx }
        let c := c.clearAbsent w.1 r.line e.pfx
        { c with absents := c.absents ++ [e] }
      s.setCore pid (r.waiters.foldl note c)
    else s
  | .fault cause =>
    s.setCore pid ((r.waiters.filter (·.2 != .pfx)).foldl (fun c w => hold c w.1 [] 0 0 (some cause)) (s.core pid))

/-- A line or its fault has come: those who wait on this request wake, and those who found no place for
one (R65, R74). -/
def State.fillWakes (s : State) (pid : Nat) (r : LineReq) : State :=
  let s := (r.waiters.map (·.1)).foldl (fun s k => match (s.ctx pid k).wait with
    | some w => if w.on == .line r.line then s.wake pid k else s
    | none => s) s
  s.wakeIf pid (· == .busy 0)

/-- R74. -/
def execLineArrival (pid line : Nat) (s : State) : Out :=
  .next (match (s.core pid).lineReqs.find? fun r => r.line == line && r.fill.isSome with
    | none => s
    | some r => match r.fill with
      | none => s
      | some f => (s.fillArrives pid r f).fillWakes pid r)

/-- R74: past 512 cycles the line may go; the model lets it go. -/
def execHoldWindowEnd (pid k line : Nat) (s : State) : Out :=
  let c := s.core pid
  let mine := fun (h : Hold) => h.ctx == k && h.line == line && h.fault.isNone
  .next (match c.holds.find? mine with
    | none => s
    | some h =>
      if h.cyc + 512 ≤ c.cyc then
        let c := { c with holds := c.holds.filter fun h => !mine h }
        s.setCore pid (if c.holds.any fun h => h.line == line && h.fault.isNone then c else c.dropUnowned line)
      else s)

/-! ### The ends of waits -/

/-- A wait that meets `f` and has lasted: it is cancelled and the context wakes. -/
def State.endWait (s : State) (pid k : Nat) (f : WaitOn → Bool) (lasted : Wait → Bool) : State :=
  match (s.ctx pid k).wait with
  | some w => if f w.on && lasted w then (s.cancelWatches pid k).wake pid k else s
  | none => s

/-- R79. -/
def execMonitorTimeout (pid k : Nat) (s : State) : Out :=
  .next (s.endWait pid k (· == .monitor) fun w => w.cyc + 65536 ≤ (s.core pid).cyc)

/-- R253. -/
def execParkTimeout (pid k : Nat) (s : State) : Out :=
  let c := s.core pid
  .next (match (s.ctx pid k).wait with
    | some ⟨.parkWatch _ t, cyc, _⟩ =>
      if t != 0 && cyc + t ≤ c.cyc then (s.cancelWatches pid k).wake pid k else s
    | _ => s)

/-- R177, R253, R273, R478. -/
def execTimedReexecute (pid k : Nat) (s : State) : Out :=
  .next (s.endWait pid k (fun
    | .timed | .parkTimed _ | .parkAgain => true
    | _ => false) fun w => w.ticks + tUs 16 ≤ s.ticks)

/-- A context waits on a watch at a home that stands in no directory and in no local store: its record is in the park
heap, or lay beyond damage there (R479). -/
def State.waitsInHeap (s : State) (pid k : Nat) : Bool :=
  let mine := fun (w : Watch) => w.pid == pid && w.ctx == k && w.chain.isNone && w.dev.isNone
  (match (s.ctx pid k).wait with
    | some ⟨.word, _, _⟩ | some ⟨.parkWatch _ _, _, _⟩ | some ⟨.monitor, _, _⟩ => true
    | _ => false) &&
  (s.watches.all fun e => !e.2.any mine) && s.cores.all fun e => !e.2.watches.any mine

/-- R478: the instruction executes again. -/
def execParkHeapTimeout (pid k : Nat) (s : State) : Out :=
  .next (match (s.ctx pid k).wait with
    | some w =>
      if s.waitsInHeap pid k && w.cyc + 2 ^ 24 ≤ (s.core pid).cyc then
        let s := s.cancelWatches pid k
        s.setCtx pid k { s.ctx pid k with wait := none, retry := false }
      else s
    | none => s)

/-- R65. -/
def execBusyWakeTimeout (pid k : Nat) (s : State) : Out :=
  .next (s.endWait pid k (· == .busy 0) fun w => w.cyc + 2 ^ 20 ≤ (s.core pid).cyc)

/-- The waits that a not-ready outcome began; ctx.nrip names their instruction. -/
def WaitOn.byOutcome : WaitOn → Bool
  | .line _ | .reply | .word | .far | .timed | .ring | .dispenser | .events | .message | .busy _ | .page _
  | .sem _ | .barrier | .seq _ | .helper | .withheld _ => true
  | _ => false

/-- R448. -/
def execWatchdog (pid k : Nat) (s : State) : Out :=
  .next (match (s.ctx pid k).wait with
    | some w =>
      if w.on.parked && w.cyc + 2 ^ 36 ≤ (s.core pid).cyc && !(s.core pid).stopped then
        let x := s.ctx pid k
        let tip := if w.on.byOutcome then x.nrip else x.ip
        (s.cancelWait pid k).raise pid k { cause := 0x15, info := BitVec.ofNat 64 x.oc.toNat } tip
      else s
    | none => s)

/-- R95, R65. The window's end is fixed by the refresh phase; the step wakes those who wait on it. -/
def execRefreshWindowEnd (die bank : Nat) (s : State) : Out :=
  .next (if bank < 32 then s.cores.foldl (fun s e =>
    if dieOf e.1 = die then s.wakeIf e.1 (· == .busy 5) else s) s else s)

end Sys2Proof.Machine
end

