-- ==== Sys2Proof/Machine/Homes.lean ====
section
/-! DEFINITION. What homes perform of the requests and buffered stores of contexts, and the arrival of
replies (R67, R69, R93, R110, R149, R155, R162, R174, R253, R271, R274, R275, R408, R455, R463, R466,
R469–R471, R475, R483). -/

namespace Sys2Proof.Machine
open Sys2Proof

/-! ### Event records that the core itself posts (R368, R455) -/

/-- The dropped replies not yet reported become one record when the queue has room for it (R455). -/
def State.postDropped (s : State) (pid : Nat) : State :=
  let c := s.core pid
  if c.dropped ≠ 0 && c.posts.isEmpty && c.evqEn && ringCount c.evqhead c.evqtail 64 < 64 then
    let p : Post := { w0 := BitVec.ofNat 64 (c.dropped * 2 ^ 16 + 3), w1 := c.dropAddr }
    (s.setCore pid { c with dropped := 0, posts := [p] }).drainPosts pid 1
  else s

/-- Put what waits into the event queue, as far as it has room. -/
def State.postAll (s : State) (pid : Nat) : State := (s.drainPosts pid 64).postDropped pid

/-! ### Fabric accesses performed here (R174, R175, R408, R483) -/

/-- Perform an access of device `src` at its home here; any failure is a refusal. -/
def State.fabricOp (s : State) (src dom off : Nat) (op : HomeOp) : State × HomeAns :=
  if !s.imported src dom (opNeed op) then (s, .fault 6)
  else match s.homeOp dom (fabricVa off) op with
  | (s1, .fault _) => (s1, .fault 6)
  | r => r

/-! ### Buffered stores (R109, R110, R469–R471) -/

/-- Word 0 of a record of kind 04h. -/
def SEntry.record (e : SEntry) : Word :=
  BitVec.ofNat 64 (e.seq * 2 ^ 32 + e.gen % 256 * 2 ^ 24 + e.ctx % 16 * 2 ^ 20 + e.fe % 4 * 2 ^ 18 +
    e.bmask % 256 * 2 ^ 8 + 4)

/-- The deferred trap of a faulted entry. -/
def SEntry.trap (e : SEntry) (cause : Nat) : Trap :=
  { cause := cause, info := e.va, src := e.ip, srcx := BitVec.ofNat 64 (e.seq * 2 ^ 32) + e.cls }

/-- An entry faults: it is never performed; its record is posted first when the queue is enabled, and
then its trap is held. With no context left to receive it the team fails with 0Ch (R472). -/
def State.faultStore (s : State) (pid : Nat) (e : SEntry) (cause : Nat) : State :=
  let c := s.core pid
  let s := s.setCore pid { c with
    sbuf := c.sbuf.map fun f => if f.seq = e.seq then { f with state := 3, cause := cause } else f }
  if (c.holder e.ctx e.gen).isNone then s.failCore pid 0x0C (e.trap 0x0C) 0 false
  else if c.evqEn then
    (s.postEvent pid { w0 := e.record, w1 := e.data, trap := some (e.ctx, e.gen, e.trap cause) }).postAll pid
  else s.holdTrap pid e.ctx e.gen (e.trap cause)

/-- The cause of a buffered store's failure: 0Dh for an owner check, else 0Ch (R471). -/
def storeCause (c : Nat) : Nat := if c = 0x0D then 0x0D else 0x0C

/-- An earlier store of the context to the word has not been performed, or an earlier operation of its is
still on its way to the home of the word (R110, R149). -/
def State.storeBehind (s : State) (pid : Nat) (e : SEntry) : Bool :=
  (((s.core pid).sbuf.takeWhile (· != e)).any fun f =>
    f.ctx == e.ctx && f.state != 3 && s.homeWord f.va == s.homeWord e.va) ||
  s.homeReqs.any fun r => r.pid == pid && r.ctx == e.ctx && r.gen == e.gen && r.chain.isNone &&
    s.homeWord r.va == s.homeWord e.va && !seqBefore e.seq r.seq

/-- The home of an entry performs it; an entry for another device stays until its answer comes. -/
def State.storeAtHome (s : State) (pid : Nat) (e : SEntry) : State :=
  if isFabric e.va && (s.loopback e.va).isNone then s
  else match s.performStore pid e with
  | (s, .done _) => s.ackStore pid e.seq
  | (s, .absent) =>
    let c := s.core pid
    let state := if isFabric e.va then 1 else 2
    s.setCore pid { c with sbuf := c.sbuf.map fun f => if f.seq = e.seq then { f with state := state } else f }
  | (s, .fault c) => s.faultStore pid e (if isFabric e.va then 0x0C else storeCause c)

/-- R110, R162. -/
def execHomeStorePerform (pid seq : Nat) (s : State) : Out :=
  .next (match (s.core pid).sbuf.find? fun e => e.seq == seq with
    | none => s
    | some e => if e.state = 1 && !s.storeBehind pid e then s.storeAtHome pid e else s)

/-- R469: an entry whose address no longer translates, awaiting acknowledgement or its page. -/
def execStoreEntryFault (pid seq : Nat) (s : State) : Out :=
  .next (match (s.core pid).sbuf.find? fun e => e.seq == seq with
    | none => s
    | some e =>
      if e.state = 3 || isFabric e.va then s
      else match s.xlate e.dom e.va (if e.fe = 0 then rW else rF) with
      | (s1, .fail c) => s1.faultStore pid e (storeCause c)
      | _ => s)

/-! ### Requests at their homes -/

/-- A store of the context that the request must follow is still buffered (R149). -/
def State.requestBehind (s : State) (r : HomeReq) : Bool :=
  (s.core r.pid).sbuf.any fun e => e.ctx == r.ctx && e.gen == r.gen && e.state != 3 &&
    s.homeWord e.va == s.homeWord r.va && seqBefore e.seq r.seq

/-- The context of a request still stands in the generation that sent it: END, MRET and DONE cancel the
watch that a request on its way asks for (R116, R300). -/
def State.sender (s : State) (pid k gen : Nat) : Bool := (s.ctx pid k).live && (s.ctx pid k).gen.toNat == gen

/-- The check of a PARK is still the one that its context waits for (R253). -/
def State.asks (s : State) (pid k gen id : Nat) : Bool := s.sender pid k gen && (s.ctx pid k).asked == some id

def isPark : HomeOp → Bool
  | .park _ => true
  | _ => false

/-- The answer to a request, with the watch it asked for registered in the same step (R69). -/
def State.answerOf (s : State) (r : HomeReq) (va : Word) (heapOk : Bool) (a : HomeAns) : State × Answer :=
  match a with
  | .absent => (s, .absent (isHost va))
  | .fault c => (s, .trap c r.va)
  | .done (.ok v) => (s, .ok v)
  | .done .poisoned => (s, .trap 0x0E (wordAddr r.va))
  | .done .unready =>
    if r.park && s.sender r.pid r.ctx r.gen && (!isPark r.op || s.asks r.pid r.ctx r.gen r.id) then
      let (s, ok) := s.addWatch (watchOf r.op (wordKey r.dom va) r.pid r.ctx r.gen) heapOk r.front
      (s, .unready ok)
    else (s, .unready false)

/-- A request leaves its home answered; a REL that waited on it may go on (R165). -/
def State.reply (s : State) (r : HomeReq) (a : Answer) : State :=
  let m : ReplyMsg := { id := r.id, pid := r.pid, ctx := r.ctx, gen := r.gen, addr := r.va, ans := a
                        park := isPark r.op }
  let s := { s with homeReqs := s.homeReqs.erase r, replies := s.replies ++ [m] }
  s.wakeIf r.pid (· == .busy 11)

/-- A home of this device performs a request. One whose page is not resident at a looped-back fabric
address waits there. -/
def State.serve (s : State) (r : HomeReq) : State :=
  if r.chain.isSome || s.requestBehind r then s
  else if isFabric r.va then
    match s.loopback r.va with
    | none => s
    | some off => match s.fabricOp s.fabn.toNat r.dom off r.op with
      | (s, .absent) => s
      | (s, a) => let (s, ans) := s.answerOf r (fabricVa off) false a; s.reply r ans
  else
    let (s, a) := s.homeOp r.dom r.va r.op
    let (s, ans) := s.answerOf r r.va true a
    s.reply r ans

/-- The request of a number, when its operation meets a test. -/
def State.serveIf (s : State) (id : Nat) (f : HomeOp → Bool) : State :=
  match s.homeReqs.find? fun r => r.id == id with
  | none => s
  | some r => if f r.op then s.serve r else s

def isAtomic : HomeOp → Bool
  | .atomic _ _ _ _ => true
  | _ => false
def isRsta : HomeOp → Bool
  | .rsta _ _ => true
  | _ => false

/-- R253, R271: the full/empty forms, the check of PARK, and a looped-back fabric load. -/
def execHomeFullEmptyStep (id : Nat) (s : State) : Out :=
  .next (s.serveIf id fun op => !isAtomic op && !isRsta op)
/-- R274. -/
def execHomeAtomicStep (id : Nat) (s : State) : Out := .next (s.serveIf id isAtomic)
/-- R93, R275. -/
def execNearCacheAdd (id : Nat) (s : State) : Out := .next (s.serveIf id isRsta)

/-! ### Replies -/

/-- The answer to the check of a PARK (R253). The timeout runs from the cycle in which the answer parks the context:
DESIGN CHOICE, log entry 111. -/
def State.parkAnswer (s : State) (m : ReplyMsg) : State :=
  let pid := m.pid
  let k := m.ctx
  let x := s.ctx pid k
  match x.wait with
  | some ⟨.parkAsk t, _, _⟩ =>
    if !s.asks pid k m.gen m.id then s
    else
      let c := s.core pid
      let line := lineKey c.dom m.addr
      let s := s.setCtx pid k { x with asked := none }
      match m.ans with
      | .ok _ => s.setCtx pid k { x with asked := none, wait := none, ip := nextIp x.ip, retry := false }
      | .unready true =>
        let s1 := s.setCtx pid k { x with asked := none, rung := none }
        if x.rung.isSome then (s1.parkCtx pid k (.parkTimed line)).wake pid k
        else s1.parkCtx pid k (.parkWatch line t)
      | .unready false =>
        -- no entry of a rank's watch table (R253), or no record of the park heap (R478)
        s.parkCtx pid k (if isHost m.addr || isDevice m.addr then .parkAgain else .parkTimed line)
      | .absent _ =>
        let page := pageKey c.dom m.addr
        if s.pagePending page then s.parkCtx pid k (.parkPage page)
        else s.setCtx pid k { x with asked := none, wait := none, retry := false }
      | .trap cause info =>
        (s.setCtx pid k { x with asked := none, wait := none }).raise pid k { cause := cause, info := info } x.ip
  | _ => s

/-- A reply reaches the slot that its request holds; any other is dropped and counted (R67, R455). -/
def State.slotAnswer (s : State) (m : ReplyMsg) : State :=
  let c := s.core m.pid
  let x := c.ctx m.ctx
  match x.slot with
  | some sl =>
    if sl.id = m.id && sl.gen = m.gen && sl.ans.isNone then
      -- the core's copy of the word goes (R155)
      let c := if isHost m.addr || isDevice m.addr then c.dropWord (wordKey c.dom m.addr) true else c
      let s := s.setCore m.pid (c.setCtx m.ctx { x with slot := some { sl with ans := some m.ans } })
      match x.wait with
      | some w =>
        if w.on == .reply || w.on == .busy 13 || w.on == .ending true || w.on == .ending false then
          s.wake m.pid m.ctx
        else s
      | none => s
    else s.setCore m.pid { c with dropped := min (c.dropped + 1) 65535, dropAddr := m.addr }
  | none => s.setCore m.pid { c with dropped := min (c.dropped + 1) 65535, dropAddr := m.addr }

/-- R67, R155, R455. -/
def execReplyArrival (id : Nat) (s : State) : Out :=
  .next (match s.replies.find? fun m => m.id == id with
    | none => s
    | some m =>
      let s := { s with replies := s.replies.erase m }
      if m.park then s.parkAnswer m else s.slotAnswer m)

end Sys2Proof.Machine
end

