-- ==== Sys2Proof/Machine/Messages.lean ====
section
/-! DEFINITION. Messages at their destinations: the hardware-executed kinds, the barrier unit, the
handlers of software messages, and returns (R39, R158, R159, R253, R286, R292–R298, R451–R453). -/

namespace Sys2Proof.Machine
open Sys2Proof

/-! ### Where a message goes, and when -/

/-- A message that its core sent earlier to the same rank still waits to be performed or taken: messages of
one source arrive in the order in which they were sent (R158, R161, R292). Replies of handlers travel on a
network of their own, and arrivals go to the barrier unit (R290, R296). -/
def State.msgBehind (s : State) (m : Msg) : Bool :=
  (s.msgs.takeWhile fun n => n.id != m.id).any fun n =>
    n.pid == m.pid && n.team == m.team && n.rank == m.rank && n.isReply == m.isReply &&
      n.isArrival == m.isArrival && n.returned.isNone

/-- The hardware-executed message of a number that may be performed now. -/
def State.nextMsg (s : State) (id : Nat) : Option Msg :=
  match s.msgs.find? fun m => m.id == id with
  | none => none
  | some m => if m.isSoftware || m.returned.isSome || s.msgBehind m then none else some m

/-- A message has been taken at its destination `pid`; those who wait on the
sender's outbound queue or on FENCE wake (R65, R161). -/
def State.taken (s : State) (m : Msg) (pid : Nat) : State :=
  let c := s.core pid
  let s := { s.setCore pid (c.received m) with msgs := s.msgs.erase m }
  s.wakeIf m.pid fun w => w == .busy 9 || w == .busy 11

/-- The destination cannot perform a message: it goes back (R451). -/
def State.sendBack (s : State) (m : Msg) (pid cause reason : Nat) : State :=
  let c := s.core pid
  let s := s.setCore pid (c.received m)
  { s with msgs := s.msgs.map fun n => if n = m then { n with returned := some (cause, reason) } else n }

/-- The bytes of an access message are locked at their owner (R159). -/
def State.msgLocked (s : State) (pid off n : Nat) : Bool := (s.core pid).locked none true off n

/-- The address that an access message carries. -/
def Msg.va (m : Msg) (off : Nat) : Word := BitVec.ofNat 64 (0x90 * 2 ^ 56 + m.rank * 2 ^ 20 + off)

/-! ### Access messages and PARK -/

/-- The owner performs an access, with the watch it asks for (R273), and answers. -/
def State.ownerStep (s : State) (m : Msg) (pid : Nat) (op : HomeOp) (off : Nat) (park isPark : Bool) : State :=
  let (s, r) := s.lsOp pid off op
  let (s, ans) : State × Answer := match r with
    | .ok v => (s, .ok v)
    | .poisoned => (s, .trap 0x0E (wordAddr (m.va off)))
    | .unready =>
      if park && s.sender m.pid m.ctx m.gen && (!isPark || s.asks m.pid m.ctx m.gen m.id) then
        let (s, ok) := s.addLsWatch pid (watchOf op (lsWord pid off) m.pid m.ctx m.gen) m.front
        (s, .unready ok)
      else (s, .unready false)
  let q : ReplyMsg := { id := m.id, pid := m.pid, ctx := m.ctx, gen := m.gen, addr := m.va off
                        park := isPark, ans := ans }
  { s.taken m pid with replies := s.replies ++ [q] }

/-- Perform an access message whose operation meets a test; one to a done core is returned; one that a
lock holds waits. -/
def State.accessMsg (s : State) (id : Nat) (f : HomeOp → Bool) : State :=
  match s.nextMsg id with
  | none => s
  | some m => match s.msgCore m with
    | none => s
    | some pid =>
      let go := fun (op : HomeOp) (off n : Nat) (park isPark : Bool) =>
        if (s.core pid).finishing.isSome then s.sendBack m pid 0x0F 0
        else if s.msgLocked pid off n then s
        else s.ownerStep m pid op off park isPark
      match m.kind with
      | .access op off park => if f op then go op off (match op with
          | .load t _ | .store t _ _ | .atomic _ t _ _ | .rsta t _ => elemBytes t
          | _ => 8) park false else s
      | .parkCheck off v => if f (.park v) then go (.park v) off 8 true true else s
      | _ => s

def isLoad : HomeOp → Bool
  | .load _ _ => true
  | _ => false
def isStore : HomeOp → Bool
  | .store _ _ _ => true
  | _ => false
/-- R88, R296. -/
def execLoadMessage (id : Nat) (s : State) : Out := .next (s.accessMsg id isLoad)
/-- R88, R296. -/
def execStoreMessage (id : Nat) (s : State) : Out := .next (s.accessMsg id isStore)
/-- R271, R273, R296. -/
def execFullEmptyMessage (id : Nat) (s : State) : Out :=
  .next (s.accessMsg id fun op => !isLoad op && !isStore op && !isPark op && !isAtomic op && !isRsta op)
/-- R274, R296. -/
def execAtomicMessage (id : Nat) (s : State) : Out := .next (s.accessMsg id isAtomic)
/-- R253. -/
def execParkMessage (id : Nat) (s : State) : Out := .next (s.accessMsg id isPark)

/-! ### Posted kinds -/

/-- A posted message of a number with its destination core. -/
def State.postedMsg (s : State) (id : Nat) (k : Msg → Nat → State) : State :=
  match s.nextMsg id with
  | none => s
  | some m => match s.msgCore m with
    | none => s
    | some pid => k m pid

/-- R286. -/
def execSignalMessage (id : Nat) (s : State) : Out :=
  .next (s.postedMsg id fun m pid => match m.kind with
    | .signal i inc =>
      if (s.core pid).finishing.isSome then s.sendBack m pid 0x0F 0
      else (s.taken m pid).signal pid i inc
    | _ => s)

/-- R39, R454, R476, R498. -/
def execDecrementMessage (id : Nat) (s : State) : Out :=
  .next (s.postedMsg id fun m pid => match m.kind with
    | .decrement off =>
      let dc := fld (s.rd (lsAddr pid (off + 16)) 8) 0 20
      if (s.core pid).finishing.isSome then s.sendBack m pid 0x0F 0
      else if s.msgLocked pid off 32 || s.msgLocked pid dc 8 then s
      else match s.decrement pid off m.ip m.cls with
      | .done s1 => s1.taken m pid
      | .malformed _ => s.sendBack m pid 0x10 5
      | .poisoned s1 => s1.sendBack m pid 0x10 4
    | _ => s)

/-- The barrier unit counts an arrival; the phase ends with the last one (R297). -/
def Team.arrive (t : Team) (phase : Nat) : Team :=
  let t := if phase = t.ph then { t with arr0 := t.arr0 + 1 } else { t with arr1 := t.arr1 + 1 }
  if t.arr0 = t.size then { t with ph := (t.ph + 1) % 65536, arr0 := t.arr1, arr1 := 0 } else t

/-- R297. -/
def execArrivalMessage (id : Nat) (s : State) : Out :=
  .next (s.postedMsg id fun m pid => match m.kind with
    | .arrival phase =>
      if (s.core pid).finishing.isSome then s.sendBack m pid 0x0F 0
      else
      let s := s.taken m pid
      match s.teams.find? m.team with
      | some t => { s with teams := s.teams.put m.team (Team.arrive t phase) }
      | none => s
    | _ => s)

/-- R65, R298. -/
def execBarrierPhaseArrival (pid : Nat) (s : State) : Out :=
  .next (match s.teamOf pid with
    | none => s
    | some t =>
      if t.ph = (s.core pid).ph || t.swapped then s
      else (s.setCore pid { s.core pid with ph := t.ph }).wakeIf pid fun w => w == .barrier || w == .busy 14)

/-! ### Handlers (R293) -/

/-- A software message is for the handler context `k`. -/
def Msg.forHandler (m : Msg) (k : Nat) : Bool :=
  match m.kind with
  | .software rep cls _ _ _ => if rep then k == 15 else k == 11 + cls
  | _ => false

/-- The next message of a handler context of a core. -/
def State.queued (s : State) (pid k : Nat) : Option Msg :=
  s.msgs.find? fun m => m.forHandler k && m.returned.isNone && s.msgCore m == some pid && !s.msgBehind m

/-- A handling begins: what R293 resets, and the depth of R495; the older halves of the window, whose
stack is empty again, are gone. -/
def Ctx.handle (x : Ctx) (entry : Word) (m : Msg) : Ctx :=
  { x with live := true, ip := entry, oc := 0, count := x.init, cls := [], wsp := x.wsb, wlow := x.wbase
           depth := 0, gen := x.gen + 1, msg := some m, wait := none, retry := false, front := false
           yielded := none, fetchFail := none, line := none, entryCheck := true
           win := x.win.filter (fun e => x.wbase ≤ e.1 / 8) }

/-- R27, R293, R452. -/
def execMessageHandlingStart (pid k : Nat) (s : State) : Out :=
  .next (match s.queued pid k with
    | none => s
    | some m =>
      let c := s.core pid
      if c.finishing.isSome then s.sendBack m pid 0x0F 0
      else if (c.ctx k).live || c.stopped then s
      else
        let entry := c.mhent.get (k - 11) 0
        if entry = 0 then s.sendBack m pid 0x10 6
        else
          let s := s.taken m pid
          let s := s.setCtx pid k ((s.ctx pid k).handle entry m)
          s.wakeIf pid (· == .message))

/-! ### Returns (R451–R453) -/

/-- MKIND, TAG and OFFSET of a message. -/
def Msg.parts (m : Msg) : Nat × Nat × Nat :=
  match m.kind with
  | .access op off _ => ((match op with
      | .load _ _ => 0
      | .store _ _ _ => 1
      | .atomic _ _ _ _ | .rsta _ _ => 3
      | _ => 2), 0, off)
  | .parkCheck off _ => (9, 0, off)
  | .signal i _ => (4, 0, i)
  | .decrement off => (5, 0, off)
  | .arrival _ => (6, 0, 0)
  | .software rep _ tag _ _ => (if rep then 8 else 7, tag, 0)

def Msg.info (m : Msg) (reason : Nat) : Word :=
  let (kind, tag, off) := m.parts
  msgInfo reason kind m.gen tag m.ctx m.rank off

/-- R451, R452: a return to a core whose contexts have all ended fails its team, whatever its kind. -/
def execMessageReturn (id : Nat) (s : State) : Out :=
  .next (match s.msgs.find? fun m => m.id == id with
    | none => s
    | some m => match m.returned with
      | none => s
      | some (cause, reason) =>
        let s := { s with msgs := s.msgs.erase m }
        let s := s.wakeIf m.pid fun w => w == .busy 9 || w == .busy 11
        let info := m.info reason
        let q := fun (off : Nat) (park : Bool) =>
          { id := m.id, pid := m.pid, ctx := m.ctx, gen := m.gen, addr := m.va off, park := park
            ans := .trap cause info : ReplyMsg }
        let held := s.holdTrap m.pid m.ctx m.gen { cause := cause, info := info, src := m.ip, srcx := m.cls }
        if (s.core m.pid).finishing.isSome then held
        else match m.kind with
        | .access _ off _ => s.slotAnswer (q off false)
        | .parkCheck off _ => s.parkAnswer (q off true)
        | _ => held)

end Sys2Proof.Machine
end

