-- ==== Sys2Proof/Machine/Vector.lean ====
section
/-! DEFINITION. The vector sweeps (R309–R334): what each names, for its checks, locks and acceptance.
What an accepted sweep does is in Sys2Proof/Machine/VectorRun.lean. -/

namespace Sys2Proof.Machine
open Sys2Proof

/-- A memory operand that is contiguous and not swept: `n` bytes. -/
def State.block (s : State) (sp : Spec) (n align : Nat) : Span :=
  { x0 := s.G sp, step := 0, cnt := 1, bytes := n, align := align }

/-- The base of a table of R328. -/
def State.table (s : State) (sp : Spec) (step : BitVec 10) (cnt : Nat) (t : Ty) : Span :=
  { x0 := s.G sp, step := stepOf step, cnt := cnt, bytes := elemBytes t, align := elemBytes t, table := true }

/-- The memory side of VLD and VST (R331). -/
def State.memSpan (s : State) (sp : Spec) (step : BitVec 10) (cnt : Nat) : Span :=
  { x0 := s.G sp, step := stepOf step, cnt := cnt, bytes := 64, align := 8 }

/-- A binary sweep that writes tagof(T). -/
def binSweep (o : VOp) (s : State) (i : Instr) : Out :=
  guarded o.grd s fun s => s.sweep i o (s.planBin o none o.ty.tag)

/-- A unary sweep that writes tagof(T). -/
def unSweep (o : VOp) (s : State) (i : Instr) : Out :=
  guarded o.grd s fun s => s.sweep i o (s.planUn o o.cnt.toNat o.ty.tag)

/-- Bytes of `n` blocks of 256 elements of type `t`. -/
def blockBytes (t : Ty) (n : Nat) : Nat := n * 256 * t.width / 8

/-- R321. -/
def execVadd (o : VOp) (s : State) : Out :=
  binSweep o s (.vadd o)
/-- R321. -/
def execVsub (o : VOp) (s : State) : Out :=
  binSweep o s (.vsub o)
/-- R321. -/
def execVmul (o : VOp) (s : State) : Out :=
  binSweep o s (.vmul o)
/-- R321: D is read too. -/
def execVfma (o : VOp) (s : State) : Out :=
  guarded o.grd s fun s => s.sweep (.vfma o) o (s.planBin o (some o.ty) o.ty.tag)
/-- R321. -/
def execVmin (o : VOp) (s : State) : Out :=
  binSweep o s (.vmin o)
/-- R321. -/
def execVmax (o : VOp) (s : State) : Out :=
  binSweep o s (.vmax o)
/-- R321. -/
def execVabs (o : VOp) (s : State) : Out :=
  unSweep o s (.vabs o)
/-- R322: the tag is 0. -/
def execVcmp (o : VOp) (s : State) : Out :=
  guarded o.grd s fun s => s.sweep (.vcmp o) o (s.planBin o none 0)
/-- R322: D is read as a raw mask. -/
def execVsel (o : VOp) (s : State) : Out :=
  binSweep o s (.vsel o)
/-- R321. -/
def execVand (o : VOp) (s : State) : Out :=
  binSweep o s (.vand o)
/-- R321. -/
def execVor (o : VOp) (s : State) : Out :=
  binSweep o s (.vor o)
/-- R321. -/
def execVxor (o : VOp) (s : State) : Out :=
  binSweep o s (.vxor o)
/-- R321. -/
def execVshl (o : VOp) (s : State) : Out :=
  binSweep o s (.vshl o)
/-- R321. -/
def execVshr (o : VOp) (s : State) : Out :=
  binSweep o s (.vshr o)
/-- R323. -/
def execVcvt (o : VOp) (s : State) : Out :=
  guarded o.grd s fun s =>
    let ts := tsOf o
    let n := o.cnt.toNat
    s.sweep (.vcvt o) o
      { regs := [(o.d, none), (o.a, some ts)]
        spans := s.span o.d false o.sd n (cvtBytes o.ty ts) o.ty ++
          s.span o.a o.aS o.sa n (cvtBytes ts o.ty) ts
        dtag := o.ty.tag }
/-- R324. -/
def execVexp2 (o : VOp) (s : State) : Out :=
  unSweep o s (.vexp2 o)
/-- R324. -/
def execVlog2 (o : VOp) (s : State) : Out :=
  unSweep o s (.vlog2 o)
/-- R324. -/
def execVrcp (o : VOp) (s : State) : Out :=
  unSweep o s (.vrcp o)
/-- R324. -/
def execVrsq (o : VOp) (s : State) : Out :=
  unSweep o s (.vrsq o)
/-- R325: D receives one segment. -/
def execVred (o : VOp) (s : State) : Out :=
  guarded o.grd s fun s => s.sweep (.vred o) o (s.planUn o 1 o.ty.tag)
/-- R326. -/
def execVscan (o : VOp) (s : State) : Out :=
  unSweep o s (.vscan o)
/-- R327. -/
def execVperm (o : VOp) (s : State) : Out :=
  binSweep o s (.vperm o)
/-- R328: A is a table base. -/
def execVgath (o : VOp) (s : State) : Out :=
  guarded o.grd s fun s =>
    let n := o.cnt.toNat
    s.sweep (.vgath o) o
      { regs := [(o.d, none), (o.b, some o.ty)]
        spans := s.span o.d false o.sd n 64 o.ty ++ s.table o.a o.sa n o.ty ::
          s.span o.b o.bS o.sb n 64 o.ty
        whole := true
        dtag := o.ty.tag }
/-- R328: D is a table base. -/
def execVscat (o : VOp) (s : State) : Out :=
  guarded o.grd s fun s =>
    let n := o.cnt.toNat
    s.sweep (.vscat o) o
      { regs := [(o.a, some o.ty), (o.b, some o.ty)]
        spans := s.table o.d o.sd n o.ty :: (s.span o.a o.aS o.sa n 64 o.ty ++
          s.span o.b o.bS o.sb n 64 o.ty)
        whole := true
        dtag := 0 }
/-- R329: D receives the data and the scale array of CNT blocks. -/
def execVqnt (o : VOp) (s : State) : Out :=
  guarded o.grd s fun s =>
    let n := o.cnt.toNat
    let ts := tsOf o
    s.sweep (.vqnt o) o
      { regs := []
        spans := [s.block o.d (blockBytes o.ty n + 2 * n) (elemBytes o.ty),
          s.block o.a (blockBytes ts n) (elemBytes ts)]
        dtag := 0 }
/-- R330: A holds the data and the scale array. -/
def execVdq (o : VOp) (s : State) : Out :=
  guarded o.grd s fun s =>
    let n := o.cnt.toNat
    let td := tsOf o
    s.sweep (.vdq o) o
      { regs := []
        spans := [s.block o.d (blockBytes td n) (elemBytes td),
          s.block o.a (blockBytes o.ty n + 2 * n) (elemBytes o.ty)]
        dtag := 0 }
/-- R321: type 00h copies the tag of a register into a register. -/
def execVmov (o : VOp) (s : State) : Out :=
  guarded o.grd s fun s =>
    let t := if o.ty = .none && isV o.d && isV o.a then
        ((s.me.pool o.a).map s.myCore.vtag).getD 0 else o.ty.tag
    s.sweep (.vmov o) o (s.planUn o o.cnt.toNat t)
/-- R331, R332. -/
def execVld (o : VOp) (s : State) : Out :=
  guarded o.grd s fun s =>
    let n := o.cnt.toNat
    s.sweep (.vld o) o
      { regs := [(o.d, none)]
        spans := s.span o.d false o.sd n 64 o.ty
        mem := some (s.memSpan o.a o.sa n, rR)
        dtag := o.ty.tag }
/-- R331, R332. -/
def execVst (o : VOp) (s : State) : Out :=
  guarded o.grd s fun s =>
    let n := o.cnt.toNat
    s.sweep (.vst o) o
      { regs := [(o.a, some o.ty)]
        spans := s.span o.a o.aS o.sa n 64 o.ty
        mem := some (s.memSpan o.d o.sd n, rW)
        dtag := 0 }
/-- R333: each run is CNT × 64 bytes and one element. -/
def execVmrg (o : VOp) (s : State) : Out :=
  guarded o.grd s fun s =>
    let n := o.cnt.toNat
    let run := n * 64 + elemBytes o.ty
    s.sweep (.vmrg o) o
      { regs := [(o.d, none)]
        spans := s.span o.d false o.sd n 64 o.ty ++
          [s.block o.a run (elemBytes o.ty), s.block o.b run (elemBytes o.ty)]
        dtag := o.ty.tag }
/-- R334: A names an array and its length. -/
def execVbsr (o : VOp) (s : State) : Out :=
  guarded o.grd s fun s =>
    let n := o.cnt.toNat
    let len := (s.G (o.a + 1)).toNat
    -- a length above 2^20 / (w/8) makes the hull of A leave local store
    s.sweep (.vbsr o) o
      { regs := [(o.d, none), (o.b, some o.ty)]
        spans := s.span o.d false o.sd n 64 o.ty ++ s.block o.a (len * elemBytes o.ty) (elemBytes o.ty) ::
          s.span o.b o.bS o.sb n 64 o.ty
        dtag := o.ty.tag }
      (s.G (o.a + 1))

end Sys2Proof.Machine
end

