-- ==== Sys2Proof/Machine/Work.lean ====
section
/-! DEFINITION. Accepted sweeps and matrix work at their units: performance, completion, faults
(R159, R314, R316–R319, R340, R361, R450). -/

namespace Sys2Proof.Machine
open Sys2Proof

/-- The core whose contexts a chain belongs to, while its team is resident. -/
def State.chainCore (s : State) (h : Nat) : Option Nat :=
  let c := s.chain h
  match c.team with
  | none => none
  | some t => match s.teams.find? t with
    | some tm => if tm.swapped then none else tm.map[c.rank]?
    | none => none

/-- What a piece of work held is free: its locks and interlocks (R316, R340). -/
def State.workGone (s : State) (pid kind id : Nat) : State :=
  let c := s.core pid
  let s := s.setCore pid (c.dropLocks fun l => l.kind == kind && l.owner == id)
  (s.locksFreed pid).wakeIf pid fun w => w == .busy 2 || w == .busy 3

/-- The semaphore of the work is signalled by its increment. -/
def State.signalWork (s : State) (pid : Nat) (i : Instr) : State :=
  s.signal pid (signalOf i).1 (signalOf i).2

/-- The trap of work that met a fault: to the context that accepted it, or that executed the CADV of
the record that carried it (R450). `pid` is the core of the unit. -/
def State.workTrap (s : State) (pid : Nat) (w : Work) (f : Nat × Word × Nat) : State :=
  let t : Trap := { cause := f.1, info := f.2.1, src := w.ip
                    srcx := BitVec.ofNat 64 (f.2.2 * 2 ^ 32) + w.cls }
  match w.chain with
  | none => s.holdTrap pid w.ctx w.gen t
  | some h => match s.chainCore h with
    | some p => s.holdTrap p w.ctx w.gen t
    | none => s

/-- A sweep with a side in memory: its writes release what its context did before it (R149, R186), so that they
wait for its buffered stores and for its requests at homes that have not been performed. An access to another rank that
has not answered OK has not happened, and may depend on later work of the program: no sweep waits for it (R314). -/
def State.workBehind (s : State) (pid : Nat) (w : Work) : Bool :=
  (match w.instr with
    | .vld _ | .vst _ => true
    | _ => false) &&
  ((s.core pid).sbuf.any (fun e => e.ctx == w.ctx && e.gen == w.gen && e.state != 3 && seqBefore e.seq w.seq) ||
    s.homeReqs.any (fun r => r.pid == pid && r.ctx == w.ctx && r.gen == w.gen && r.chain.isNone && r.id < w.id))

/-- Perform the oldest sweep of a core, once. -/
def State.performSweep (s : State) (pid : Nat) : State :=
  match (s.core pid).sweeps with
  | [] => s
  | w :: _ =>
    if w.performed || w.fault.isSome || s.workBehind pid w then s
    else
      let (s, f) := s.runSweep pid w
      let c := s.core pid
      let w := { w with performed := f.isNone, fault := f }
      s.setCore pid { c with sweeps := w :: c.sweeps.tail }

/-- R317. -/
def execSweepPerform (pid : Nat) (s : State) : Out := .next (s.performSweep pid)

/-- R316. -/
def execSweepComplete (pid : Nat) (s : State) : Out :=
  .next (match (s.core pid).sweeps with
    | [] => s
    | w :: l =>
      if !w.performed then s
      else
        let s := s.setCore pid { s.core pid with sweeps := l }
        (s.workGone pid 0 w.id).signalWork pid w.instr)

/-- Perform the oldest matrix operation of a core, or find its fault. -/
def State.performMatrix (s : State) (pid : Nat) : State :=
  match (s.core pid).mats with
  | [] => s
  | w :: _ =>
    if w.performed || w.fault.isSome then s
    else
      let (s, f) := s.runMatrix pid w
      let c := s.core pid
      let w := { w with performed := f.isNone, fault := f }
      s.setCore pid { c with mats := w :: c.mats.tail }

/-- R340. -/
def execMatrixComplete (pid : Nat) (s : State) : Out :=
  .next (
    let s := s.performMatrix pid
    match (s.core pid).mats with
    | [] => s
    | w :: l =>
      if !w.performed then s
      else
        let s := s.setCore pid { s.core pid with mats := l }
        (s.workGone pid 1 w.id).signalWork pid w.instr)

/-- The oldest sweep has met a fault: it ends without its signal (R450). -/
def State.sweepFault (s : State) (pid : Nat) : State :=
  let s1 := s.performSweep pid
  match (s1.core pid).sweeps with
  | [] => s
  | w :: l => match w.fault with
    | none => s
    | some f =>
      let s1 := s1.setCore pid { s1.core pid with sweeps := l }
      (s1.workGone pid 0 w.id).workTrap pid w f

/-- The oldest matrix operation has met a fault: it has written nothing (R450). -/
def State.matrixFault (s : State) (pid : Nat) : State :=
  let s1 := s.performMatrix pid
  match (s1.core pid).mats with
  | [] => s
  | w :: l => match w.fault with
    | none => s
    | some f =>
      let s1 := s1.setCore pid { s1.core pid with mats := l }
      (s1.workGone pid 1 w.id).workTrap pid w f

end Sys2Proof.Machine
end

