-- ==== Sys2Proof/Machine/Rows.lean ====
section
/-! DEFINITION. How an engine reads and writes the words of a record (R108, R112, R180, R182, R355–R358,
R360, R475, R480, R502). -/

namespace Sys2Proof.Machine
open Sys2Proof

/-! ### Where an engine's access goes -/

/-- The core of a rank of the team of a chain. -/
def State.engCore (s : State) (h r : Nat) : Option Nat :=
  match (s.chain h).team.bind fun t => s.teams.find? t with
  | some (tm : Team) => if r < tm.size && !tm.swapped then tm.map[r]? else none
  | none => none

/-- The permission table of the chain's core; a command processor has none (R369). -/
def State.engAllowed (s : State) (h : Nat) (va : Word) (need : Nat) : Bool :=
  match s.chainCore h with
  | some p => (s.core p).allowed va need
  | none => (s.chain h).team.isNone

/-- The place of a word. -/
inductive Spot where
  | home
  | ls (pid off : Nat)
  | fabric
deriving DecidableEq, Repr

/-- The place of an address, or its cause. `fab`: the fabric window is accepted. -/
def State.spot (s : State) (h : Nat) (va : Word) (write fab : Bool) (need : Nat) : Except Nat Spot :=
  match windowOf (s.chain h).rank va with
  | .host | .device => if s.engAllowed h va need then .ok .home else .error 6
  | .rank r off => match s.engCore h r with
    | some p => .ok (.ls p off)
    | none => .error 6
  -- a record of a COPY packet keeps to host half and device memory (R381)
  | .fabric _ _ => if fab && (s.chain h).team.isSome && s.engAllowed h va need then .ok .fabric else .error 6
  | .weight _ _ => .error (if write then 0x11 else 6)
  | .reserved => .error 6

/-- Two places in one window and one local store. -/
def Spot.same : Spot → Spot → Bool
  | .home, .home | .fabric, .fabric => true
  | .ls p _, .ls q _ => p == q
  | _, _ => false

/-- The bytes [va, va + n) lie in one place and may be used: the cause when not. -/
def State.badBytes (s : State) (h : Nat) (va : Word) (n : Nat) (write fab : Bool) (need : Nat) : Option Nat :=
  match s.spot h va write fab need, s.spot h (va + BitVec.ofNat 64 (n - 1)) write fab need with
  | .error c, _ => some c
  | .ok _, .error c => some c
  | .ok a, .ok b => if a.same b then none else some 6

/-! ### One word -/

/-- Words that bytes [a, a + n) touch. -/
def wordsOf (a n : Nat) : Nat := if n = 0 then 0 else (a + n - 1) / 8 - a / 8 + 1

/-- What an engine's read of a word meets. -/
inductive Got where
  | word (s : State) (w : RWord)
  /-- a watch stands, or a request is under way: the number that `Run.waiting` holds -/
  | wait (s : State) (id : Nat)
  /-- a watch could not be registered: the engine looks again -/
  | retry (s : State)
  | fault (s : State) (cause : Nat)

/-- A request of the engine for a word of a remote device; `front`: its watch goes back to the head of the word's
list (R81). -/
def State.engRequest (s : State) (h : Nat) (rc : CRec) (va : Word) (op : HomeOp) (park front : Bool) : State × Nat :=
  let r : HomeReq := { id := s.nextId, pid := (s.chainCore h).getD 0, ctx := rc.ctx, gen := rc.gen
                       dom := rc.dom, va := va, op := op, park := park, front := front, seq := 0
                       ticks := s.ticks, chain := some h }
  ({ s with homeReqs := s.homeReqs ++ [r], nextId := s.nextId + 1 }, s.nextId)

/-- The watch of an engine that waits for a source word (R182). -/
def engWatch (h : Nat) (rc : CRec) (pid word : Nat) (consume : Bool) : Watch :=
  { word := word, want := some true, changing := consume, pid := pid, ctx := rc.ctx, gen := rc.gen, chain := some h }

/-- The step that consumes a word: its bit becomes empty, its data stays. -/
def takeBit (_ : Nat) (w : Word) (_ p : Bool) : OpRes := ⟨.ok w, w, false, p, false⟩

/-- Read a word at its home here in source mode `sfe`, waiting with a watch (R182). `dirOnly`: a watch of a
fabric access goes into the directory alone (R177). -/
def State.engHome (s : State) (h : Nat) (rc : CRec) (va : Word) (sfe need : Nat) (dirOnly front : Bool) : Got :=
  match s.homePeek rc.dom va need with
  | (s, .absent) => if dirOnly then .retry s else .fault s 0x0B
  | (s, .fault c) => .fault s (if dirOnly then 6 else c)
  | (s, .ok w full p) =>
    let full := isHost va || full
    if sfe = 0 || full then
      if sfe = 2 && !isHost va then
        .word (s.homeStep rc.dom va need 255 takeBit fun _ => true).1 ⟨w, full, p⟩
      else .word s ⟨w, full, p⟩
    else match s.addWatch (engWatch h rc ((s.chainCore h).getD 0) (wordKey rc.dom va) (sfe == 2)) false front with
      | (s, true) => .wait { s with nextId := s.nextId + 1 } s.nextId
      | (s, false) => .retry s

/-- Read the aligned word at `va` in source mode `sfe`; `want`: its bit is needed. A record of the park heap
names a context, so an engine's watch stands in the directory alone: DESIGN CHOICE, log entry 56. -/
def State.engRead (s : State) (h : Nat) (rc : CRec) (va : Word) (sfe : Nat) (want front : Bool) : Got :=
  let need := if sfe = 0 then rR else rR + rF
  match s.spot h va false true need with
  | .error c => .fault s c
  | .ok .home => s.engHome h rc va sfe need false front
  | .ok (.ls pid off) =>
    let a := lsAddr pid off
    let w : RWord := ⟨BitVec.ofNat 64 (s.rd a 8), s.isFull a, s.isPoison a⟩
    if sfe = 0 || w.full then
      .word (if sfe = 2 then (s.lsStep pid off takeBit).1 else s) w
    else match s.addLsWatch pid (engWatch h rc ((s.chainCore h).getD 0) (lsWord pid off) (sfe == 2)) front with
      | (s, true) => .wait { s with nextId := s.nextId + 1 } s.nextId
      | (s, false) => .retry s
  | .ok .fabric => match s.loopback va with
    | some off =>
      if s.imported s.fabn.toNat rc.dom need then s.engHome h rc (fabricVa off) sfe need true front
      else .fault s 6
    | none =>
      let op : HomeOp := if sfe = 2 then .ldc else if sfe = 1 then .ldw
        else if want then .peek else .load .i64 false
      let (s, id) := s.engRequest h rc va op (sfe != 0) front
      .wait s id

/-- Read the aligned word at `va` where nothing is waited for: an entry of a list, a word of a sidecar, a word that a
COW reads. It lies in no other device: DESIGN CHOICE, log entry 56. -/
def State.engPlain (s : State) (h : Nat) (rc : CRec) (va : Word) (need : Nat) : State × Except (Nat × Word) RWord :=
  match s.spot h va (hasRights need rW) false need with
  | .error c => (s, .error (c, va))
  | .ok (.ls pid off) =>
    let a := lsAddr pid off
    (s, .ok ⟨BitVec.ofNat 64 (s.rd a 8), s.isFull a, s.isPoison a⟩)
  | .ok _ => match s.homePeek rc.dom va need with
    | (s, .absent) => (s, .error (0x0B, va))
    | (s, .fault c) => (s, .error (c, va))
    | (s, .ok w full p) => (s, .ok ⟨w, full, p⟩)

/-- Every word of the `n` bytes from `dst` that is one of this device, named through the fabric window, has its page
resident: the engine waits until it has, as at a read (R464, R483). -/
def State.engReady (s : State) (h : Nat) (rc : CRec) (dst : Word) (n need : Nat) : State × Bool :=
  (List.range (wordsOf dst.toNat n)).foldl (fun e i =>
    let va := wordAddr dst + BitVec.ofNat 64 (8 * i)
    match e.1.spot h va true true need, e.1.loopback va with
    | .ok .fabric, some off =>
      if e.1.imported e.1.fabn.toNat rc.dom need then
        match e.1.xlate rc.dom (fabricVa off) need with
        | (s, .absent) => (s, false)
        | (s, _) => (s, e.2)
      else e
    | _, _ => e) (s, true)

/-- Write bytes of the aligned word at `va`, with its bit; of a word of this device, named through the fabric window,
the page is resident by `State.engReady`. The number of a remote write that is to be acknowledged. -/
def State.engWrite (s : State) (h : Nat) (rc : CRec) (va v : Word) (mask : Nat) (fe : Option Bool)
    (poison : Bool) : State × Except Nat (Option Nat) :=
  let need := if fe.isSome then rW + rF else rW
  match s.spot h va true true need with
  | .error c => (s, .error c)
  | .ok .home =>
    match s.homeWrite rc.dom va v mask (if isHost va then none else fe) poison with
    | (s, .absent) => (s, .error 0x0B)
    | (s, .fault c) => (s, .error c)
    | (s, .done _) => (s, .ok none)
  | .ok (.ls pid off) => ((s.lsOp pid off (.put v mask fe poison)).1, .ok none)
  | .ok .fabric => match s.loopback va with
    | some off =>
      if s.imported s.fabn.toNat rc.dom need then
        match s.homeWrite rc.dom (fabricVa off) v mask fe poison with
        | (s, .done _) => (s, .ok none)
        | (s, _) => (s, .error 6)
      else (s, .error 6)
    | none =>
      let (s, id) := s.engRequest h rc va (.put v mask fe poison) false false
      (s, .ok (some id))

/-- The record of a lock of kind 2 is under way. -/
def State.underWay (s : State) (owner : Nat) : Bool :=
  match (s.chain (owner % 8192)).run with
  | some r => r.rc.num == owner / 8192
  | none => false

/-- Bytes of a local store that a range lock keeps the engine out of (R159, R367): one of a sweep, of matrix work or
of another record under way, or, for a write, a CLCK lock that the context of the record's CADV does not hold. -/
def State.engLocked (s : State) (h : Nat) (rc : CRec) (va : Word) (n : Nat) (write : Bool) : Bool :=
  match s.spot h va write true 0 with
  | .ok (.ls pid off) => (s.core pid).locks.any fun e => e.2.ls && overlap e.2.base e.2.len off n &&
      (e.2.kind < 2 || (e.2.kind == 2 && e.2.owner != recKey h rc.num && s.underWay e.2.owner) ||
        (write && e.2.kind == 3 && !(s.chainCore h == some pid && e.2.ctx == rc.ctx)))
  | _ => false

/-! ### Sidecars (R100, R104, R105, R480) -/

/-- Bit `i` of the sidecar at `base`, and whether its word is poisoned. -/
def State.sideBit (s : State) (h : Nat) (rc : CRec) (base i : Nat) : State × Except (Nat × Word) (Bool × Bool) :=
  let a := base + i / 8
  match s.engPlain h rc (BitVec.ofNat 64 (a / 8 * 8)) rR with
  | (s, .ok w) => (s, .ok (bitAt w.v.toNat (a % 8 * 8 + i % 8), w.poison))
  | (s, .error f) => (s, .error f)

/-- A bit of a sidecar is written, which needs W alone. -/
def State.setSideBit (s : State) (h : Nat) (rc : CRec) (base i : Nat) (b : Bool) : State × Option (Nat × Word) :=
  let a := base + i / 8
  let va := BitVec.ofNat 64 (a / 8 * 8)
  match s.engPlain h rc va rW with
  | (s, .error f) => (s, some f)
  | (s, .ok w) =>
    let v := BitVec.ofNat 64 (setBit w.v.toNat (a % 8 * 8 + i % 8) b)
    match s.engWrite h rc va v (2 ^ (a % 8)) none false with
    | (s, .error c) => (s, some (c, va))
    | (s, .ok _) => (s, none)

/-! ### A row -/

/-- What one row moves: from where (none for FILL), to where, source and destination bytes. -/
structure Row where
  src : Option Word
  dst : Word
  n : Nat
  d : Nat
deriving DecidableEq, Repr

/-- How the bytes and bits of a row are changed on the way: element widths on both sides, the
conversion, the modes, the ranks beside the first. -/
structure Carry where
  ws : Nat := 8
  wd : Nat := 8
  conv : Option (Ty × Ty) := none
  sfe : Nat := 0
  dfe : Nat := 0
  /-- offsets between multicast copies and the first destination -/
  extra : List Int := [0]
deriving DecidableEq, Repr

/-- The source words of a row in order, as far as they can be read. -/
def State.readWords (s : State) (h : Nat) (r : Run) (row : Row) (c : Carry) : Nat → State
  | 0 => s.setChain h { s.chain h with run := some r }
  | n + 1 =>
    match row.src with
    | none => s.setChain h { s.chain h with run := some r }
    | some a =>
      if wordsOf a.toNat row.n ≤ r.got.length then s.setChain h { s.chain h with run := some r }
      else
        let va := wordAddr a + BitVec.ofNat 64 (8 * r.got.length)
        let save := fun (s : State) (r : Run) => s.setChain h { s.chain h with run := some r }
        match s.engRead h r.rc va c.sfe (c.dfe == 1) r.front with
        | .word s w => State.readWords s h { r with got := r.got ++ [w], front := false } row c n
        | .wait s id => save s { r with waiting := some id }
        | .retry s => save s r
        | .fault s cause => save s { r with fault := some (cause, va) }

/-- The bytes of a row as a number, converted. -/
def rowValue (row : Row) (c : Carry) (got : List RWord) : Nat :=
  let raw := packLanes 64 (got.map (·.v.toNat))
  let v := fld raw (8 * (((row.src).getD 0).toNat % 8)) (8 * row.n)
  match c.conv with
  | none => v
  | some (td, ts) => packLanes c.wd ((lanesOf c.ws (8 * row.n / c.ws) v).map (convert td ts .rne true))

/-- The source words that supply bytes [lo, hi) of a destination row. -/
def suppliers (row : Row) (c : Carry) (got : List RWord) (lo hi : Nat) : List RWord :=
  let off := ((row.src).getD 0).toNat % 8
  let b0 := 8 * lo / c.wd * c.ws
  let b1 := ((8 * hi - 1) / c.wd + 1) * c.ws
  let w0 := (b0 / 8 + off) / 8
  let w1 := ((b1 - 1) / 8 + off) / 8
  (got.drop w0).take (w1 - w0 + 1)

/-- FILL: byte `a` takes byte a mod 8 of the pattern (R354). `off` places `dst` in its local store. -/
def fillValue (pat dst n : Nat) : Nat :=
  let rot := fld (pat * (2 ^ 64 + 1)) (8 * (dst % 8)) 64
  packLanes 64 (List.replicate (n / 8 + 1) rot) % 2 ^ (8 * n)

/-- A destination word of a row: its address beyond the first, the bytes it takes, their values, the
bit and the poison it carries. -/
structure DWord where
  j : Nat
  v : Word
  mask : Nat
  full : Bool
  poison : Bool
deriving DecidableEq, Repr

/-- The destination words of a row of value `v`. -/
def destWords (row : Row) (c : Carry) (v : Nat) (got : List RWord) : List DWord :=
  let off := row.dst.toNat % 8
  let num := v * 256 ^ off
  (List.range (wordsOf row.dst.toNat row.d)).map fun j =>
    let lo := max (8 * j) off - off
    let hi := min (8 * j + 8) (off + row.d) - off
    let sup := suppliers row c got lo hi
    { j := j, v := BitVec.ofNat 64 (fld num (64 * j) 64)
      mask := ones (hi - lo) * 2 ^ (lo + off - 8 * j)
      full := sup.all (·.full), poison := sup.any (·.poison) }

/-- The bit that a destination mode writes. -/
def feOf (dfe : Nat) (full : Bool) : Option Bool :=
  if dfe = 1 then some full else if dfe = 2 then some true else if dfe = 3 then some false else none

/-- Write destination words at the places that are `extra` from `dst`. -/
def State.writeWords (s : State) (h : Nat) (rc : CRec) (dst : Word) (c : Carry) (side : Option (Nat × Nat)) :
    List (Int × DWord) → List Nat → State × Except (Nat × Word) (List Nat)
  | [], acks => (s, .ok acks)
  | (x, w) :: l, acks =>
    let va := wordAddr dst + BitVec.ofNat 64 (8 * w.j) + ofInt x
    let fe := feOf c.dfe w.full
    match s.engWrite h rc va w.v w.mask (if side.isSome then none else fe) w.poison with
    | (s, .error cause) => (s, .error (cause, va))
    | (s, .ok id) =>
      let acks := acks ++ id.toList
      match side, fe with
      | some (base, first), some b =>
        match s.setSideBit h rc base ((va.toNat - first) / 8) b with
        | (s, some f) => (s, .error f)
        | (s, none) => State.writeWords s h rc dst c side l acks
      | _, _ => State.writeWords s h rc dst c side l acks

/-- The bits of source words come from a sidecar (SIDES): a poisoned sidecar word leaves its words full
and poisoned (R480). -/
def State.sideWords (s : State) (h : Nat) (rc : CRec) (base i : Nat) :
    List RWord → State × Except (Nat × Word) (List RWord)
  | [] => (s, .ok [])
  | w :: l =>
    match s.sideBit h rc base i with
    | (s, .error f) => (s, .error f)
    | (s, .ok (b, p)) => match State.sideWords s h rc base (i + 1) l with
      | (s, .ok l) => (s, .ok ({ w with full := b || p, poison := w.poison || p } :: l))
      | r => r

end Sys2Proof.Machine
end

