-- ==== Sys2Proof/Machine/Engine.lean ====
section
/-! DEFINITION. The copy engines: a record's start, its rows, COW, completion, follow-on images, and the
end of work that met a fault (R178–R185, R353–R362, R368, R450, R502, R528). -/

namespace Sys2Proof.Machine
open Sys2Proof

def State.setRun (s : State) (h : Nat) (r : Run) : State := s.setChain h { s.chain h with run := some r }
def State.runFails (s : State) (h : Nat) (r : Run) (f : Nat × Word) : State := s.setRun h { r with fault := some f }

/-! ### Ranks that a record names -/

/-- The rank of a rank-window or own-cluster address. -/
def State.rankOfVa (s : State) (h : Nat) (va : Nat) : Option Nat :=
  match windowOf (s.chain h).rank (BitVec.ofNat 64 va) with
  | .rank r _ => some r
  | _ => none

/-- The destination ranks (R358): that of DST, then the multicast ones of its cluster. -/
def State.destRanks (s : State) (h : Nat) (ws : List Word) : List Nat :=
  match s.rankOfVa h (rDst ws) with
  | none => []
  | some d => (d :: ((List.range 4).filter fun k => bitAt (rMcast ws) k).map fun k => 4 * (d / 4) + k).dedup

def State.destCores (s : State) (h : Nat) (ws : List Word) : List Nat :=
  (s.destRanks h ws).filterMap (s.engCore h)

/-- Every core that a record names (R528), the issuing one among them. -/
def State.namedCores (s : State) (h : Nat) (ws : List Word) : List Nat :=
  let src := if rKind ws = 5 then none else (s.rankOfVa h (rSrc ws)).bind (s.engCore h)
  let wait := if rWthr ws = 0 then none else s.engCore h (rWrank ws)
  (s.chainCore h).toList ++ src.toList ++ wait.toList ++ s.destCores h ws

/-! ### The checks at the start (R502) -/

/-- The image of R361. -/
def followOn (ws : List Word) : Option XOp :=
  match decodeSlot (rImage ws) with
  | some (.mma x) =>
    let even := fun (d : Spec) => d.toNat % 2 == 0 && 2 ≤ d.toNat && d.toNat ≤ 6
    if x.grd = ⟨false, 0⟩ && x.ak && x.bk && x.mode == 0 && 1 ≤ x.d.toNat && x.d.toNat ≤ 7 && even x.a && even x.b
    then some x else none
  | _ => none

/-- The pairs of formats in the table of R136: from float to integer, to L6 or to a float of another width; from an
integer or from L6 to the floats of its row. FP16 with BF16 and E4M3 with E5M2 stand in no row. DEDUCED, log entry
112. -/
def convPair (td ts : Ty) : Bool :=
  let f := fun (t : Ty) => (fmtOf t).isSome
  if f ts then td.integer || td == .l6 || (f td && td.width != ts.width)
  else match ts with
    | .l6 | .i32 => td == .f32 || td == .f64
    | .i64 => td == .f64
    | _ => td.isF

/-- A pair of tags that R357 or R136 allows. -/
def tagPairOk (ws : List Word) : Bool :=
  if rKind ws = 3 then
    rStag ws = 0 || ([5, 6, 8, 10].contains (rStag ws) && [2, 3, 4].contains (rDtag ws))
  else if rKind ws = 9 then match Ty.ofTag (rDtag ws), Ty.ofTag (rStag ws) with
    | some td, some ts => convPair td ts
    | _, _ => false
  else true

/-- Fields that break the chapter's rules: 01h. `cp`: from a command processor. -/
def State.malformed (s : State) (h : Nat) (ws : List Word) (cp : Bool) : Bool :=
  let k := rKind ws
  let ranked := (s.rankOfVa h (rDst ws)).isSome
  k = 0 || 10 ≤ k || recF ws 4 60 4 != 0 || (!rSidecar ws && recF ws 5 50 14 != 0) || recF ws 7 48 14 != 0 ||
  rSfe ws = 3 || (rMcast ws != 0 && !ranked) ||
  (!rSidecar ws && rSinc ws != 0 && rSigd ws && !ranked) ||
  ((k = 2 || k = 4) && rPlanes ws != 0) || !tagPairOk ws || (rFo ws && (followOn ws).isNone) ||
  (!cp && rSidecar ws && (recF ws 5 0 16 != 0 || rSinc ws != 0 || rEvq ws)) ||
  (!cp && (k = 7 || k = 8)) ||
  -- a record of a COPY packet (R381)
  (cp && (!([1, 2, 4, 5, 9] : List Nat).contains k || rMcast ws != 0 || rWthr ws != 0 || (!rSidecar ws && rSinc ws != 0) ||
    rFo ws || rEvq ws))

/-- The kind reads a shape at SRC, writes one at DST. -/
def rReads (ws : List Word) : Bool := [1, 4, 9].contains (rKind ws)
def rWrites (ws : List Word) : Bool := [1, 2, 3, 5, 9].contains (rKind ws)

/-- An address, a pitch or a row length that is not a multiple of 8 under a mode; a bit where there is
none; a BTGATHER block: 07h. -/
def misaligned (ws : List Word) : Bool :=
  let odd := fun (x : Int) => x % 8 != 0
  let moded := rSfe ws != 0 || rDfe ws != 0
  (moded && ((rKind ws != 5 && (odd (rSrc ws) || odd (rSrp ws))) || odd (rDst ws) || odd (rDrp ws) ||
    odd (rRow ws) || odd (rDrow ws))) ||
  (rDfe ws != 0 && !rSidec ws && rWrites ws && isHost (BitVec.ofNat 64 (rDst ws))) ||
  (rKind ws = 3 && rRow ws % 64 != 0)

/-- Address of row `i` of plane `p` of a shape. -/
def rowAt (base : Nat) (rp pp : Int) (i p : Nat) : Word := ofInt ((base : Int) + p * pp + i * rp)

/-- The first cause that a shape meets, row by row. -/
def State.badShape (s : State) (h base : Nat) (rp pp : Int) (rows planes n : Nat) (write : Bool) (need : Nat) :
    Option Nat :=
  (List.range (planes + 1)).findSome? fun p => (List.range (rows + 1)).findSome? fun i =>
    s.badBytes h (rowAt base rp pp i p) n write true need

/-- The bytes of the sidecar at word 5 that a record names: of the bits of its words from the start of the shape that
they belong to, up to its end (R100). The bits of rows that a list names lie where each row is. -/
def sideBytes (ws : List Word) : Nat :=
  let top := fun (rp pp : Int) (n : Nat) => (max 0 (rRows ws * rp) + max 0 (rPlanes ws * pp)).toNat + n
  let words := if rSidec ws then (if rKind ws = 4 then 1 else top (rDrp ws) (rDpp ws) (rDrow ws) / 8)
    else if rKind ws = 1 || rKind ws = 9 then top (rSrp ws) (rSpp ws) (rRow ws) / 8 else 1
  (max words 1 - 1) / 8 + 1

/-- The windows, ranks and rights that a record names directly (R108, R502). -/
def State.badRanges (s : State) (h : Nat) (ws : List Word) : Option Nat :=
  let rd := if rSfe ws = 0 then rR else rR + rF
  let wr := if rDfe ws = 0 then rW else rW + rF
  let rows := rRows ws
  let list := fun (a : Nat) => s.badBytes h (BitVec.ofNat 64 a) (8 * (rows + 1)) false false rR
  let src := if rReads ws then
      s.badShape h (rSrc ws) (rSrp ws) (if rKind ws = 4 then 0 else rSpp ws) rows
        (if rKind ws = 4 then 0 else rPlanes ws) (rRow ws) false rd
    else if rKind ws = 2 || rKind ws = 3 then list (rSrc ws) else none
  let dst := if rKind ws = 4 then list (rDst ws)
    else if rWrites ws then
      s.badShape h (rDst ws) (rDrp ws) (if rKind ws = 2 || rKind ws = 3 then 0 else rDpp ws) rows
        (if rKind ws = 2 || rKind ws = 3 then 0 else rPlanes ws) (rDrow ws) true wr
    else none
  -- the accesses of a COW are checked as each is reached (R360)
  let ranks := if rKind ws != 6 && (s.destRanks h ws).any fun r => (s.engCore h r).isNone then some 6 else none
  let side := if rSidecar ws then
      s.badBytes h (BitVec.ofNat 64 (recW ws 5)) (sideBytes ws) (rSidec ws) false
        ((if rSides ws then rR else 0) + (if rSidec ws then rW else 0))
    else none
  -- a write to the weight store goes before every other window fault (R503)
  if dst = some 0x11 || side = some 0x11 then some 0x11 else src.or (dst.or (ranks.or side))

/-- The cause for which a record stops at its start. -/
def State.recordFault (s : State) (h : Nat) (ws : List Word) (cp : Bool) : Option Nat :=
  if s.malformed h ws cp then some 1 else if misaligned ws then some 7 else s.badRanges h ws

/-! ### Start -/

/-- The eight words of a record, read at their homes. -/
def State.readRecord (s : State) (dom : Nat) (va : Word) : Nat → State × Except Nat (List Word)
  | 0 => (s, .ok [])
  | n + 1 =>
    match s.homeRead dom va with
    | (s, .absent) => (s, .error 0x0B)
    | (s, .fault c) => (s, .error c)
    | (s, .ok w _ _) => match State.readRecord s dom (va + 8) n with
      | (s, .ok l) => (s, .ok (w :: l))
      | r => r

/-- The wait field (R359): the state, and whether the record may start. -/
def State.semWaits (s : State) (h : Nat) (ws : List Word) : State × Bool :=
  let c := s.chain h
  if rWthr ws = 0 || c.semMet then (s, true)
  else if c.semAsked then (s, false)
  else match s.engCore h (rWrank ws) with
  | none => (s, true)
  | some p =>
    let k := s.core p
    let i := rWsem ws
    let n := k.sems.get i 0
    if rWthr ws ≤ n then
      let s := s.setChain h { c with semMet := true }
      (if rWdec ws then s.setSem p i (n - rWthr ws) 64 else s, true)
    else
      let w : SemWaiter := { ctx := none, chain := h, thr := rWthr ws, dec := rWdec ws }
      let s := s.setCore p { k with semWait := k.semWait.put i (k.semWait.get i [] ++ [w]) }
      (s.setChain h { c with semAsked := true }, false)

/-- The local-store hull of DST. -/
def dstHull (ws : List Word) : Option (Nat × Nat) :=
  ((recRanges ws).find? (·.write)).bind fun r => if r.lo < 0 then none
    else some (r.lo.toNat % 2 ^ 20, r.len)

/-- The local-store ranges that a record writes, with the core of each: its destination on every
destination core; of a COW, the entry and the new block (R360). -/
def State.lsWrites (s : State) (h : Nat) (ws : List Word) : List (Nat × Nat × Nat) :=
  if rKind ws = 6 then
    [(rSrc ws, 8), (rDst ws, rRow ws + 8)].filterMap fun e =>
      ((s.rankOfVa h e.1).bind (s.engCore h)).map fun p => (p, e.1 % 2 ^ 20, e.2)
  else if rWrites ws then match dstHull ws with
    | some (off, n) => (s.destCores h ws).map fun p => (p, off, n)
    | none => []
  else []

/-- The local-store ranges that it reads, or whose list it reads. -/
def State.lsReads (s : State) (h : Nat) (ws : List Word) : List (Nat × Nat × Nat) :=
  ((recRanges ws).filter fun r => !r.write && 0 ≤ r.lo).filterMap fun r =>
    ((s.rankOfVa h r.lo.toNat).bind (s.engCore h)).map fun p => (p, r.lo.toNat % 2 ^ 20, r.len)

/-- The record of a lock of kind 2 goes before `rc`: it is under way, or was advanced by an earlier CADV. One that
was advanced later and has not begun goes after it: read word for word, R365 would have each wait for the other.
DESIGN CHOICE, log entry 93. -/
def State.goesFirst (s : State) (rc : CRec) (owner : Nat) : Bool :=
  s.underWay owner || (s.chain (owner % 8192)).recs.any fun r =>
    r.num == owner / 8192 && r.advanced && r.order < rc.order

/-- A lock keeps the record from starting. On a core that it writes, every lock that overlaps its local-store ranges
does, apart from its own and a CLCK lock of the context of its CADV (R365, R367); on a core that it only reads, a lock
of a sweep, of matrix work or of another record (R159); and on its own core such a lock of a sweep or of matrix work on
its other ranges (R315). -/
def State.recordLocked (s : State) (h : Nat) (rc : CRec) (ws : List Word) : Bool :=
  let mine := s.chainCore h
  let work := fun (l : Lock) => l.kind < 2
  let record := fun (l : Lock) => l.kind == 2 && l.owner != recKey h rc.num && s.goesFirst rc l.owner
  let clck := fun (p : Nat) (l : Lock) => l.kind == 3 && !(mine == some p && l.ctx == rc.ctx)
  let hit := fun (ls : Bool) (p a n : Nat) (f : Lock → Bool) => (s.core p).locks.any fun e =>
    e.2.ls == ls && overlap e.2.base e.2.len a n && f e.2
  let writes := s.lsWrites h ws
  (writes.any fun e => hit true e.1 e.2.1 e.2.2 fun l => work l || record l || clck e.1 l) ||
  ((s.lsReads h ws).any fun e => hit true e.1 e.2.1 e.2.2 fun l =>
    work l || record l || (writes.any (·.1 == e.1) && clck e.1 l)) ||
  match mine with
  | none => false
  | some p => (recLocks (s.chain h).rank ws).any fun r => !r.1 && hit false p r.2.1 r.2.2 work

/-- The ranges that it writes on cores that do not hold its lock yet (R179). -/
def State.lockCores (s : State) (h : Nat) (rc : CRec) (ws : List Word) : List (Nat × Nat × Nat) :=
  (s.lsWrites h ws).filter fun w => !((s.core w.1).locks.any fun e => e.2.kind == 2 && e.2.ls &&
    e.2.owner == recKey h rc.num && e.2.base == w.2.1 && e.2.len == w.2.2)

/-- The table of every core has room for the entries. -/
def State.lockRoom (s : State) (l : List (Nat × Nat × Nat)) : Bool :=
  l.all fun e => (l.filter (·.1 == e.1)).length ≤ (s.core e.1).freeLocks

/-- Begin the record: enter its locks on other cores. -/
def State.beginRecord (s : State) (h : Nat) (rc : CRec) (ws : List Word) : State :=
  let s := (s.lockCores h rc ws).foldl (fun s e =>
    s.setCore e.1 ((s.core e.1).lockWork 2 rc.ctx (recKey h rc.num) [(true, e.2.1, e.2.2)])) s
  let c := s.chain h
  s.setChain h { c with run := some { ws := ws, rc := { rc with ws := ws } }, semMet := false, semAsked := false }

/-- The team of a chain is swapped out. -/
def State.chainAway (s : State) (h : Nat) : Bool :=
  match (s.chain h).team.bind fun t => s.teams.find? t with
  | some (tm : Team) => tm.swapped
  | none => false

/-- The head of a chain starts, waits, or stops. That of a team that is swapped out stays in its chain (R54, R55). -/
def State.startRecord (s : State) (h : Nat) (rc : CRec) : State :=
  let cp := (s.chain h).team.isNone
  if s.chainAway h then s
  else match s.readRecord rc.dom rc.va 8 with
  | (s, .error c) => s.runFails h { ws := rc.ws, rc := rc } (c, rc.va)
  | (s, .ok ws) =>
    let stop := fun (s : State) (c : Nat) => s.runFails h { ws := ws, rc := rc } (c, rc.va)
    if rWthr ws ≠ 0 && (s.engCore h (rWrank ws)).isNone then stop s ((s.recordFault h ws cp).getD 6)
    else if (s.namedCores h ws).any fun p => (s.core p).stopped then s
    else match s.semWaits h ws with
    | (s, false) => s
    | (s, true) =>
      match s.recordFault h ws cp with
      | some c => stop s c
      | none =>
        if s.recordLocked h rc ws then s
        else if !s.lockRoom (s.lockCores h rc ws) then s
        else s.beginRecord h rc ws

/-- R179, R183, R365, R502, R528. -/
def execCopyRecordStart (h : Nat) (s : State) : Out :=
  let c := s.chain h
  .next (match c.run, c.recs with
    | none, rc :: _ => if c.stopped || !rc.advanced then s else s.startRecord h rc
    | _, _ => s)

/-! ### Rows (R355–R358) -/

/-- A list entry of eight bytes: its value, or the failing access. -/
def State.listEntry (s : State) (h : Nat) (rc : CRec) (base i : Nat) : State × Except (Nat × Word) Word :=
  let a := BitVec.ofNat 64 (base + 8 * i)
  let rd := fun (s : State) (va : Word) => match s.engPlain h rc va rR with
    | (s, .ok w) => (s, Except.ok w.v.toNat)
    | (s, .error f) => (s, .error f)
  match rd s (wordAddr a) with
  | (s, .error f) => (s, .error f)
  | (s, .ok lo) =>
    if a.toNat % 8 = 0 then (s, .ok (BitVec.ofNat 64 lo))
    else match rd s (wordAddr a + 8) with
      | (s, .error f) => (s, .error f)
      | (s, .ok hi) => (s, .ok (BitVec.ofNat 64 ((hi * 2 ^ 64 + lo) / 256 ^ (a.toNat % 8))))

/-- The row's addresses; `link` is what its list gave. -/
def rowOf (ws : List Word) (i p : Nat) (link : Word) : Row :=
  let n := rRow ws
  let d := rDrow ws
  let dst := rowAt (rDst ws) (rDrp ws) (if rKind ws = 2 || rKind ws = 3 then 0 else rDpp ws) i p
  match rKind ws with
  | 2 | 3 => { src := some link, dst := dst, n := n, d := d }
  | 4 => { src := some (rowAt (rSrc ws) (rSrp ws) 0 i 0), dst := link, n := n, d := d }
  | 5 => { src := none, dst := dst, n := n, d := d }
  | _ => { src := some (rowAt (rSrc ws) (rSrp ws) (rSpp ws) i p), dst := dst, n := n, d := d }

/-- How a record carries its rows. -/
def State.carryOf (s : State) (h : Nat) (ws : List Word) : Carry :=
  let d := (s.rankOfVa h (rDst ws)).getD 0
  let extra := (s.destRanks h ws).map fun (r : Nat) => ((r : Int) - (d : Int)) * 2 ^ 20
  let extra := if extra.isEmpty then [0] else extra
  if rConv ws then
    let td := (Ty.ofTag (rDtag ws)).getD .none
    let ts := (Ty.ofTag (rStag ws)).getD .none
    { ws := ts.width, wd := td.width, conv := some (td, ts), sfe := rSfe ws, dfe := rDfe ws, extra := extra }
  else { sfe := rSfe ws, dfe := rDfe ws, extra := extra }

/-- The images that a record hands on when its rows are written (R185, R361). -/
def State.makeOffers (s : State) (h : Nat) (r : Run) : State :=
  if !rFo r.ws then s
  else (s.destCores h r.ws).foldl (fun s p =>
    { s with offers := s.offers ++ [{ id := s.nextId, pid := p, image := rImage r.ws, chain := h, rc := r.rc }]
             nextId := s.nextId + 1 }) s

/-- The record has moved everything. -/
def State.endRun (s : State) (h : Nat) (r : Run) : State :=
  (s.setRun h { r with ended := true }).makeOffers h r

/-- The next row, or the end. -/
def State.nextRow (s : State) (h : Nat) (r : Run) (acks : List Nat) : State :=
  let r := { r with got := [], link := none, front := false, acks := r.acks ++ acks
                    moved := if rKind r.ws = 3 then r.moved + 1 else r.moved }
  if r.row < rRows r.ws then s.setRun h { r with row := r.row + 1 }
  else if r.plane < rPlanes r.ws && rKind r.ws != 3 then s.setRun h { r with row := 0, plane := r.plane + 1 }
  else s.endRun h r

/-- Destination words with the offset of each copy, copy by copy. -/
def copies (extra : List Int) (ws : List DWord) : List (Int × DWord) := extra.flatMap fun x => ws.map fun w => (x, w)

/-- All source words of the row are there: write it. -/
def State.writeRow (s : State) (h : Nat) (r : Run) (row : Row) (c : Carry) : State :=
  let ws := r.ws
  let side := recW ws 5
  let bits : State × Except (Nat × Word) (List RWord) :=
    if rSides ws then
      s.sideWords h r.rc side (((wordAddr (row.src.getD 0)).toNat - rSrc ws) / 8) r.got
    else (s, .ok r.got)
  match bits with
  | (s, .error f) => s.runFails h r f
  | (s, .ok got) =>
    let v := if rKind ws = 5 then fillValue (rSrc ws) row.dst.toNat row.n else rowValue row c got
    let words := destWords row c v got
    let sc := if rSidec ws then some (side, rDst ws) else none
    match s.writeWords h r.rc row.dst c sc (copies c.extra words) [] with
    | (s, .error f) => s.runFails h r f
    | (s, .ok acks) => s.nextRow h r acks

/-- A range lock of other work stands on the bytes that the row moves (R159, R367). -/
def State.rowLocked (s : State) (h : Nat) (rc : CRec) (row : Row) : Bool :=
  (row.src.any fun a => s.engLocked h rc a row.n false) || s.engLocked h rc row.dst row.d true

/-- Move on with the row whose addresses are known. It waits while other work has its bytes locked. -/
def State.doRow (s : State) (h : Nat) (r : Run) (row : Row) : State :=
  let c := s.carryOf h r.ws
  let n := match row.src with
    | some a => wordsOf a.toNat row.n
    | none => 0
  if s.rowLocked h r.rc row then s.setRun h r
  else
    let s := s.readWords h r row c (n - r.got.length + 1)
    match (s.chain h).run with
    | none => s
    | some r =>
      if r.fault.isSome || r.waiting.isSome || r.got.length < n then s
      else match s.engReady h r.rc row.dst row.d (if c.dfe = 0 then rW else rW + rF) with
        | (s, true) => s.writeRow h r row c
        | (s, false) => s

/-- The cause for which a row that a list names stops its record: under a full/empty mode its address is a
multiple of 8, and a word that takes a bit is not one of the host half (R355). -/
def State.badRow (s : State) (h : Nat) (ws : List Word) (e : Word) : Option Nat :=
  let out := rKind ws = 4
  let need := if out then (if rDfe ws = 0 then rW else rW + rF) else if rSfe ws = 0 then rR else rR + rF
  if ((rSfe ws != 0 || rDfe ws != 0) && e.toNat % 8 != 0) || (out && rDfe ws != 0 && !rSidec ws && isHost e) then some 7
  else s.badBytes h e (rRow ws) out true need

/-- The list entry of the row, checked when it is reached (R356, R502). -/
def State.linkRow (s : State) (h : Nat) (r : Run) : State :=
  let k := rKind r.ws
  match s.listEntry h r.rc (if k = 4 then rDst r.ws else rSrc r.ws) r.row with
  | (s, .error f) => s.runFails h r f
  | (s, .ok e) =>
    if k = 3 && e = 0 then s.endRun h { r with res := 3 }
    else match s.badRow h r.ws e with
    | some c => s.runFails h r (c, e)
    | none => s.doRow h { r with link := some e } (rowOf r.ws r.row r.plane e)

/-- R182, R355–R358. -/
def execCopyRecordRow (h : Nat) (s : State) : Out :=
  .next (match (s.chain h).run with
    | none => s
    | some r =>
      if r.ended || r.fault.isSome || r.waiting.isSome then s
      else match rKind r.ws with
      | 2 | 3 | 4 => match r.link with
        | none => s.linkRow h r
        | some e => s.doRow h r (rowOf r.ws r.row r.plane e)
      | 1 | 5 | 9 => s.doRow h r (rowOf r.ws r.row r.plane 0)
      | _ => s)

/-! ### COW (R360) -/

/-- Read all words of a range that waits for nothing. -/
def State.readPlain (s : State) (h : Nat) (rc : CRec) (va : Word) : Nat → State × Except (Nat × Word) (List RWord)
  | 0 => (s, .ok [])
  | n + 1 =>
    match s.engPlain h rc va rR with
    | (s, .error f) => (s, .error f)
    | (s, .ok w) => match State.readPlain s h rc (va + 8) n with
      | (s, .ok l) => (s, .ok (w :: l))
      | r => r

/-- Move `n` bytes, bits and modes apart. -/
def State.moveBytes (s : State) (h : Nat) (rc : CRec) (src dst : Word) (n : Nat) :
    State × Except (Nat × Word) (List Nat) :=
  let row : Row := { src := some src, dst := dst, n := n, d := n }
  match s.readPlain h rc (wordAddr src) (wordsOf src.toNat n) with
  | (s, .error f) => (s, .error f)
  | (s, .ok got) => s.writeWords h rc dst {} none (copies [0] (destWords row {} (rowValue row {} got) got)) []

/-- Write eight bytes. -/
def State.putWord (s : State) (h : Nat) (rc : CRec) (dst v : Word) (acks : List Nat) :
    State × Except (Nat × Word) (List Nat) :=
  let row : Row := { src := none, dst := dst, n := 8, d := 8 }
  s.writeWords h rc dst {} none (copies [0] (destWords row {} v.toNat [])) acks

/-- The step on a reference count: minus 1 above 1. Its value says whether the block is cloned. -/
def cowCount (_ : Nat) (w : Word) (full p : Bool) : OpRes :=
  if p then ⟨.poisoned, w, full, p, false⟩
  else if 1 < w.toNat then ⟨.ok 1, w - 1, full, p, true⟩ else ⟨.ok 0, w, full, p, false⟩

def State.countStep (s : State) (h : Nat) (rc : CRec) (va : Word) : State × Except Nat Bool :=
  let res := fun (r : Res) => match r with
    | .ok v => Except.ok (v == 1)
    | .poisoned => .error 0x0E
    | .unready => .error 0x0E
  if va.toNat % 8 ≠ 0 then (s, .error 7)
  else match s.spot h va true false rA with
  | .error c => (s, .error c)
  | .ok (.ls pid off) => let (s, r) := s.lsStep pid off cowCount; (s, res r)
  | .ok _ => match s.homeStep rc.dom va rA 255 cowCount (fun _ => true) with
    | (s, .absent) => (s, .error 0x0B)
    | (s, .fault c) => (s, .error c)
    | (s, .done r) => (s, res r)

/-- The whole of a COW. -/
def State.cow (s : State) (h : Nat) (r : Run) : State :=
  let b := rRow r.ws
  let src := BitVec.ofNat 64 (rSrc r.ws)
  let dst := BitVec.ofNat 64 (rDst r.ws)
  match s.listEntry h r.rc (rSrc r.ws) 0 with
  | (s, .error f) => s.runFails h r f
  | (s, .ok e) =>
    let cnt := e + BitVec.ofNat 64 b
    let ready := s.engReady h r.rc dst (b + 8) rW
    let ready' := ready.1.engReady h r.rc src 8 rW
    let s := ready'.1
    if s.engLocked h r.rc e b false || s.engLocked h r.rc cnt 8 true || !(ready.2 && ready'.2) then s
    else match s.countStep h r.rc cnt with
    | (s, .error c) => s.runFails h r (c, cnt)
    | (s, .ok false) => s.endRun h { r with res := 1 }
    | (s, .ok true) =>
      match s.moveBytes h r.rc e dst b with
      | (s, .error f) => s.runFails h r f
      | (s, .ok acks) => match s.putWord h r.rc (dst + BitVec.ofNat 64 b) 1 acks with
        | (s, .error f) => s.runFails h r f
        | (s, .ok acks) => match s.putWord h r.rc src dst acks with
          | (s, .error f) => s.runFails h r f
          | (s, .ok acks) => s.endRun h { r with res := 2, acks := acks }

/-- R360. -/
def execCowStep (h : Nat) (s : State) : Out :=
  .next (match (s.chain h).run with
    | some r => if rKind r.ws = 6 && !r.ended && r.fault.isNone then s.cow h r else s
    | none => s)

/-! ### Follow-on images (R185, R361, R502) -/

/-- A register of an image: a word of the follow-on block of the core. -/
def State.imageReg (s : State) (pid : Nat) (d : Spec) : Word :=
  BitVec.ofNat 64 (s.rd (lsAddr pid ((s.core pid).fobase + 8 * d.toNat)) 8)

/-- The fault for which the array refuses an image: alignment, range, descriptor. -/
def imageFault (o : Offer) (p : XPlan) : Option (Nat × Word) :=
  match p.aligns.find? fun e => e.1.toNat % e.2 != 0 with
  | some e => some (7, e.1)
  | none => match p.ranges.find? MRange.outside with
    | some r => some (6, r.off)
    | none => if p.bad then some (1, o.rc.va) else none

/-- Offer an image once. -/
def State.tryOffer (s : State) (o : Offer) : State :=
  let gone := fun (s : State) => { s with offers := s.offers.filter (·.id != o.id) }
  match followOn [0, 0, 0, 0, 0, 0, BitVec.ofNat 64 o.image, BitVec.ofNat 64 (o.image / 2 ^ 64)] with
  | none => gone s
  | some x =>
    let c := s.core o.pid
    let G := s.imageReg o.pid
    let p := mmaPlan G x
    let w := { workOf s (.mma x) x p G o.rc.ctx o.rc.gen o.rc.ip o.rc.cls {} c.dom with chain := some o.chain }
    match imageFault o p with
    | some f => (gone s).workTrap o.pid w (f.1, f.2, 0)
    | none =>
      let skip := if o.locked then
          (c.locks.filter fun e => e.2.kind == 2 && e.2.owner == recKey o.chain o.rc.num).map (·.1) else []
      match s.offerWork o.pid w p none skip with
      | .ok s1 => gone s1
      | .busy _ => s
      | .withheld s1 => s1

/-- R361. The engine goes on offering while the core is stopped (R456, R528). -/
def execFollowOnOffer (id : Nat) (s : State) : Out :=
  .next (match s.offers.find? fun o => o.id == id with
    | some o => s.tryOffer o
    | none => s)

/-! ### Completion (R184) -/

/-- The locks of a record go, on every core (R184 step 2). -/
def State.dropRecord (s : State) (h num : Nat) : State :=
  s.cores.foldl (fun s e =>
    if e.2.locks.any fun l => l.2.kind == 2 && l.2.owner == recKey h num then
      (s.setCore e.1 ((s.core e.1).dropLocks fun l => l.kind == 2 && l.owner == recKey h num)).locksFreed e.1
    else s) s

/-- Step 5: the signal, then the chain is free for its next record. -/
def State.signalRecord (s : State) (h : Nat) (r : Run) : State :=
  let ws := r.ws
  let s := if rSidecar ws || rSinc ws = 0 then s
    else if rSigd ws then (s.destCores h ws).foldl (fun s p => s.signal p (rSsem ws) (rSinc ws)) s
    else match s.chainCore h with
      | some p => s.signal p (rSsem ws) (rSinc ws)
      | none => s
  let s := s.setChain h { s.chain h with run := none, recs := (s.chain h).recs.tail }
  match s.chainCore h with
  | some p => s.wakeIf p (· == .busy 1)
  | none => s

/-- Step 4: the completion record stands in the queue, or must wait (R368, R398). -/
def State.postRecord (s : State) (h : Nat) (r : Run) : State :=
  match (if rEvq r.ws then s.chainCore h else none) with
  | none => s.signalRecord h r
  | some p =>
    let c := s.core p
    if c.evqEn && c.posts.isEmpty && ringCount c.evqhead c.evqtail 64 < 64 then
      let cnt := if rKind r.ws = 3 then r.moved % 65536 else 0
      let w0 := BitVec.ofNat 64 (rTag r.ws * 2 ^ 48 + cnt * 2 ^ 16 + r.res * 2 ^ 8 + 1)
      ((s.postEvent p { w0 := w0, w1 := BitVec.ofNat 64 r.rc.num }).drainPosts p 1).signalRecord h r
    else s.setRun h { r with posting := true }

/-- The record's number reaches its core (R366): those who wait on it, or on a chain entry, wake. -/
def State.deliverSeq (s : State) (h num : Nat) : State :=
  let c := s.chain h
  let s := s.setChain h { c with delivered := num }
  match s.chainCore h with
  | some p => s.wakeIf p fun w => w == .seq h || w == .busy 1
  | none => s

/-- Steps 2 and 3, after a first offer of the record's images; false: step 3 waits for the page of the sequence
word. -/
def State.completeRecord (s : State) (h : Nat) (r : Run) : State × Bool :=
  let mine := fun (o : Offer) => o.chain == h && o.rc.num == r.rc.num
  let s := (s.offers.filter mine).foldl State.tryOffer s
  let s := s.dropRecord h r.rc.num
  let s := { s with offers := s.offers.map fun o => if mine o then { o with locked := false } else o }
  match s.homeWrite r.rc.dom (s.chain h).seqVa (BitVec.ofNat 64 r.rc.num) 255 none false with
  | (s, .absent) => (s, false)
  | (s, _) => (s.deliverSeq h r.rc.num, true)

/-- The record of a COPY packet that follows a completed one through NEXT (R381). -/
def CRec.follow (rc : CRec) : List CRec :=
  if rc.more = 0 then []
  else [{ rc with va := BitVec.ofNat 64 (recW rc.ws 0 / 64 * 64), num := rc.num + 1, more := rc.more - 1, ws := [] }]

/-- R184. Records of the command processors' chains end with step 1 (R381). -/
def execCopyRecordComplete (h : Nat) (s : State) : Out :=
  .next (match (s.chain h).run with
    | some r =>
      if !r.ended || r.fault.isSome || !r.acks.isEmpty then s
      else if (s.chain h).team.isNone then
        s.setChain h { s.chain h with
          run := none, recs := r.rc.follow ++ (s.chain h).recs.tail, delivered := r.rc.num }
      else if r.posting then s.postRecord h r
      else
        match s.completeRecord h r with
        | (s, false) => s
        | (s, true) => s.postRecord h { r with posting := true }
    | none => s)

/-- R368, R455, R471: what waits for a place in a core's event queue takes one, records of its chains
after those that the core itself posts. -/
def execEventRecordPost (pid : Nat) (s : State) : Out :=
  .next (
    let s := s.postAll pid
    s.chains.foldl (fun s e => match e.2.run with
      | some r => if r.posting && s.chainCore e.1 == some pid then s.postRecord e.1 r else s
      | none => s) s)

/-! ### Faults of work (R450) -/

/-- A record of a COPY packet stops: no context is there to take a trap, its chain stops until the next
packet on it, and its packet does not complete. -/
def State.packetRecordFails (s : State) (h : Nat) (r : Run) : State :=
  let s := s.setChain h { s.chain h with
    run := none, recs := (s.chain h).recs.tail, stopped := true, semAsked := false, semMet := false }
  let cp := s.cp
  let mark := fun (p : Packet) => if p.q = r.rc.ctx && p.idx = r.rc.gen then { p with lost := true } else p
  { s with cp := { cp with packets := cp.packets.map mark } }

/-- A record stops: its locks go, the chain stops, and its trap is held. -/
def State.recordFails (s : State) (h : Nat) : State :=
  let c := s.chain h
  match c.run with
  | none => s
  | some r => match r.fault with
    | none => s
    | some f =>
      if c.team.isNone then s.packetRecordFails h r
      else
        let s := s.dropRecord h r.rc.num
        let s := s.setChain h { s.chain h with
          run := none, recs := (s.chain h).recs.tail, stopped := true, semAsked := false, semMet := false }
        match s.chainCore h with
        | none => s
        | some p =>
          let idx := r.plane * (rRows r.ws + 1) + r.row
          (s.wakeIf p (· == .busy 1)).holdTrap p r.rc.ctx r.rc.gen
            { cause := f.1, info := f.2, src := r.rc.ip, srcx := BitVec.ofNat 64 (idx * 2 ^ 32) + r.rc.cls }

/-- R450. -/
def execWorkFault (u : WorkUnit) (s : State) : Out :=
  .next (match u with
    | .sweep pid => s.sweepFault pid
    | .matrix pid => s.matrixFault pid
    | .chain h => s.recordFails h)

end Sys2Proof.Machine
end

