-- ==== Sys2Proof/Machine/Fabric.lean ====
section
/-! DEFINITION. Accesses through the Pelub fabric: those that arrive here, the answers to those that left,
and the ones that are never answered (R67, R174–R177, R408, R483, R520). -/

namespace Sys2Proof.Machine
open Sys2Proof

/-- The generation of a context of another device, as an access of it or the news of its end says: a watch of another
generation no longer stands, and is removed (R116, R177). How the news comes: DESIGN CHOICE, log entry 122. -/
def State.remoteGen (s : State) (src pid ctx gen : Nat) : State :=
  let s := { s with remoteGens := s.remoteGens.put (remoteKey src pid ctx) gen }
  s.removeHomeWatches fun w => w.dev == some src && w.pid == pid && w.ctx == ctx && w.gen != gen

/-- An access of another device is performed here, or refused; the answer leaves the package. A watch
goes into the directory alone (R177). -/
def State.fabricIn (s : State) (src dom off : Nat) (op : HomeOp) (park : Bool) (pid ctx gen : Nat)
    (front : Bool) : State :=
  let s := s.remoteGen src pid ctx gen
  let (s, a) := s.fabricOp src dom off op
  match a with
  | .done .unready =>
    if park then
      (s.addWatch { watchOf op (wordKey dom (fabricVa off)) pid ctx gen with dev := some src } false front).1
    else s
  | _ => s

/-- The value of an answer in the register form of its operation. -/
def answerValue (op : HomeOp) (v : Word) : Word :=
  match op with
  | .load t _ | .atomic _ t _ _ => t.ext v.toNat
  | _ => v

/-- The answer to a request of an engine. On a word in the unwanted state the engine waits where its watch
stands (R182); without one, or when that watch has been woken already, it asks again. Poison is
carried (R475). -/
def State.engineAnswer (s : State) (h : Nat) (q : HomeReq) (r : FabricAnswer) : State :=
  match (s.chain h).run with
  | none => s
  | some run =>
    let run := { run with acks := run.acks.filter (· != q.id)
                          waiting := if run.waiting = some q.id then none else run.waiting }
    match r with
    | .refused => s.runFails h run (6, q.va)
    | .unready w => s.setRun h (if run.rung then { run with rung := false, front := rSfe run.ws == 2 }
        else if w && q.park then { run with waiting := some q.id, afar := true } else run)
    | .both v full p => s.setRun h { run with got := run.got ++ [⟨v, full, p⟩], rung := false }
    -- its data are lost
    | .poisoned => State.setRun { s with free := s.free + 1 } h
        { run with got := run.got ++ [⟨Config.freeValue s.free, true, true⟩], rung := false }
    | .done v => match q.op with
      | .put _ _ _ _ => s.setRun h run
      | _ => s.setRun h { run with got := run.got ++ [⟨v, true, false⟩], rung := false }

/-- A remote device answers a request. A poisoned word traps at its collection (R475). -/
def State.fabricAnswer (s : State) (q : HomeReq) (r : FabricAnswer) : State :=
  match q.chain with
  | some h => State.engineAnswer { s with homeReqs := s.homeReqs.erase q } h q r
  | none => s.reply q (match r with
    | .done v | .both v _ _ => .ok (answerValue q.op v)
    | .poisoned => .trap 0x0E q.va
    | .unready w => .unready (w && q.park)
    | .refused => .trap 6 q.va)

/-- The request of a number that has left for another device. -/
def State.fabricReq (s : State) (id : Nat) : Option HomeReq :=
  s.homeReqs.find? fun q => q.id == id && isFabric q.va && (s.loopback q.va).isNone

/-- A remote home has woken a watch: of a context, or of an engine that works for it, whose place at the head of the
word's list is kept when it consumes (R81). An engine whose answer is still on its way finds the wake when that comes,
so that none is lost (R182). -/
def State.fabricWake (s : State) (pid ctx gen : Nat) (changing : Bool) : State :=
  let w : Watch := { word := 0, want := some true, changing := changing, pid := pid, ctx := ctx, gen := gen }
  let s := if s.watchLive w then s.wakeWatch w else s
  s.chains.foldl (fun s e => match e.2.run with
    | some r =>
      if s.chainCore e.1 == some pid && r.rc.ctx == ctx && r.rc.gen == gen && changing == (rSfe r.ws == 2) &&
          rSfe r.ws != 0 then
        if r.afar then s.setRun e.1 { r with waiting := none, afar := false, front := changing }
        else if s.homeReqs.any fun q => q.chain == some e.1 && r.waiting == some q.id then
          s.setRun e.1 { r with rung := true }
        else s
      else s
    | none => s) s

/-- The buffered store of a number that has left for another device. -/
def State.awayStore (s : State) (pid seq : Nat) : Option SEntry :=
  (s.core pid).sbuf.find? fun e => e.seq == seq && e.state == 1 && isFabric e.va && (s.loopback e.va).isNone

/-- R408, R483. An answer to a buffered store frees it or makes it fault. -/
def execFabricAccess (a : FabricArg) (s : State) : Out :=
  .next (match a with
    | .inbound src dom off op park pid ctx gen front => s.fabricIn src dom off op park pid ctx gen front
    | .generation src pid ctx gen => s.remoteGen src pid ctx gen
    | .wake pid ctx gen changing => s.fabricWake pid ctx gen changing
    | .answer id r => match s.fabricReq id with
      | some q => s.fabricAnswer q r
      | none => s
    | .storeAnswer pid seq ok =>
      match s.awayStore pid seq with
      | some e => if s.storeBehind pid e then s
        else if ok then s.ackStore pid seq else s.faultStore pid e 0x0C
      | none => s
    | .depart => { s with outbox := s.outbox.tail })

/-- The number under which a buffered store to another device runs out of time. -/
def storeId (pid seq : Nat) : Nat := 2 ^ 64 + pid * 2 ^ 32 + seq

/-- A buffered store to another device that is not acknowledged after 1 ms is refused: it faults (R469, R520). -/
def State.storeTimeout (s : State) (pid seq : Nat) : State :=
  match s.awayStore pid seq with
  | some e => if e.ticks + tMs 1 ≤ s.ticks && !s.storeBehind pid e then s.faultStore pid e 0x0C else s
  | none => s

/-- R520. The number of a request, or that of a buffered store. -/
def execFabricTimeout (id : Nat) (s : State) : Out :=
  .next (match s.fabricReq id with
    | some q => if q.ticks + tMs 1 ≤ s.ticks then s.fabricAnswer q .refused else s
    | none => if 2 ^ 64 ≤ id then s.storeTimeout ((id - 2 ^ 64) / 2 ^ 32) (id % 2 ^ 32) else s)

end Sys2Proof.Machine
end

