-- ==== Sys2Proof/Machine/Queue.lean ====
section
/-! DEFINITION. The host's requests and the command processors: ATS and PRI, doorbells, the checks of
packets, their start and their completion (R45, R170, R173, R369–R376, R381–R383, R402, R405, R407,
R409–R411, R434, R435, R467, R510, R511, R518). -/

namespace Sys2Proof.Machine
open Sys2Proof

/-- What a step that waits for a page leaves of `t`: the page that it has asked for. -/
def State.asked (s t : State) : State := { s with xlates := t.xlates, pageIns := t.pageIns, pri := t.pri }

/-- How a series of accesses to memory went. -/
inductive Io (α : Type) where
  | done (s : State) (a : α)
  /-- a page is being brought in -/
  | wait (s : State)
  | fail (s : State)
deriving DecidableEq, Repr

/-! ### The host's translations (R173, R407, R467) -/

/-- The pages of the host half that an invalidation names: of the domains bound to the PASID. -/
def State.atsPage (s : State) (pasid va size : Nat) (page : Nat) : Bool :=
  let a := (page - 2 ^ 64) % 2 ^ 44 * 4096
  2 ^ 64 ≤ page && s.pasidOf ((page - 2 ^ 64) / 2 ^ 44) == some pasid && overlap a 4096 va size

/-- Every copy of the lines goes, instructions included. -/
def State.loseAll (s : State) (f : Nat → Bool) : State :=
  let s := s.loseLines f
  { s with cores := s.cores.mapVals fun c => c.loseCode f }

/-- R173. Translations of the range go and every line of it is invalidated; requests not yet performed
and store entries are translated anew when they are. -/
def execAtsInvalidation (pasid va size : Nat) (s : State) : Out :=
  let f := s.atsPage pasid va size
  .next (State.loseAll { s with xlates := s.xlates.filter fun e => !f e.1 } fun key =>
    keyHost key && f (linePage key))

/-- A page request has ended without success: the loads that waited for it turn into faults, and so do
the fetches; others find the failure at the home. -/
def State.pageFailed (s : State) (key : Nat) : State :=
  let waits := s.cores.any fun e => e.2.ctxs.any (fun x => match x.2.wait with
      | some ⟨.parkPage k, _, _⟩ | some ⟨.fetchPage k, _, _⟩ => k == key
      | _ => false) ||
    e.2.lineReqs.any (fun r => r.fill == some .absent && pageKey r.dom r.va == key) ||
    e.2.sbuf.any fun b => b.state == 2 && pageKey b.dom b.va == key
  let fail := fun (c : Core) =>
    let again := fun (e : SEntry) => if e.state = 2 && pageKey e.dom e.va = key then { e with state := 1 } else e
    { c with
      absents := c.absents.map (fun (a : Absent) => if a.page = key then { a with failed := true } else a)
      sbuf := c.sbuf.map again }
  let turn := fun (dom : Nat) (a : Word) (ans : Answer) => match ans with
    | Answer.absent _ => if pageKey dom a = key then Answer.trap 0x0B a else ans
    | _ => ans
  let slotted := fun (c : Core) (x : Ctx) =>
    { x with slot := x.slot.map fun (sl : Slot) => { sl with ans := sl.ans.map (turn c.dom sl.addr) } }
  let core := fun (c : Core) =>
    let d := fail c
    { d with ctxs := d.ctxs.mapVals (slotted c) }
  let sent := fun (m : ReplyMsg) => { m with ans := turn (s.core m.pid).dom m.addr m.ans }
  let s := { s with cores := s.cores.mapVals core
                    replies := s.replies.map sent
                    priFailed := if waits then setAdd s.priFailed key else s.priFailed }
  s.wakeAll fun
    | .page k | .parkPage k | .fetchPage k => k == key
    | _ => false

/-- The domains that queues bind to a PASID. -/
def State.domsOf (s : State) (pasid : Nat) : List Nat :=
  (((List.range 64).filter fun q => s.qState q != 0 && fld (s.desc q 1) 28 20 == pasid).map fun q =>
    fld (s.desc q 1) 48 16).dedup

/-- R407, R467. After a Response Failure no page request is raised until PRI is enabled again. -/
def execPriResponse (pasid page : Nat) (r : PriResult) (s : State) : Out :=
  let key := pasid * 2 ^ 44 + page
  .next (
    if !s.pri.contains key then s
    else
      let keys := (s.domsOf pasid).map fun d => 2 ^ 64 + d * 2 ^ 44 + page
      let s := { s with pri := setDel s.pri key }
      let there := { s with hostPages := match s.hostPages.find? key with
        | some h => s.hostPages.put key { h with resident := true }
        | none => s.hostPages }
      let s := match r with
        | .success => State.pagedIn there keys.contains
        | .invalidRequest => keys.foldl State.pageFailed s
        | .responseFailure => keys.foldl State.pageFailed { s with priOn := false }
      -- pages that found no place for their request may ask again
      s.pagedIn fun k => 2 ^ 64 ≤ k && !keys.contains k && !s.priAsked k)

/-! ### Descriptors and rings (R369, R370, R405) -/

def State.qHead (s : State) (q : Nat) : Nat := fld (s.desc q 3) 0 32
def State.qTail (s : State) (q : Nat) : Nat := fld (s.desc q 4) 0 32
def State.qDom (s : State) (q : Nat) : Nat := fld (s.desc q 1) 48 16
def State.qPrio (s : State) (q : Nat) : Nat := fld (s.desc q 1) 0 3
def State.qSize (s : State) (q : Nat) : Nat := 2 ^ (fld (s.desc q 1) 4 4 + 4)

/-- A write of the machine to word `w` of a descriptor. -/
def State.putDesc (s : State) (q w v : Nat) : State := s.ownWrite (s.descVa q w) v

/-- R405: a store of four bytes, which leaves a poisoned word poisoned (R475). -/
def execDoorbellWrite (q tail : Nat) (s : State) : Out :=
  .next (if q < 64 then s.ownPut (s.descVa q 4) (tail % 2 ^ 32) 0x0F else s)

/-- R370, R511: a TAIL beyond a full ring stops the queue. -/
def execTailCheck (q : Nat) (s : State) : Out :=
  .next (
    if s.qState q = 1 && s.qSize q < (s.qTail q + 2 ^ 32 - s.qHead q) % 2 ^ 32 then
      s.queueFault q 5 (s.qHead q) 0 0 0 0 0 0 0 2
    else s.touch (s.descVa q 4) false)

/-- The eight words of a packet slot. -/
inductive Slot8 where
  | words (ws : List Word)
  /-- the words of bits `bad` are lost -/
  | poisoned (ws : List Word) (bad : Nat)
  | unreadable
deriving DecidableEq, Repr

/-- Eight words that have been read, each with its poison. -/
def Slot8.of (l : List (Word × Bool)) : Slot8 :=
  let bad := ofBits (l.map (·.2))
  if bad = 0 then .words (l.map (·.1)) else .poisoned (l.map (·.1)) bad

/-- A slot of a host-half ring is read from host memory itself, under the domain's translation (R402, R405); one
of a device ring at its homes. -/
def State.readSlot (s : State) (dom : Nat) (va : Word) : State × Slot8 :=
  if isHost va then
    match s.xlateHost dom va rR with
    | (s, .ok a) => (s, Slot8.of ((List.range 8).map fun i => (BitVec.ofNat 64 (s.rd (a + 8 * i) 8), s.isPoison (a + 8 * i))))
    | (s, _) => (s, .unreadable)
  else
    let (s, l) := (List.range 8).foldl (fun (p : State × List WordAns) i =>
      let (s, a) := p.1.quietRead dom (va + BitVec.ofNat 64 (8 * i))
      (s, p.2 ++ [a])) (s, [])
    let ws := l.filterMap fun
      | .ok w _ p => some (w, p)
      | _ => none
    (s, if ws.length < 8 then .unreadable else Slot8.of ws)

def State.slotVa (s : State) (q : Nat) : Word :=
  BitVec.ofNat 64 (s.desc q 0 + 64 * (s.qHead q % s.qSize q))

/-! ### Fields of a packet (R371) -/

def pkKind (ws : List Word) : Nat := recF ws 0 0 4
def pkBar (ws : List Word) : Bool := bitAt (recW ws 0) 7 || pkKind ws == 6 || pkKind ws == 7
def pkWait (ws : List Word) : Bool := bitAt (recW ws 0) 5
def pkSig (ws : List Word) : Bool := bitAt (recW ws 0) 4

/-- The packet's wait is met (R372): its signal word is read at its home, under the domain's rights. -/
def State.waitMet (s : State) (q : Nat) (ws : List Word) : State × Bool :=
  if !pkWait ws then (s, true)
  else match s.quietRead (s.qDom q) (BitVec.ofNat 64 (s.desc q 2 + 8 * recF ws 6 0 13)) with
    | (s, .ok v _ _) => (s, decide (recF ws 6 32 32 ≤ v.toNat))
    | (s, _) => (s, false)

/-- The head packet of a queue may start (R373), or is damaged; the pages that this look asks for, and its mark in the
leaf of the descriptors (R100). -/
def State.look (s : State) (q : Nat) : State × Bool :=
  let s := s.touch (s.descVa q 0) false
  if !(s.qState q == 1 && s.qHead q != s.qTail q) then (s, false)
  else match s.readSlot (s.qDom q) (s.slotVa q) with
    | (s, .unreadable) => (s, false)
    | (s, .poisoned _ _) => (s, true)
    | (s, .words ws) =>
      if pkBar ws && s.cp.packets.any fun p => p.q == q then (s, false) else s.waitMet q ws

def State.startable (s : State) (q : Nat) : Bool := (s.look q).2

/-- Queue numbers from the one after `last`, wrapping (R374). -/
def afterQueue (last : Option Nat) : List Nat :=
  match last with
  | none => List.range 64
  | some l => (List.range 64).map fun i => (l + 1 + i) % 64

/-- The queue whose head the command processors start next: highest PRIO, then round-robin. -/
def State.nextQueue (s : State) : Option Nat :=
  let ready := (List.range 64).filter s.startable
  ([7, 6, 5, 4, 3, 2, 1, 0].findSome? fun pr =>
    (afterQueue (s.cp.lastQ.find? pr)).find? fun q => ready.contains q && s.qPrio q == pr)

/-! ### The checks of R511 -/

/-- Code 02h: what must be zero. -/
def pkReserved (ws : List Word) : Bool :=
  let k := pkKind ws
  (k != 1 && recF ws 0 8 56 != 0) || (k != 6 && bitAt (recW ws 0) 6) || recF ws 6 13 19 != 0 ||
  recF ws 7 13 19 != 0 ||
  (k = 2 && (recF ws 2 24 40 != 0 || recW ws 3 != 0 || recW ws 4 != 0 || recW ws 5 != 0)) ||
  (k = 7 && (recF ws 1 28 36 != 0 || recF ws 3 44 20 != 0))

/-- Read `n` words under a domain. -/
def State.readTable (s : State) (dom : Nat) (va : Word) : Nat → Io (List Word)
  | 0 => .done s []
  | n + 1 => match s.quietRead dom va with
    | (s, .ok w _ _) => match State.readTable s dom (va + 8) n with
      | .done s l => .done s (w :: l)
      | r => r
    | (s, .absent) => .wait s
    | (s, .fault _) => .fail s

/-- The 16 task types in the 32 words of a table (R44). -/
def taskTypes (l : List Word) : List (Word × Word) := (List.range 16).map fun i => (l.getD (2 * i) 0, l.getD (2 * i + 1) 0)

/-- R45. -/
def taskTableOk (t : List (Word × Word)) : Bool :=
  let e0 := needOf (t.getD 0 (0, 0)).1
  t.zipIdx.all fun e =>
    let i := e.2
    let w := e.1.1.toNat
    let n := needOf e.1.1
    let k := if i = 0 then 1 else n.slots
    fld w 60 4 == 0 && fld w 0 11 == 0 && e.1.2.toNat / 256 == 0 &&
    (i == 0 || unusedType i e.1 || (1 ≤ n.slots && n.slots ≤ 10)) &&
    n.vreg ≤ 16 && n.treg ≤ 8 && n.sems ≤ 256 && n.ls ≤ 2 ^ 20 &&
    6 * e0.vreg + k * n.vreg ≤ 256 && 6 * e0.treg + k * n.treg ≤ 32 && e0.sems + k * n.sems ≤ 256 &&
    e0.ls + 6 * e0.ws + k * (n.ls + n.ws) ≤ 2 ^ 20

/-- The chain-binding table at `va`, up to its end (R376). -/
def State.chainTable (s : State) (dom : Nat) (va : Word) : Nat → Io (List (List Word))
  | 0 => .fail s
  | n + 1 => match s.readTable dom va 4 with
    | .wait s => .wait s
    | .fail s => .fail s
    | .done s l =>
      if l.getD 1 0 = 0 then .done s []
      else match State.chainTable s dom (va + 32) n with
        | .done s t => .done s (l :: t)
        | r => r

def bindEng (e : List Word) : Nat := recF e 0 12 4
def bindSlot (e : List Word) : Nat := recF e 0 8 3
def bindRank (e : List Word) : Nat := recF e 0 0 8

/-- R376. -/
def chainTableOk (size : Nat) (t : List (List Word)) : Bool :=
  (t.all fun e => recF e 0 16 48 == 0 && !bitAt (recW e 0) 11 && recF e 3 32 32 == 0 && bindEng e ≤ 11 &&
    bindRank e < size && recW e 1 % 64 == 0 && recW e 2 % 8 == 0 && recF e 3 0 32 % 64 == 0) &&
  (t.map fun e => (bindRank e, bindSlot e)).Nodup

/-- The two tables of a LAUNCH; they fail when they cannot be read or are not sound. -/
def State.launchTables (s : State) (dom : Nat) (ws : List Word) : Io (List (Word × Word) × List (List Word)) :=
  let chb := BitVec.ofNat 64 (recW ws 5)
  match s.readTable dom (BitVec.ofNat 64 (recW ws 3)) 32 with
  | .wait s => .wait s
  | .fail s => .fail s
  | .done s l => match (if chb = 0 then .done s [] else s.chainTable dom chb 2049) with
    | .wait s => .wait s
    | .fail s => .fail s
    | .done s c =>
      if taskTableOk (taskTypes l) && chainTableOk (recF ws 0 16 8 + 1) c then .done s (taskTypes l, c) else .fail s

/-- Code 03h: a field outside its limit. -/
def State.pkLimit (s : State) (ws : List Word) : Bool :=
  match pkKind ws with
  | 1 => recF ws 0 8 8 = 0 || recW ws 3 % 64 != 0 || recW ws 4 % 65536 != 0 || recW ws 5 % 32 != 0
  | 2 => 95 < recF ws 2 16 8
  | 5 => 7 < recW ws 2 || recW ws 3 % 64 != 0 || recW ws 4 % 64 != 0 || 2 ^ 28 < recW ws 3 + recW ws 4
  | 7 => recF ws 1 12 16 &&& s.pup.toNat == 0 || recF ws 3 0 44 % 65536 != 0
  | _ => false

/-- The lowest code that applies, of 01h to 03h. The tables of a LAUNCH come last, and their pages may have to
be brought in. -/
def State.pkCode (s : State) (q : Nat) (ws : List Word) : Io (Option Nat) :=
  let k := pkKind ws
  if k = 0 || 8 ≤ k then .done s (some 1)
  else if pkReserved ws then .done s (some 2)
  else if s.pkLimit ws then .done s (some 3)
  else if k != 1 then .done s none
  else match s.launchTables (s.qDom q) ws with
    | .done s _ => .done s none
    | .wait s => .wait s
    | .fail s => .done s (some 3)

/-- The code of a slot whose words of bits `bad` are lost: the lowest that its sound words give, else 04h. Without word
0 nothing says what the others are; the tables of a LAUNCH are read when both of their addresses are sound. -/
def State.damagedCode (s : State) (q : Nat) (ws : List Word) (bad : Nat) : Io Nat :=
  let sound := ws.zipIdx.map fun e => if bitAt bad e.2 then 0 else e.1
  let k := pkKind sound
  -- a lost word 1 may name every port
  let limits := if k = 7 && bitAt bad 1 then sound.set 1 (BitVec.allOnes 64) else sound
  if bitAt bad 0 then .done s 4
  else if k = 0 || 8 ≤ k then .done s 1
  else if pkReserved sound then .done s 2
  else if s.pkLimit limits then .done s 3
  else if k != 1 || bitAt bad 3 || bitAt bad 5 then .done s 4
  else match s.launchTables (s.qDom q) sound with
    | .done s _ => .done s 4
    | .wait s => .wait s
    | .fail s => .done s 3

/-! ### Breakpoints (R434, R435) -/

def State.bpMatches (s : State) (q : Nat) (ws : List Word) (n : Nat) : Bool :=
  let c := (s.bpc.get n 0).toNat
  bitAt c 63 && (s.bpa.get n 0).toNat == recW ws 1 && (bitAt c 59 || fld c 48 6 == q) &&
    (bitAt c 58 || fld c 16 16 == s.qDom q)

/-- The comparison sets HIT of every breakpoint that matches. -/
def State.bpHit (s : State) (ns : List Nat) : State :=
  { s with bpc := ns.foldl (fun m n => m.put n (BitVec.ofNat 64 (setBit (m.get n 0).toNat 60 true))) s.bpc }

def State.bpAct (s : State) (n : Nat) : Nat := fld (s.bpc.get n 0).toNat 61 2

/-! ### Starting the head packet -/

/-- The packet is taken: HEAD advances and the packet is under way. -/
def State.takePacket (s : State) (q : Nat) (ws : List Word) (ended : Bool) : State :=
  let head := s.qHead q
  let pr := s.qPrio q
  let s := s.putDesc q 3 (setFld (s.desc q 3) 0 32 (head + 1))
  let cp := s.cp
  { s with cp := { cp with
      packets := cp.packets ++ [{ q := q, idx := head, ws := ws, ended := ended }]
      lastQ := cp.lastQ.put pr q
      released := cp.released.filter fun e => e.1 != q } }

/-- The head packet of `q`, when it is this queue's turn and nothing is wrong with it, starts with `k`;
one that R511 faults stops the queue instead. A packet of another kind waits for its own step, and one whose pages
are not there waits for them. -/
def State.startPacket (s : State) (q kind : Nat) (k : State → List Word → State) : State :=
  if s.cp.reloading || s.root.health == 3 then s
  else if s.nextQueue != some q then (s.look q).1
  else
    let head := s.qHead q
    match s.readSlot (s.qDom q) (s.slotVa q) with
    | (s1, .unreadable) => s1
    | (s1, .poisoned ws bad) => match s1.damagedCode q ws bad with
      | .wait s1 => s1
      | .fail s1 => s1
      | .done s1 4 =>
        let s1 := s1.putDesc q 3 (setFld (s1.desc q 3) 0 32 (head + 1))
        s1.queueFault q 4 head 0 0 0 0 0 0 0 3
      | .done s1 code => s1.queueFault q code head 0 0 0 0 0 0 0 2
    | (s1, .words ws) => match s1.pkCode q ws with
      | .wait s1 => s1
      | .fail s1 => s1
      | .done s1 (some code) => s1.queueFault q code head 0 0 0 0 0 0 0 2
      | .done s1 none => if pkKind ws = kind then k s1 ws else s

/-- Before a LAUNCH or a WAIT, the copies of the domain's host half go (R170). -/
def State.dropHost (s : State) (dom : Nat) : State := s.loseAll fun key => keyHost key && keyDom key == dom

/-- A LAUNCH that R435 lets through: the grid begins. The tables are read before the copies of the domain's host half
go: DESIGN CHOICE, log entry 116. -/
def State.launch (s : State) (q : Nat) (ws : List Word) (stop : Bool) : State :=
  let dom := s.qDom q
  match s.launchTables dom ws with
  | .wait s => s
  | .fail s => s
  | .done s (types, binds) =>
    let g : Grid := {
      queue := q, pkt := s.qHead q, prio := s.qPrio q, dom := dom
      entry := BitVec.ofNat 64 (recW ws 1), arg := BitVec.ofNat 64 (recW ws 2)
      ttab := BitVec.ofNat 64 (recW ws 3), types := types, save := BitVec.ofNat 64 (recW ws 4)
      nsave := recF ws 0 48 16, binds := binds, teams := recF ws 0 24 24 + 1, size := recF ws 0 16 8 + 1
      dies := recF ws 0 8 8, stopAtStart := stop }
    let s := (s.dropHost dom).takePacket q ws false
    { s with grids := s.grids.put s.nextId g, nextId := s.nextId + 1 }

/-- R375, R435. -/
def execLaunchPacket (q : Nat) (s : State) : Out :=
  .next (s.startPacket q 1 fun s ws =>
    let ns := (List.range 8).filter (s.bpMatches q ws)
    if s.cp.released.contains (q, s.qHead q) then s.launch q ws false
    else
      let s1 := s.bpHit ns
      if ns.any fun n => s.bpAct n == 0 then
        let cp := s1.cp
        State.setQState { s1 with cp := { cp with released := cp.released ++ [(q, s.qHead q)] } } q 2
      else s1.launch q ws (ns.any fun n => s.bpAct n == 1))

/-- R372: SIGNAL and WAIT do nothing more than start and complete. -/
def execSignalPacket (q : Nat) (s : State) : Out :=
  .next (s.startPacket q 3 fun s ws => s.takePacket q ws true)
/-- R170, R372. -/
def execWaitPacket (q : Nat) (s : State) : Out :=
  .next (s.startPacket q 4 fun s ws => (s.dropHost (s.qDom q)).takePacket q ws true)

/-- R383. -/
def execMarkerPacket (q : Nat) (s : State) : Out :=
  .next (s.startPacket q 6 fun s ws =>
    let s := (s.putDesc q 6 (recW ws 1)).takePacket q ws true
    if bitAt (recW ws 0) 6 then s.msi q else s)

/-! ### COPY (R381) -/

/-- R381: the packet's records follow those already on the chain. The first of them is there, already advanced,
its packet named by queue and ring index; each of the others takes the place of the one before it, when that
has completed. -/
def execCopyPacket (q : Nat) (s : State) : Out :=
  .next (s.startPacket q 2 fun s ws =>
    let h := recF ws 2 16 8 * 64 + 63
    let c := s.chain h
    let n := recF ws 2 0 16
    let rec0 : CRec := { va := BitVec.ofNat 64 (recW ws 1), advanced := true, num := c.seq + 1, more := n, dom := s.qDom q
                         ctx := q, gen := s.qHead q, ip := 0, cls := 0, seqs := [], ws := [] }
    (s.setChain h { c with recs := c.recs ++ [rec0], seq := c.seq + n + 1, stopped := false }).takePacket q ws false)

/-- Every record of a COPY packet has completed. -/
def State.copyDone (s : State) (p : Packet) : Bool :=
  pkKind p.ws == 2 && !p.lost && (s.chain (recF p.ws 2 16 8 * 64 + 63)).recs.all fun r => !(r.ctx == p.q && r.gen == p.idx)

/-! ### WFILL (R96, R187, R382) -/

def State.dieEmpty (s : State) (die : Nat) : Bool := s.teams.all fun e => e.2.die != die || e.2.swapped

/-- Copy `n` words into a weight store, poison carried. -/
def State.fillStore (s : State) (dom die : Nat) (src : Word) (off : Nat) : Nat → Io Unit
  | 0 => .done s ()
  | n + 1 => match s.quietRead dom src with
    | (s, .ok w _ p) =>
      let a := wsAddr die off
      State.fillStore ((s.wr a 8 w.toNat).setPoison a p) dom die (src + 8) (off + 8) n
    | (s, .absent) => .wait s
    | (s, .fault _) => .fail s

/-- The WFILL of a queue that is the first of its die's, with the die empty. -/
def State.fillable (s : State) (q : Nat) : Option Packet :=
  s.cp.packets.find? fun p => p.q == q && pkKind p.ws == 5 && !p.ended && s.dieEmpty (recF p.ws 2 0 3) &&
    (s.die (recF p.ws 2 0 3)).filling.head? == some (p.q * 2 ^ 32 + p.idx)

/-- R382: a WFILL starts: it empties its die, after the WFILLs that started before it. The next quantum end swaps out
the teams of the die. -/
def State.startFill (s : State) (q : Nat) : State :=
  s.startPacket q 5 fun s ws =>
    let d := recF ws 2 0 3
    let k := q * 2 ^ 32 + s.qHead q
    (s.setDie d { s.die d with filling := (s.die d).filling ++ [k], emptied := false }).takePacket q ws false

/-- R382: with no team resident the oldest WFILL of its die fills the store, and dispatch resumes after the last;
any other step of it starts the head packet. -/
def execWfillPacket (q : Nat) (s : State) : Out :=
  .next (match s.fillable q with
    | none => s.startFill q
    | some p =>
      let d := recF p.ws 2 0 3
      match s.fillStore (s.qDom q) d (BitVec.ofNat 64 (recW p.ws 1)) (recW p.ws 3) (recW p.ws 4 / 8) with
        | .wait t => (s.asked t).startFill q
        | .fail _ => s.startFill q
        | .done t _ =>
          let t := t.setDie d { t.die d with filling := (t.die d).filling.tail }
          let cp := t.cp
          let done := fun (r : Packet) => if r.q = p.q && r.idx = p.idx then { r with ended := true } else r
          { t with cp := { cp with packets := cp.packets.map done } })

/-! ### CKPT (R409–R411) -/

/-- The cores of the partitions that a CKPT names. -/
def State.partsOf (s : State) (mask : Nat) : List (Nat × Part) := s.root.parts.filter fun e => bitAt mask e.1

/-- The words and bits of one frame. -/
def State.frameWords (s : State) (f : Nat) : List Nat := (List.range 8192).map fun i => s.rd (f * 65536 + 8 * i) 8
def State.framePoison (s : State) (f : Nat) : List Bool := (List.range 8192).map fun i => s.isPoison (f * 65536 + 8 * i)
def State.frameFull (s : State) (f : Nat) : Bool := (List.range 8192).all fun i => s.isFull (f * 65536 + 8 * i)

/-- Eight words to a flit. -/
def flitsOf : Nat → List Nat → List (List Nat)
  | 0, _ => []
  | n + 1, ws => ws.take 8 :: flitsOf n (ws.drop 8)

/-- A flit of the stream: its words, and bit i of the second when word i carries poison (R475). -/
abbrev Piece := List Nat × Nat

/-- A piece of words `ws` with page number `vpn` (R411): the piece flit, the body, the sidecar `side` of a page that
is not all full. The kind is the one that the encoder would choose, where it reproduces the piece and is no longer
than plain data, which a piece with a poisoned word takes; `n` numbers the piece. Word 1 is 0 where the kind gives it
no value. -/
def pieceFlits (vpn : Nat) (ws : List Nat) (bad : List Bool) (full : Bool) (side : List Nat) (n : Nat) : List Piece :=
  let lines := flitsOf 1024 ws
  let some_ := lines.filter fun l => l.any (· != 0)
  let map_ := flitsOf 2 ((List.range 16).map fun i => ((lines.drop (64 * i)).take 64).zipIdx.foldl
    (fun m e => if e.1.any (· != 0) then m + 2 ^ e.2 else m) 0)
  let v := ws.headD 0
  let body : Nat × Nat × List (List Nat) := match (if bad.any id then 0 else (Config.pieceKind n).toNat) with
    | 1 => if some_.isEmpty then (1, 0, []) else (0, 0, lines)
    | 2 => if ws.all (· == v) then (2, v, []) else (0, 0, lines)
    | 3 => if some_.length ≤ 1022 then (3, 0, map_ ++ some_) else (0, 0, lines)
    | _ => (0, 0, lines)
  let sk := if full then 0 else 1
  let mask := fun (i : Nat) => if body.1 = 0 then ofBits ((bad.drop (8 * i)).take 8) else 0
  ([vpn % 2 ^ 40 + body.1 * 2 ^ 40 + sk * 2 ^ 44, body.2.1, 0, 0, 0, 0, 0, 0], 0) ::
    body.2.2.zipIdx.map (fun e => (e.1, mask e.2)) ++ (if full then [] else (flitsOf 16 side).map fun l => (l, 0))

/-- The sidecar of a frame: one bit a word, 1 when it is full (R100). -/
def State.frameSide (s : State) (f : Nat) : List Nat :=
  (List.range 128).map fun i => ((List.range 64).map fun j =>
    if s.isFull (f * 65536 + 512 * i + 8 * j) then 2 ^ j else 0).sum

/-- The owned frames of the partitions in ascending order. -/
def State.ckptFrames (s : State) (ps : List (Nat × Part)) : List Nat :=
  (s.frames.filter fun (e : Nat × Word) =>
    e.2.getLsbD 0 && ps.any fun p => p.2.hbm.contains (e.1 * 65536 / (48 * 2 ^ 30))).map (·.1)

/-- The flits of the stream: header, pieces, end (R411). -/
def State.streamFlits (s : State) (parts : Nat) (fs : List Nat) : List Piece :=
  let body := fs.zipIdx.flatMap fun e => pieceFlits (fld (s.frames.get e.1 0).toNat 16 40) (s.frameWords e.1)
    (s.framePoison e.1) (s.frameFull e.1) (s.frameSide e.1) (s.free + e.2)
  ([1 + s.fabn.toNat * 2 ^ 16 + fs.length % 2 ^ 32 * 2 ^ 32, parts, 0, 0, 0, 0, 0, 0], 0) :: body ++
    [([2 ^ 64 - 1, body.length + 2, 0, 0, 0, 0, 0, 0], 0)]

/-- A word of the stream is written at its home here; `none`: its page is being brought in. -/
def State.writePiece (s : State) (dom : Nat) (va v : Word) (poison : Bool) : State × Bool :=
  match s.quietWrite dom va v none poison with
  | (s, .absent) => (s, false)
  | (s, _) => (s, true)

/-- A flit of the stream is written at offset `off` of device `dev`: it leaves for another device; on this one it
is a remote access of the domain at its home (R408), which waits for its page. -/
def State.writeFlit (s : State) (dom dev off : Nat) (p : Piece) : Io Unit :=
  if dev != s.fabn.toNat then
    .done { s with outbox := s.outbox ++
      [{ dev := dev, off := some off, ws := p.1.map (BitVec.ofNat 64), poison := p.2 }] } ()
  else if !s.imported dev dom rW then .done s ()
  else p.1.zipIdx.foldl (fun r e => match r with
    | .done s _ =>
      match s.writePiece dom (fabricVa (off + 8 * e.2)) (BitVec.ofNat 64 e.1) (bitAt p.2 e.2) with
      | (s, true) => .done s ()
      | (s, false) => .wait s
    | r => r) (.done s ())

/-- The stream is written from the target's offset onward, as far as the packet's limit reaches: R409 does not say
what follows beyond it. DESIGN CHOICE, log entry 59. -/
def State.writeStream (s : State) (p : Packet) (fl : List Piece) : Io Unit :=
  let ws := p.ws
  fl.zipIdx.foldl (fun r e => match r with
    | .done s _ =>
      if 64 * e.2 + 64 ≤ recW ws 4 then s.writeFlit (s.qDom p.q) (recF ws 1 0 12) (recF ws 3 0 44 + 64 * e.2) e.1
      else .done s ()
    | r => r) (.done s ())

/-- Nothing of the cores is under way: no message that may be performed, no store, no record begun (R54). -/
def State.coresDrained (s : State) (cs : List Nat) : Bool :=
  (cs.all fun p => ((s.core p).sbuf.all fun e => e.state == 3) && (s.core p).sweeps.isEmpty && (s.core p).mats.isEmpty) &&
  (s.msgs.all fun m => !(cs.contains m.pid) || m.isReply || (m.isSoftware && (s.msgCore m).any cs.contains)) &&
  s.chains.all fun e => e.2.run.isNone || (match s.chainCore e.1 with
    | some p => !cs.contains p
    | none => true)

/-- Every modified line of the slices goes back to its frame, and stays (R281, R410). -/
def State.writeBackAll (s : State) (f : Nat → Bool) : State :=
  (s.lines.filter fun e => e.2.dirty && f e.1).foldl (fun s e =>
    { s.writeLine e.2 (s.lineFrame e.1 e.2) with lines := s.lines.put e.1 { e.2 with dirty := false } }) s

/-- The stream is over in `s`, or no port is left for it (R520): the length is written, and then the cores resume. Until
its page is there the packet stays under way, as it stood in `s0`. -/
def State.endCkpt (s0 s : State) (p : Packet) (cs : List Nat) (len n : Nat) : State :=
  match s.writePiece (s.qDom p.q) (BitVec.ofNat 64 (recW p.ws 5)) (BitVec.ofNat 64 len) false with
  | (t, false) => s0.asked t
  | (s, true) =>
    let s := State.resume { s with free := s.free + n } (cs.filter fun p => (s.core p).stopReason == 3)
    let cp := s.cp
    let done := fun (r : Packet) => if r.q = p.q && r.idx = p.idx then { r with ended := true } else r
    { s with cp := { cp with packets := cp.packets.map done } }

/-- R410: the packet stops the cores; a later step of it, with nothing under way, writes the modified device lines
back and the stream out. -/
def execCkptPacket (q : Nat) (s : State) : Out :=
  .next (match s.cp.packets.find? fun p => p.q == q && pkKind p.ws == 7 && !p.ended with
    | some p =>
      let ps := s.partsOf (recW p.ws 2)
      let cs := ps.flatMap (·.2.cores)
      if recF p.ws 1 12 16 &&& s.pup.toNat == 0 then s.endCkpt s p cs (2 ^ 64 - 1) 0
      else if !s.coresDrained cs then s
      else
        let t := s.writeBackAll fun key => !keyHost key
        let fs := t.ckptFrames ps
        let fl := t.streamFlits (recW p.ws 2) fs
        match t.writeStream p fl with
        | .done t _ => s.endCkpt t p cs (64 * fl.length) fs.length
        | .wait t | .fail t => s.asked t
    | none => s.startPacket q 7 fun s ws =>
        let cs := (s.partsOf (recW ws 2)).flatMap (·.2.cores)
        (s.takePacket q ws false).fullStop (cs.filter fun p => !(s.core p).stopped) 3)

/-! ### Completion (R372) -/

/-- R372: the signal follows every effect of the packet. It waits for the page of its word. -/
def execPacketCompletion (q idx : Nat) (s : State) : Out :=
  .next (match s.cp.packets.find? fun p => p.q == q && p.idx == idx with
    | none => s
    | some p =>
      if !(p.ended || s.copyDone p) then s
      else
        let gone := fun (s : State) => let cp := s.cp; { s with cp := { cp with packets := cp.packets.erase p } }
        if !pkSig p.ws then gone s
        else match s.homeAdd (s.qDom q) (BitVec.ofNat 64 (s.desc q 2 + 8 * recF p.ws 7 0 13)) (recF p.ws 7 32 32) with
          | (s, .absent) => s
          | (s, _) => gone s)

end Sys2Proof.Machine
end

