-- ==== Sys2Proof/Machine/Preempt.lean ====
section
/-! DEFINITION. Save areas, whole-team swap, swap-in, moves of a rank, thermal migration (R50, R54–R57, R319,
R380, R401, R456, R458, R459, R526–R528). -/

namespace Sys2Proof.Machine
open Sys2Proof

/-! ### A block of the save area (R50) -/

def blockVa (g : Grid) (slot rank : Nat) : Nat := g.save.toNat + slot * saveSize g.size + rank * blockSize

/-- The three words of a core's stop record (R457). -/
def State.stopWords (s : State) (pid : Nat) : List Nat :=
  let c := s.core pid
  [c.stopCyc, c.stopSent * 2 ^ 32 + c.stopRecv, c.stopEpoch * 2 ^ 32 + c.stopReason * 2 ^ 24 + pid]

/-- The numbers of the words of a core's local store that are poisoned. -/
def State.poisonedWords (s : State) (pid : Nat) : List Nat :=
  (s.poison.filter fun w => lsWord pid 0 ≤ w && w < lsWord pid 0 + 131072).map (· - lsWord pid 0)

/-- The words of a block: local store, vector pool, tile pool, semaphores; then the core state, of which the stop
record is the first part, and the contexts, in a form that the manual does not give: free values. DESIGN CHOICE, log
entry 64. -/
def State.blockWords (s : State) (pid : Nat) : List RWord :=
  let c := s.core pid
  let plain := fun (n : Nat) => (⟨BitVec.ofNat 64 n, true, false⟩ : RWord)
  ((List.range 131072).map fun i =>
    let a := lsAddr pid (8 * i)
    ⟨BitVec.ofNat 64 (s.rd a 8), s.isFull a, s.isPoison a⟩) ++
  ((List.range 2048).map fun i => plain (fld (c.vregs.get (i / 8) {}).v (64 * (i % 8)) 64)) ++
  ((List.range 8192).map fun i => plain (fld (c.tregs.get (i / 256) {}).v (64 * (i % 256)) 64)) ++
  ((List.range 64).map fun i => plain (((List.range 4).map fun j =>
    c.sems.get (4 * i + j) 0 * 2 ^ (16 * j)).sum)) ++
  (s.stopWords pid).map plain ++ ((List.range 4541).map fun i => ⟨Config.freeValue (s.free + i), true, false⟩)

def State.writeBlock (s : State) (dom va : Nat) : List RWord → Io Unit
  | [] => .done s ()
  | w :: ws => match s.quietWrite dom (BitVec.ofNat 64 va) w.v (some w.full) w.poison with
    | (s, .done _) => State.writeBlock s dom (va + 8) ws
    | (s, .absent) => .wait s
    | (s, .fault _) => .fail s

/-- Save the rank on `pid`. -/
def State.saveRank (s : State) (g : Grid) (slot rank pid : Nat) : Io Unit :=
  State.writeBlock { s with free := s.free + 4541 } g.dom (blockVa g slot rank) (s.blockWords pid)

/-- Words read back, newest first. -/
def State.readBlock (s : State) (dom va : Nat) : Nat → List RWord → Io (List RWord)
  | 0, l => .done s l.reverse
  | n + 1, l => match s.quietRead dom (BitVec.ofNat 64 va) with
    | (s, .ok w full p) => State.readBlock s dom (va + 8) n (⟨w, full, p⟩ :: l)
    | (s, .absent) => .wait s
    | (s, .fault _) => .fail s

/-- What a block holds of a rank. -/
structure Block where
  ls : List RWord
  vs : List Nat
  ts : List Nat
  sems : KMap Nat
deriving DecidableEq, Repr

def chunks (l : List RWord) (n : Nat) : Nat → List Nat
  | 0 => []
  | k + 1 => packLanes 64 ((l.take n).map (·.v.toNat)) :: chunks (l.drop n) n k

/-- What a block of words holds; none when one of them is damaged (R459), apart from the words of local store, by
number `carried`, whose poison it was written with (R475). -/
def blockOf (l : List RWord) (carried : List Nat) : Option Block :=
  let rest := l.drop 131072
  if l.zipIdx.any fun e => e.1.poison && !carried.contains e.2 then none
  else some {
    ls := l.take 131072
    vs := chunks rest 8 256
    ts := chunks (rest.drop 2048) 256 32
    sems := (((rest.drop 10240).take 64).flatMap fun w => (List.range 4).map fun j =>
      fld w.v.toNat (16 * j) 16).zipIdx.map fun e => (e.2, e.1) }

def State.loadRank (s : State) (g : Grid) (slot rank : Nat) (carried : List Nat) : Io Block :=
  match s.readBlock g.dom (blockVa g slot rank) 147456 [] with
  | .done s l => match blockOf l carried with
    | some b => .done s b
    | none => .fail s
  | .wait s => .wait s
  | .fail s => .fail s

/-! ### What travels (R55, R401, R458) -/

/-- Copies and requests do not travel. -/
def Core.packed (c : Core) : Core :=
  { c with dcache := [], kcache := [], icache := [], lineReqs := [], holds := [], absents := [], migrate := none }

/-- A table of local-store watches of core `old` on core `new`; `f` renames cores. -/
def moveWatches (ws : List Watch) (old new : Nat) (f : Nat → Nat) : List Watch :=
  ws.map fun w => { w with pid := f w.pid, word := lsWord new 0 + (w.word - lsWord old 0) }

/-- A context resumes (R55). It stays parked when its waiter or watch is in core state that travels (`kept`);
else it executes its instruction again. A reply that has arrived and that nothing has collected travels in its
slot: DESIGN CHOICE, log entry 97. `old`, `new`: core.cyc before and after. -/
def Ctx.resumed (x : Ctx) (kept : Bool) (old new ticks : Nat) : Ctx :=
  let rung := match x.slot with
    | some sl => if sl.ans == some (.unready true) && x.rung.isNone && !kept then some false else x.rung
    | none => x.rung
  let x := { x with yielded := none, rung := rung }
  match x.wait with
  | none => x
  | some w =>
    let stay := { x with wait := some { on := w.on, cyc := new, ticks := ticks } }
    match w.on with
    | .sem _ | .ending _ | .done => stay
    | .word | .monitor => if kept then stay else { x with wait := none, retry := false }
    | .fetch _ | .fetchPage _ => { x with wait := none }
    | .parkWatch l t =>
      if kept then
        let t' := if t = 0 then 0 else max 1 (t - (old - w.cyc))
        { x with wait := some { on := .parkWatch l t', cyc := new, ticks := ticks } }
      else { x with wait := none, retry := false }
    | _ => { x with wait := none, retry := false }

/-- The pool registers of a restored rank: the saved bytes, with the tags of the core state. -/
def restorePool (m : KMap PReg) (vs : List Nat) : KMap PReg :=
  vs.zipIdx.map fun e => (e.2, { m.get e.2 {} with v := e.1 })

/-- The core `o` takes up the saved rank `c`: what belongs to the physical core stays, its permission table as Amigra
root has written it among that (R401; a move carries the rank's own, R282: log entry 66). `kept` names the contexts
whose watches travel. -/
def Core.restored (c o : Core) (b : Block) (kept : Nat → Bool) (ticks : Nat) : Core :=
  { c with
    ctxs := c.ctxs.map fun e => (e.1, e.2.resumed (kept e.1) c.cyc o.cyc ticks)
    vregs := restorePool c.vregs b.vs, tregs := restorePool c.tregs b.ts, sems := b.sems
    perms := o.perms, cyc := o.cyc, clk := o.clk, temp := o.temp, tthr := o.tthr, hot := o.hot, clkHeld := o.clkHeld
    trace := o.trace, made := o.made, waitRec := o.waitRec, lines := o.lines, loss := o.loss, lastRec := o.lastRec
    tstate := o.tstate, stopped := o.stopped, stopCyc := o.stopCyc, stopSent := o.stopSent
    stopRecv := o.stopRecv, stopEpoch := o.stopEpoch, stopReason := o.stopReason, gated := o.gated
    rot := 15, floor := none, last0 := o.cyc, migrate := none, reserved := none }

def State.putLs (s : State) (pid : Nat) (l : List RWord) : State :=
  l.zipIdx.foldl (fun s e =>
    let a := lsAddr pid (8 * e.2)
    ((s.wr a 8 e.1.v.toNat).setFull a e.1.full).setPoison a e.1.poison) s

/-- The watches of contexts of a core at homes and in the park heap are cancelled (R54). -/
def State.cancelHomes (s : State) (pid : Nat) : State :=
  s.removeHomeWatches fun w => w.pid == pid && w.chain.isNone && w.dev.isNone

/-! ### Draining (R54, R56, R319, R458, R528) -/

/-- No half of a live context's window is being spilled or filled (R458). -/
def Core.windowsStill (c : Core) : Bool := c.ctxs.all fun e => !e.2.live || !(e.2.spillDue || e.2.fillDue)

/-- Nothing of these cores is under way: their messages on the request network are performed or returned, or
queued at one of them, their stores acknowledged, their requests answered, their spills and fills, their accepted work
and the records that name them complete. -/
def State.ranksDrained (s : State) (cs : List Nat) : Bool :=
  (cs.all fun p =>
    let c := s.core p
    c.windowsStill && c.sweeps.isEmpty && c.mats.isEmpty && c.sbuf.all fun e => e.state == 3) &&
  (s.msgs.all fun m => !cs.contains m.pid || m.isReply || (m.isSoftware && (s.msgCore m).any cs.contains)) &&
  (s.homeReqs.all fun q => !cs.contains q.pid) && (s.replies.all fun r => !cs.contains r.pid) &&
  (s.offers.all fun o => !cs.contains o.pid) &&
  s.chains.all fun e => match e.2.run with
    | none => true
    | some r => !((s.namedCores e.1 r.ws).any cs.contains)

/-- The software messages for stopped cores have arrived: they are queued, and counted (R54, R456, R457). -/
def State.queueAll (s : State) (cs : List Nat) : State :=
  let here := fun (m : Msg) => m.isSoftware && !m.isReply && !m.queued && m.returned.isNone && (s.msgCore m).any cs.contains
  let t := (s.msgs.filter here).foldl (fun (t : State) m => match s.msgCore m with
    | some p => t.setCore p { t.core p with mrecv := (t.core p).mrecv + 1 }
    | none => t) s
  { t with msgs := s.msgs.map fun m => if here m then { m with queued := true } else m }

/-! ### Whole-team swap (R54) -/

/-- The save failed: an error in a save block fails the team (R459). -/
def State.saveFails (s : State) (tid : Nat) (pid : Nat) : State := s.failTeam tid pid 0 { cause := 0 } 0 true

/-- Save the ranks of a team; a save that fails has failed the team, with the core of the block (R510). -/
def State.saveAll (s : State) (tid : Nat) (g : Grid) (slot : Nat) : List (Nat × Nat) → Io Unit
  | [] => .done s ()
  | (pid, rank) :: l => match s.saveRank g slot rank pid with
    | .done s _ => State.saveAll s tid g slot l
    | .wait s => .wait s
    | .fail s => .fail (s.saveFails tid pid)

/-- Steps 2 to 5: the stopped team is drained and saved, and its cores are free. -/
def State.swapOut (s : State) (tid : Nat) (t : Team) (g : Grid) (slot : Nat) : State :=
  match (t.map.foldl State.cancelHomes s).saveAll tid g slot t.map.zipIdx with
  | .wait s1 => s.asked s1
  | .fail s => s
  | .done s _ =>
    let saved := t.map.zipIdx.map fun e => (⟨e.2, (s.core e.1).packed, s.poisonedWords e.1⟩ : Saved)
    let s := { s with
      teams := s.teams.put tid { t with swapped := true, saved := saved, outAt := s.nextId }
      nextId := s.nextId + 1 }
    t.map.foldl State.releaseCore s

/-- R54. The team was chosen, and stopped, at a quantum end, by a WFILL or for want of a core. -/
def execWholeTeamSwap (tid : Nat) (s : State) : Out :=
  .next (match s.teams.find? tid with
    | none => s
    | some t => match t.slot, (s.grids.find? t.grid : Option Grid) with
      | some k, some g =>
        let stopping := t.map.all fun p => (s.core p).stopped && (s.core p).stopReason == 1
        if !t.swapped && stopping && s.ranksDrained t.map then (s.queueAll t.map).swapOut tid t g k else s
      | _, _ => s)

/-! ### Swap-in (R55) -/

/-- Read the blocks of a team, each for its core of `pids`; one that fails has failed the team, with that core
(R510). -/
def State.loadAll (s : State) (tid : Nat) (g : Grid) (slot : Nat) : List (Saved × Nat) → Io (List Block)
  | [] => .done s []
  | (r, pid) :: l => match s.loadRank g slot r.rank r.poison with
    | .done s b => match State.loadAll s tid g slot l with
      | .done s bs => .done s (b :: bs)
      | .wait s => .wait s
      | .fail s => .fail s
    | .wait s => .wait s
    | .fail s => .fail (s.saveFails tid pid)

/-- Where each core of `old` went. -/
def renamed (old new : List Nat) (p : Nat) : Nat :=
  match (old.zip new).find? fun e => e.1 == p with
  | some e => e.2
  | none => p

/-- Messages that ranks have sent name their new cores as senders. -/
def State.renameSenders (s : State) (tid : Nat) (f : Nat → Nat) : State :=
  { s with msgs := s.msgs.map fun m => if m.team = tid then { m with pid := f m.pid } else m }

/-- The contexts of core `p` whose watches stand in these tables. -/
def keptIn (tables : List (List Watch)) (p k : Nat) : Bool :=
  tables.any fun ws => ws.any fun w => w.pid == p && w.ctx == k && w.chain.isNone && w.dev.isNone

/-- A rank comes up on core `new`, whose team is set: `c` is its saved core state, `old` its last core. -/
def State.putRank (s : State) (c : Core) (old new : Nat) (b : Block) (kept : Nat → Bool) (f : Nat → Nat) :
    State :=
  let o := s.core new
  let r := c.restored o b kept s.ticks
  (s.setCore new { r with watches := moveWatches c.watches old new f }).putLs new b.ls

/-- Restore a team on the cores `pids`, already assigned to it. -/
def State.restoreTeam (s : State) (tid : Nat) (t : Team) (pids : List Nat) (bs : List Block) : State :=
  let f := renamed t.map pids
  let tables := t.saved.map (·.core.watches)
  let s := ((t.saved.zip bs).zip (t.map.zip pids)).foldl (fun s e =>
    let c := e.1.1.core
    let old := e.2.1
    let c := { c with team := some tid }
    s.putRank c old e.2.2 e.1.2 (keptIn tables old) f) s
  let s := (pids.foldl (fun s p => s.reZone (zoneOf p)) s).renameSenders tid f
  let s := match t.slot with
    | some k => s.freeSlot t.grid k
    | none => s
  { s with teams := s.teams.put tid { t with
      map := pids, swapped := false, saved := [], slot := none, since := s.ticks } }

/-- Teams that hold a barrier unit of a die. -/
def State.residents (s : State) (die : Nat) : List (Nat × Team) :=
  s.teams.filter fun e => e.2.die == die && !e.2.swapped

/-- Whether the head of a dispatch queue could be placed; `wait`: pages that it needs are brought in. -/
inductive Fit where
  | no
  | wait (s : State)
  | placed (s : State)
deriving DecidableEq, Repr

def Fit.fits : Fit → Bool
  | .no => false
  | _ => true

/-- Bring a swapped-out team back, if it fits. -/
def State.swapBack (s : State) (tid : Nat) : Fit :=
  match s.teams.find? tid with
  | none => .no
  | some t => match t.slot, t.saved.head?, (s.grids.find? t.grid : Option Grid) with
    | some k, some c, some g =>
      if !t.swapped || 256 ≤ (s.residents t.die).length then .no
      else match s.placeTeam t.die tid c.core.cool c.core.watts t.size with
        | none => .no
        | some (_, pids) => match s.loadAll tid g k (t.saved.zip pids) with
          | .wait s => .wait s
          | .fail s => .placed s
          | .done s bs => match s.placeTeam t.die tid c.core.cool c.core.watts t.size with
            | some (s, _) => .placed (s.restoreTeam tid t pids bs)
            | none => .no
    | _, _, _ => .no

/-! ### Moves (R56, R57, R401, R527) -/

/-- R526: a request lapses when the team of the core is being swapped, or when a move of the core is in progress. -/
def execMigrationRequest (pid : Nat) (s : State) : Out :=
  let c := s.core pid
  let swapping := (s.teamOf pid).any (·.slot.isSome)
  .next (if c.team.isNone || swapping || c.migrate.isSome || (s.moveOf pid).isSome then s
    else s.setCore pid { c with migrate := some s.ticks })

/-- The stopped rank on `pid` is saved and comes up on `target`, with its permission entries as they stand (R282). -/
def State.moveRank (s : State) (tid : Nat) (t : Team) (g : Grid) (pid target slot : Nat) : State :=
  let c := s.core pid
  let s0 := s.cancelHomes pid
  match s0.saveRank g slot c.rank pid with
  | .wait s1 => s.asked s1
  | .fail s => s.saveFails tid pid
  | .done s1 _ => match s1.loadRank g slot c.rank (s1.poisonedWords pid) with
    | .wait s1 => s.asked s1
    | .fail s => s.saveFails tid pid
    | .done s b =>
      let f := renamed [pid] [target]
      let drop := fun (ws : List Watch) =>
        if ws.any (·.pid == pid) then ws.filter fun w => !(w.pid == pid && w.chain.isNone && w.dev.isNone) else ws
      let s := s.putRank c.packed pid target b (keptIn [c.watches] pid) f
      let s := ((s.setCore target { s.core target with perms := c.perms }).releaseCore pid).ranFor (ranCore target) none
      let clean := fun (e : Nat × Core) =>
        (e.1, if e.1 = target then e.2 else { e.2 with watches := drop e.2.watches })
      let s := { s with cores := s.cores.map clean }
      let s := (s.reZone (zoneOf target)).renameSenders tid f
      let s := s.freeSlot t.grid slot
      { s with teams := s.teams.put tid { t with map := t.map.set c.rank target } }

/-- A move that was asked for begins, if the target is free; with no free core on the die the whole team
is swapped. -/
def State.askMove (s : State) (pid target : Nat) : State :=
  match (s.core pid).team, s.teamOf pid, s.gridOf pid with
  | some tid, some t, some g =>
    if (s.core pid).stopped || dieOf target ≠ dieOf pid then s
    else match g.freeSlot with
      | none => s
      | some k =>
        let free := s.candidates pid
        if free.contains target then s.beginMove pid target t.grid k
        else if free.isEmpty then s.swapInstead tid t else s
  | _, _, _ => s

/-- R56: the first step reserves the target and stops the core; a later one, with the core drained,
moves the rank. -/
def execSpatialPreEmption (pid target : Nat) (s : State) : Out :=
  .next (match s.moveOf pid with
    | none => s.askMove pid target
    | some (p, k) => match (s.core pid).team, s.teamOf pid, s.gridOf pid with
      | some tid, some t, some g =>
        if (s.core pid).stopped && (s.core pid).stopReason == 2 && s.ranksDrained [pid] then
          (s.queueAll [pid]).moveRank tid t g pid p k
        else s
      | _, _, _ => s)

/-! ### Failure (R460) -/

/-- R460, R462: an uncorrectable error in the state of the core. -/
def execTeamFailure (pid : Nat) (s : State) : Out :=
  .next (s.failCore pid 0 { cause := 0 } 0 true)

end Sys2Proof.Machine
end

