-- ==== Sys2Proof/Machine/Dispatcher.lean ====
section
/-! DEFINITION. The die dispatchers: placing and starting teams, quanta, and the dispensers' floor and
errors (R43, R46, R51–R55, R306, R376–R380, R382, R435, R512). -/

namespace Sys2Proof.Machine
open Sys2Proof

/-! ### A team starts (R46, R52, R306, R378) -/

/-- Entry 0 on an empty core: the core's local store, the ranges of contexts 0 and 11 to 15, the
semaphores. -/
def entry0Fit (n : Need) : Option (Range × List Ranges × Range) := do
  let (ls, l) ← take1 n.ls (2 ^ 20) []
  let (rs, _) ← placeMany { n with ls := 0 } 6 ⟨l, [], []⟩
  let (ss, _) ← take1 n.sems 256 []
  pure (ls, rs, ss)

/-- A handler context between handlings: it holds its ranges of entry 0. -/
def Ctx.standby (r : Ranges) (n : Nat) : Ctx :=
  let ws := baseOf r.ws n
  { wsb := ws, wsp := ws, wsl := ws + r.ws.2, vbase := r.v.1, vcnt := r.v.2, tbase := r.t.1, tcnt := r.t.2 }

/-- A core of a starting team; its local store is full of undefined data (R106). -/
def State.startCore (s : State) (tid : Nat) (g : Grid) (fit : Range × List Ranges × Range) (pid rank : Nat) :
    State :=
  let (ls, rs, ss) := fit
  let o := s.core pid
  let n := s.free
  let sem := if ss.2 = 0 then (Config.freeValue (n + 6)).toNat % 256 else ss.1
  let regs : KMap Word := [(1, g.arg), (5, u64 ls.1), (6, u64 sem), (15, u64 (ls.1 + ls.2))]
  let r0 := { rs.headD ⟨(0, 0), (0, 0), (0, 0), (0, 0)⟩ with ls := ls }
  let x0 := { Ctx.begin {} g.entry regs r0 0 n with stop := if g.stopAtStart then some 2 else none }
  let handlers := rs.tail.zipIdx.map fun e => (11 + e.2, Ctx.standby e.1 (n + 1 + e.2))
  let clear := fun (m : KMap PReg) (l : List Range) => l.foldl clearTags m
  let c := { o.fresh with
    sems := [], team := some tid, rank := rank, dom := g.dom, cool := o.cool, watts := o.watts
    tvec := s.cp.tvecs.get g.dom 0, ctxs := (0, x0) :: handlers
    allots := [allotOf 0 [] true (r0 :: rs.tail) ss]
    vregs := clear o.vregs (rs.map (·.v)), tregs := clear o.tregs (rs.map (·.t)) }
  State.clearLs { s.setCore pid c with free := n + 7 } pid

/-- The lowest free chain of an engine; 63 serves the command processors. -/
def State.freeChain (s : State) (eng : Nat) : Option Nat :=
  (List.range 63).find? fun c => (s.chains.find? (eng * 64 + c)).isNone

/-- Bind the chains of team number `n` (R376); they fail when one engine has no free chain. -/
def State.bindChains (s : State) (die tid n dom : Nat) (pids : List Nat) : List (List Word) → Io (List Nat)
  | [] => .done s []
  | e :: l =>
    let eng := die * 12 + bindEng e
    match s.freeChain eng with
    | none => .fail s
    | some c =>
      let h := eng * 64 + c
      let off := BitVec.ofNat 64 (n * recF e 3 0 32)
      let ring := BitVec.ofNat 64 (recW e 1) + off
      let seq := BitVec.ofNat 64 (recW e 2) + off
      let s := s.setChain h { team := some tid, rank := bindRank e, seqVa := seq, pend := ring, tail := ring }
      match s.homeWrite dom seq 0 255 none false with
      | (s, .absent) => .wait s
      | (s, _) =>
        let pid := pids.getD (bindRank e) 0
        let k := s.core pid
        let s := s.setCore pid { k with chn := k.chn.put (bindSlot e) (2 ^ 13 + h) }
        match State.bindChains s die tid n dom pids l with
        | .done s hs => .done s (h :: hs)
        | r => r

/-- Start the next team of a grid on a die, when every part of it fits. -/
def State.startTeam (s : State) (die gid : Nat) : Fit :=
  match s.grids.find? gid with
  | none => .no
  | some g =>
    let e0 := g.types.getD 0 (0, 0)
    let w1 := e0.2.toNat
    let tid := s.nextId
    if 256 ≤ (s.residents die).length then .no
    else match s.placeTeam die tid (fld w1 0 4) (s.classWatts (fld w1 4 4)) g.size, entry0Fit (needOf e0.1) with
      | some (t, pids), some fit =>
        let t := pids.zipIdx.foldl (fun t e => t.startCore tid g fit e.1 e.2) t
        match t.bindChains die tid g.next g.dom pids g.binds with
        | .fail _ => .no
        -- nothing of the team stands until every page is there
        | .wait t => .wait (s.asked t)
        | .done t hs =>
          let team : Team := { grid := gid, number := g.next, die := die, size := g.size, map := pids
                               done := g.size, since := t.ticks, chains := hs }
          .placed { t with teams := t.teams.put tid team, nextId := tid + 1
                           grids := t.grids.put gid { g with next := g.next + 1, lastDie := some die } }
      | _, _ => .no

/-! ### Dispatch queues (R52, R377, R379, R380) -/

/-- What stands at the head of a dispatch queue: the next team of a grid, or a team that was swapped
out. -/
inductive Head where
  | fresh (gid : Nat)
  | back (tid : Nat)
deriving DecidableEq, Repr

/-- The swapped-out team of a grid that left this die first. -/
def State.firstOut (s : State) (die gid : Nat) : Option Nat :=
  let l := s.teams.filter fun (e : Nat × Team) => e.2.grid == gid && e.2.swapped && e.2.die == die
  let at_ := (l.map fun e => e.2.outAt).min?
  (List.find? (fun (e : Nat × Team) => some e.2.outAt == at_) l).map fun e => e.1

/-- The head of the dispatch queue of hardware queue `q` on a die: grids in the order of their
LAUNCHes. -/
def State.headOf (s : State) (die q : Nat) : Option Head :=
  s.grids.findSome? fun (e : Nat × Grid) =>
    if e.2.queue = q then match s.firstOut die e.1 with
      | some t => some (.back t)
      | none => if !e.2.failed && e.2.next < e.2.teams && bitAt e.2.dies die then some (.fresh e.1) else none
    else none

def State.headPrio (s : State) : Head → Nat
  | .fresh gid => ((s.grids.find? gid).map fun (g : Grid) => g.prio).getD 0
  | .back tid => ((s.teams.find? tid).bind fun (t : Team) =>
      (s.grids.find? t.grid).map fun (g : Grid) => g.prio).getD 0

/-- A number that names a head: the next team of a grid by its number, a swapped-out team by its own. -/
def State.headKey (s : State) : Head → Nat
  | .fresh gid => 2 * (gid * 2 ^ 24 + ((s.grids.find? gid).map fun (g : Grid) => g.next).getD 0)
  | .back tid => 2 * tid + 1

/-- The die with the head placed. -/
def State.placeHead (s : State) (die : Nat) : Head → Fit
  | .fresh gid => s.startTeam die gid
  | .back tid => s.swapBack tid

/-- Quantum ends at which the present head of a queue has failed to fit (R379). -/
def State.misses (s : State) (die q : Nat) : Nat :=
  match s.headOf die q, (s.die die).misfits.find? q with
  | some h, some (k, n) => if k = s.headKey h then n else 0
  | _, _ => 0

/-- R379: a head that has failed to fit at 4 quantum ends lets no team of equal or lower PRIO start, but
for those that have waited as long at its PRIO. -/
def State.barred (s : State) (die q prio : Nat) : Bool :=
  (s.die die).misfits.any fun e => e.1 != q && 4 ≤ s.misses die e.1 && (match s.headOf die e.1 with
    | none => false
    | some h => decide (prio < s.headPrio h) || (s.headPrio h == prio && decide (s.misses die q < 4)))

/-- The die starts the head of queue `q` now, if it fits. A die that empties for a WFILL starts none. -/
def State.startHead (s : State) (die q : Nat) : Fit :=
  if s.cp.reloading || !(s.die die).filling.isEmpty then .no
  else match s.headOf die q with
    | none => .no
    | some h => if s.barred die q (s.headPrio h) then .no else s.placeHead die h

/-- Dies of a grid in the order in which its next team is offered. -/
def offerOrder (g : Grid) : List Nat :=
  let first := match g.lastDie with
    | some d => d + 1
    | none => 0
  ((List.range 8).map fun i => (first + i) % 8).filter (bitAt g.dies)

/-- The head of `q` is this die's to place: a new team goes to the first die on which it fits. -/
def State.offeredHere (s : State) (die q : Nat) : Bool :=
  match s.headOf die q with
  | none => false
  | some (.back _) => true
  | some (.fresh gid) => match (s.grids.find? gid : Option Grid) with
    | none => false
    | some g => ((offerOrder g).find? fun d => s.headOf d q == some (.fresh gid) && (s.startHead d q).fits) ==
        some die

/-- The queue whose head a die places next: highest PRIO, then round-robin. -/
def State.nextHead (s : State) (die : Nat) : Option Nat :=
  [7, 6, 5, 4, 3, 2, 1, 0].findSome? fun pr =>
    (afterQueue ((s.die die).lastQ.find? pr)).find? fun q =>
      ((s.headOf die q).map s.headPrio) == some pr && s.offeredHere die q && (s.startHead die q).fits

/-- The die places the head of queue `q`, or brings its pages in. -/
def State.place (s : State) (die q : Nat) : State :=
  match s.headOf die q with
  | none => s
  | some h => match s.startHead die q with
    | .no => s
    | .wait t => t
    | .placed t =>
      let d := t.die die
      t.setDie die { d with lastQ := d.lastQ.put (s.headPrio h) q, misfits := d.misfits.del q }

/-- R379: a round places one head. -/
def execDispatchRound (die : Nat) (s : State) : Out :=
  .next (if 8 ≤ die then s
    else match s.nextHead die with
    | none => s
    | some q => s.place die q)

/-- R55: the team comes back when it is the head that its die places next. -/
def execSwapIn (tid : Nat) (s : State) : Out :=
  .next (match s.teams.find? tid with
    | none => s
    | some t => match (s.grids.find? t.grid : Option Grid) with
      | none => s
      | some g =>
        if s.headOf t.die g.queue = some (.back tid) && s.nextHead t.die == some g.queue then s.place t.die g.queue else s)

/-! ### The quantum (R54, R379, R380, R382) -/

/-- Priority of a team. -/
def State.teamPrio (s : State) (t : Team) : Nat := ((s.grids.find? t.grid).map fun (g : Grid) => g.prio).getD 0

/-- The team that a quantum end swaps out: lowest PRIO, then longest resident, of those that have a slot
and whose PRIO is not above that of every waiting team. -/
def State.victim (s : State) (die prio : Nat) : Option Nat :=
  let l := (s.residents die).filter fun e => (s.swappable e.2).isSome && s.teamPrio e.2 ≤ prio
  let p := (l.map fun e => s.teamPrio e.2).min?
  let l := l.filter fun e => some (s.teamPrio e.2) == p
  let since := (l.map fun e => e.2.since).min?
  (List.find? (fun (e : Nat × Team) => some e.2.since == since) l).map fun e => e.1

/-- The quantum of a die is over (R54, R380). -/
def State.quantumOver (s : State) (die : Nat) : Bool :=
  let d := s.die die
  d.since + tUs d.qnt.toNat ≤ s.ticks

/-- R54, R379, R382: of the quantum ends of a die that empties for a WFILL, the next one after its start alone swaps
teams out; those without a slot then run to completion. -/
def execQuantumEnd (die : Nat) (s : State) : Out :=
  .next (
    if 8 ≤ die || s.cp.reloading || !s.quantumOver die then s
    else
      let stuck := (List.range 64).filterMap fun q => (s.headOf die q).bind fun h =>
        if (s.placeHead die h).fits then none else some (q, h)
      let d := s.die die
      let count := stuck.map fun e => (e.1, (s.headKey e.2, s.misses die e.1 + 1))
      let t := s.setDie die { d with misfits := count, since := s.ticks }
      if !d.filling.isEmpty then
        if d.emptied then t
        else (s.residents die).foldl (fun t e => t.beginSwap e.1) (t.setDie die { t.die die with emptied := true })
      else match (stuck.map fun e => s.headPrio e.2).max? with
        | none => t
        | some p => match s.victim die p with
          | none => t
          | some v => t.beginSwap v)

/-! ### The dispenser (R43, R512) -/

/-- R43: grids whose zones are all withheld may hand one record out, 64 µs after the last. -/
def execDispenserFloor (die : Nat) (s : State) : Out :=
  let d := s.dispenser die
  let due := s.grids.filterMap fun (e : Nat × Grid) =>
    let late := match d.floor.find? e.1 with
      | some t => decide (t + tUs 64 ≤ s.ticks)
      | none => true
    if (d.recs.any fun r => r.grid == e.1) && s.allWithheld e.1 && late && !d.grant.contains e.1 then some e.1
    else none
  let d := due.foldl (fun (d : Dispenser) g => { d with grant := setAdd d.grant g }) d
  let s := { s with dispensers := s.dispensers.put die d }
  .next (due.foldl (fun s g => s.cores.foldl (fun s e =>
    if ((s.teamOf e.1).map (·.grid)) == some g then s.wakeIf e.1 (fun
      | .withheld r => r != 0
      | _ => false) else s) s) s)

/-- R512: the record is lost; the rank that gave it and its queue are told. -/
def execDispenserEntryError (die idx : Nat) (parityLost : Bool) (s : State) : Out :=
  let d := s.dispenser die
  .next (match d.recs[idx]? with
    | none => s
    | some r =>
      let s := { s with dispensers := s.dispensers.put die { d with recs := d.recs.eraseIdx idx } }
      let s := s.cores.foldl (fun s e => if dieOf e.1 = die then s.wakeIf e.1 (· == .busy 1) else s) s
      let told := if parityLost then none
        else (List.find? (fun (e : Nat × Team) => e.2.grid == r.grid && e.2.number == r.team && !e.2.swapped)
          s.teams).bind fun (e : Nat × Team) => e.2.map[r.rank]?
      let s := match told with
        | none => s
        | some p =>
          if (s.core p).evqEn then
            let w0 := BitVec.ofNat 64 (r.off / 16 % 65536 * 2 ^ 16 + 5)
            (State.postEvent { s with free := s.free + 1 } p { w0 := w0, w1 := Config.freeValue s.free }).drainPosts p 64
          else s
      match (s.grids.find? r.grid : Option Grid) with
      | none => s
      | some g => s.queueFault g.queue 7 g.pkt 0 0 r.team (u64 r.off) 0 0 0 3)

end Sys2Proof.Machine
end

