-- ==== Sys2Proof/Machine/Float.lean ====
section
/-! DEFINITION. The scalar floating-point instructions (R237–R244). -/

namespace Sys2Proof.Machine
open Sys2Proof

/-- R238. -/
def execFadd (o : ROp) (s : State) : Out :=
  fltOp o s (Val.add (.ofCode o.rm.toNat) (s.fval o.ty o.a) (s.fval o.ty o.b))
/-- R238. -/
def execFsub (o : ROp) (s : State) : Out :=
  fltOp o s (Val.add (.ofCode o.rm.toNat) (s.fval o.ty o.a) (s.fval o.ty o.b).neg)
/-- R238. -/
def execFmul (o : ROp) (s : State) : Out := fltOp o s (Val.mul (s.fval o.ty o.a) (s.fval o.ty o.b))
/-- R239: one rounding. -/
def execFfma (o : ROp) (s : State) : Out :=
  fltOp o s (Val.add (.ofCode o.rm.toNat) (Val.mul (s.fval o.ty o.a) (s.fval o.ty o.b))
    (s.fval o.ty o.c))
/-- R238. -/
def execFdiv (o : ROp) (s : State) : Out := fltOp o s (Val.div (s.fval o.ty o.a) (s.fval o.ty o.b))
/-- R240. -/
def execFsqrt (o : ROp) (s : State) : Out := fltOp o s (Val.sqrt (s.fval o.ty o.a))
/-- R238: an operand, unrounded. -/
def execFmin (o : ROp) (s : State) : Out :=
  wordOp o.grd o.d s
    (BitVec.ofNat 64 ((fmtD o.ty).minmax false (s.uval o.ty o.a) (s.uval o.ty o.b)))
/-- R238: an operand, unrounded. -/
def execFmax (o : ROp) (s : State) : Out :=
  wordOp o.grd o.d s
    (BitVec.ofNat 64 ((fmtD o.ty).minmax true (s.uval o.ty o.a) (s.uval o.ty o.b)))
/-- R241. -/
def execFcmp (o : ROp) (s : State) : Out :=
  wordOp o.grd o.d s (boolWord (condFlt o.sel.toNat (s.fval o.ty o.a) (s.fval o.ty o.b)))
/-- R242: the source type's code stands in C. -/
def execFcvt (o : ROp) (s : State) : Out :=
  let ts := (Ty.ofCode o.c.toNat).getD .none
  wordOp o.grd o.d s
    (o.ty.ext (convert o.ty ts (.ofCode o.rm.toNat) o.sat (s.uval ts o.a)))
/-- R243. -/
def execFclass (o : ROp) (s : State) : Out :=
  wordOp o.grd o.d s (BitVec.ofNat 64 (fclassBits (fmtD o.ty) (s.uval o.ty o.a)))
/-- R244. -/
def execFsgn (o : ROp) (s : State) : Out :=
  wordOp o.grd o.d s (BitVec.ofNat 64
    (fsgnBits (fmtD o.ty) o.sel.toNat (s.uval o.ty o.a) (s.uval o.ty o.b)))

end Sys2Proof.Machine
end

