-- ==== Sys2Proof/Machine/Power.lean ====
section
/-! DEFINITION. The ramp limiter's windows, the token state of the package, budgets, clocks, energy and
cache counts (R384–R386, R412–R420, R422, R484, R519). -/

namespace Sys2Proof.Machine
open Sys2Proof

/-! ### The ramp limiter (R384, R385) -/

/-- Reservations of the new window in the order of first refusal: as long as their sum stays within
`limit`; the first is always given. -/
def reserve (limit : Nat) : Nat → Bool → List Ramp → List Ramp
  | _, _, [] => []
  | q, first, r :: l =>
    if first || q + r.units ≤ limit then
      { r with reserved := true } :: reserve limit (q + r.units) false l
    else (r :: l).map fun r => { r with reserved := false }

/-- A part of `n` for each domain in proportion to its units of a table. What the division leaves is charged to
none: DESIGN CHOICE, log entry 95. -/
def sharesOf (m : KMap Nat) (n : Nat) : List (Nat × Nat) :=
  let sum := (m.map fun e => e.2).sum
  if sum = 0 then [] else m.map fun e => (e.1, n * e.2 / sum)

def KMap.addAll (m : KMap Nat) (l : List (Nat × Nat)) : KMap Nat := l.foldl (fun m e => m.put e.1 (m.get e.1 0 + e.2)) m

/-- The end of a window of a zone: its ballast is charged to the domains of the window before (R385). -/
def Zone.nextWindow (z : Zone) : Zone :=
  let rdn := if z.rdn = 0 then 65536 else z.rdn.toNat
  let act := max z.r (z.act - rdn)
  { z with act := act, r := 0, units := [], before := z.units
           ballast := KMap.addAll z.ballast (sharesOf z.before (act - z.r))
           held := false, refused := reserve (act + z.rup.toNat) 0 true z.refused }

/-- R384: boundaries fall every 1,000 ns from device reset. -/
def execRampWindowBoundary (s : State) : Out :=
  .next (
    if s.ticks < (s.window + 1) * tUs 1 then s
    else
      let s := { s with window := s.window + 1, zones := s.zones.mapVals Zone.nextWindow }
      s.wakeAll (· == .withheld 0))

/-! ### Tokens (R412–R416, R519) -/

/-- R416: when the budgets exceed A, each is scaled. `late`: clocks then fall at once where the draw
exceeds the new budget (R413). -/
def State.cutBudgets (s : State) (late : Bool) : State :=
  let a := s.power.avail
  let sum := s.budgets
  if (sum : Int) ≤ a then s
  else (List.range 128).foldl (fun s i =>
    let z := s.zone i
    let b := if a < 0 then 0 else z.budget.toNat * a.toNat / sum
    s.setZone i (Zone.checkSpent
      { z with budget := BitVec.ofNat 16 b, urgent := z.urgent || (late && decide (b < z.draw)) } s.ticks)) s

/-- GRANT takes the value; a change is a token event of the platform ring with GRANT as its reading (R521; which
events of the source are recorded: DESIGN CHOICE, log entry 72), and a fall may cut the budgets. -/
def State.setGrant (s : State) (tok : Nat) (late : Bool) : State :=
  let old := s.power.grant
  let s := { s with power := { s.power with grant := tok } }
  let s := if tok = old then s else s.event 3 none none (some tok)
  if tok < old then s.cutBudgets late else s

/-! A management flit (R413): its kind, source, target and tokens in word 0, its time in word 1, its lease in
word 2. -/
def flitKind (w0 : Word) : Nat := fld w0.toNat 0 4
def flitSrc (w0 : Word) : Nat := fld w0.toNat 4 12
def flitDst (w0 : Word) : Nat := fld w0.toNat 16 12
def flitTok (w0 : Word) : Nat := fld w0.toNat 28 16

/-- A management flit that this device sends. -/
def State.sendFlit (s : State) (kind dst tok : Nat) (t : Word) (id : Nat) : State :=
  let w0 := BitVec.ofNat 64 (tok % 65536 * 2 ^ 28 + dst % 4096 * 2 ^ 16 + s.fabn.toNat * 16 + kind)
  { s with outbox := s.outbox ++ [{ dev := dst, off := none, ws := [w0, t, BitVec.ofNat 64 id, 0, 0, 0, 0, 0] }] }

/-- R413. `now` is the fabric time in microseconds. A flit of another kind, or for another device, is none. -/
def execGrant (w0 w1 : Word) (now : Nat) (s : State) : Out :=
  let tok := flitTok w0
  let t := w1.toNat
  .next (
    if flitKind w0 != 1 || flitDst w0 != s.fabn.toNat then s
    else
      let s := { s with power := { s.power with lastGrant := s.ticks } }
      if s.power.grant ≤ tok then s.setGrant tok false
      else if t ≤ now then s.setGrant tok true
      else
        let p : Pending := ⟨tok, s.ticks + tUs (t - now), decide (t < now + 10000)⟩
        { s with power := { s.power with pending := s.power.pending ++ [p] } })

/-- R413: the first lowering GRANT whose T has come. -/
def execGrantEffective (s : State) : Out :=
  .next (match s.power.pending.find? fun p => decide (p.due ≤ s.ticks) with
    | none => s
    | some p =>
      let w := s.power
      State.setGrant { s with power := { w with pending := w.pending.erase p } } p.tok p.late)

/-- The identifier of the next lease: up from 1, past 0 and those still open. -/
def nextLeaseId (openIds : List Nat) : Nat → Nat → Nat
  | 0, id => id
  | n + 1, id => if id % 2 ^ 32 = 0 || openIds.contains (id % 2 ^ 32) then nextLeaseId openIds n (id + 1) else id % 2 ^ 32

/-- This package lends `tok` to device `dst` until `w1` (R414): the LEND leaves it. -/
def State.lendOut (s : State) (dst tok : Nat) (w1 : Word) (now : Nat) : State :=
  let p := s.power
  let q := { p with lent := p.lent + tok }
  let t := w1.toNat
  if q.lent ≤ p.lmax.toNat && (s.budgets : Int) ≤ q.avail && p.lentLeases.length < 15 && now < t &&
      t ≤ now + 1000 * p.lease.toNat then
    let id := nextLeaseId (p.lentLeases.map (·.id)) 16 p.nextLease
    let l : Lease := { src := s.fabn.toNat, id := id, tok := tok, due := s.ticks + tUs (t - now), t := w1, peer := dst }
    State.sendFlit { s with power := { q with lentLeases := p.lentLeases ++ [l], nextLease := id + 1 } } 2 dst tok w1 id
  else s

/-- A LEND reaches this package: the tokens are borrowed until its T, or a RETURN leaves it. -/
def State.borrow (s : State) (src tok : Nat) (w1 : Word) (id now : Nat) : State :=
  let p := s.power
  let t := w1.toNat
  if now < t && p.borrowed + tok ≤ p.bmax.toNat then
    let l : Lease := { src := src, id := id, tok := tok, due := s.ticks + tUs (t - now), t := w1, peer := src }
    { s with power := { p with borrowed := p.borrowed + tok, heldLeases := p.heldLeases ++ [l] } }
  else s.sendFlit 3 src tok w1 id

/-- R414. A LEND whose source is this device is one that it sends. -/
def execLend (w0 w1 w2 rest : Word) (now : Nat) (s : State) : Out :=
  .next (
    if flitKind w0 != 2 || rest != 0 then s
    else if flitSrc w0 = s.fabn.toNat then s.lendOut (flitDst w0) (flitTok w0) w1 now
    else if flitDst w0 = s.fabn.toNat then s.borrow (flitSrc w0) (flitTok w0) w1 (w2.toNat % 2 ^ 32) now
    else s)

/-- An open lease that this package holds from `src` ends here. -/
def State.endBorrow (s : State) (l : Lease) : State :=
  let p := s.power
  State.cutBudgets
    { s with power := { p with borrowed := p.borrowed - l.tok, heldLeases := p.heldLeases.erase l } } false

/-- An open lease of this lender is closed. -/
def State.closeLease (s : State) (l : Lease) : State :=
  let p := s.power
  { s with power := { p with lent := p.lent - l.tok, lentLeases := p.lentLeases.erase l } }

/-- R414. A RETURN for this device closes its lease; one whose source is this device is one that it sends: it
gives the lease of the target back early. -/
def execReturnLease (w0 w2 : Word) (s : State) : Out :=
  let id := w2.toNat % 2 ^ 32
  .next (
    if flitKind w0 != 3 then s
    else if flitSrc w0 = s.fabn.toNat then
      match s.power.heldLeases.find? fun l => l.src == flitDst w0 && l.id == id with
      | some l => (s.endBorrow l).sendFlit 3 l.src l.tok l.t l.id
      | none => s
    else if flitDst w0 = s.fabn.toNat then
      match s.power.lentLeases.find? (·.id == id) with
      | some l => s.closeLease l
      | none => s
    else s)

/-- R414: the borrower subtracts at T. -/
def execLeaseExpiry (src id : Nat) (s : State) : Out :=
  .next (match s.power.heldLeases.find? fun l => l.src == src && l.id == id && decide (l.due ≤ s.ticks) with
    | some l => s.endBorrow l
    | none => s)

/-- R414: the lender regains at T + 1 ms. -/
def execLeaseRegain (id : Nat) (s : State) : Out :=
  .next (match s.power.lentLeases.find? fun l => l.id == id && decide (l.due + tMs 1 ≤ s.ticks) with
    | some l => s.closeLease l
    | none => s)

/-- R519. -/
def execGrantTimeout (s : State) : Out :=
  .next (if s.power.lastGrant + tMs 1000 ≤ s.ticks then s.setGrant (min s.power.grant 3600) false else s)

/-! ### Zones (R415, R417, R422) -/

/-- R417. -/
def execZoneDrawUpdate (zone watts : Nat) (s : State) : Out :=
  let z := s.zone zone
  let b := z.budget.toNat
  let z := Zone.checkSpent { z with draw := watts, urgent := z.urgent && decide (b < watts) } s.ticks
  .next (if zone < 128 then (s.setZone zone z).holdLifted zone else s)

/-- The 17 tiles of a zone. -/
def zoneTiles (z : Nat) : List Nat := (List.range 17).map fun r => z / 16 * 512 + r * 16 + z % 16

/-- Change N of every core of a zone that a test names. -/
def State.stepClocks (s : State) (z : Nat) (f : Core → Bool) (d : Int) : State :=
  (zoneTiles z).foldl (fun s p =>
    let c := s.core p
    if f c then s.setCore p { c with clk := ((c.clk : Int) + d).toNat } else s) s

/-- R417, R424, R513: every 256 µs. -/
def execClockAdjust (zone : Nat) (s : State) : Out :=
  let z := s.zone zone
  let lower := (z.spent && decide (z.spentAt + tMs 1 ≤ s.ticks)) || (z.urgent && decide (z.budget.toNat < z.draw)) ||
    decide (sextInt z.wthr.toNat 16 < s.zoneTemp zone)
  .next (
    if 128 ≤ zone then s
    else if lower then s.stepClocks zone (fun c => decide (z.nmin.toNat < c.clk)) (-1)
    else if 4 * z.draw ≤ 3 * z.budget.toNat then
      s.stepClocks zone (fun c => decide (c.clk < z.nmax.toNat) && !c.clkHeld) 1
    else s)

/-- R419: N written by the scheduling firmware takes effect. -/
def execClockChange (pid n : Nat) (s : State) : Out :=
  let c := s.core pid
  .next (if isCore pid && 1 ≤ n && n ≤ 8 && !c.clkHeld then s.setCore pid { c with clk := n } else s)

/-- R415. -/
def execZoneBudgetWrite (zone : Nat) (v : Word) (s : State) : Out :=
  .next (if zone < 128 then s.putZbud zone v else s)

/-- R422. -/
def execFlowShareWrite (zone : Nat) (v : Word) (s : State) : Out :=
  .next (if zone < 128 then s.putFctl zone v else s)

/-! ### Energy and cache counts (R418, R484) -/

/-- The domain that a job is charged to now; none: the housekeeping reserve (R418). -/
def State.jobDom (s : State) : Job → Option Nat
  | .copy h => s.chainDom h
  | .swap t => s.teamDom t
  | .move d => d

/-- The key of a job whose domain may have changed since the last booking. -/
def jobKey : Job → Option Nat
  | .copy h => some (ranChain h)
  | .swap t => some (ranTeam t)
  | .move _ => none

/-- The domains that energies are charged to: each entry is the energy of one interval of what has the key, in their
order; an interval that `ran` holds is charged as it says, the last one to the domain of now. -/
def chargedTo : List (Nat × Option Nat) → List (Option Nat × Option Nat × Nat) → List (Option Nat × Nat)
  | _, [] => []
  | ran, (key, now, uj) :: l =>
    match ran.find? fun r => key == some r.1 with
    | some r => (r.2, uj) :: chargedTo (ran.erase r) l
    | none => (now, uj) :: chargedTo ran l

/-- What is charged to a domain, and the sum of what is charged to none. -/
def ofDomains (l : List (Option Nat × Nat)) : List (Nat × Nat) × Nat :=
  (l.filterMap fun e => e.1.map fun d => (d, e.2), ((l.filter (·.1.isNone)).map (·.2)).sum)

/-- Who is charged for the energy of a millisecond in µJ (R418): of cores, of jobs, of the ballast of zones, of base
dies, HBM, routers and I/O, of scrubbing and tests. -/
def State.charge (s : State) (cores : List (Nat × Nat)) (jobs : List (Job × Nat)) (ballast : List (Nat × Nat))
    (base upkeep : Nat) : State :=
  let p := s.power
  let (busy, idle) := ofDomains (chargedTo p.ran (cores.map fun e =>
    (some (ranCore e.1), (s.core e.1).team.map fun _ => (s.core e.1).dom, e.2)))
  let (work, spare) := ofDomains (chargedTo p.ran (jobs.map fun e => (jobKey e.1, s.jobDom e.1, e.2)))
  let mine := KMap.addAll [] busy
  let fill := ballast.flatMap fun e => sharesOf (s.zone e.1).ballast e.2
  let q := { p with
    booked := KMap.addAll p.booked (mine ++ work ++ fill ++ sharesOf mine base)
    hke := (p.hke + upkeep + spare) % 2 ^ 64, idle := (p.idle + idle) % 2 ^ 64, ran := [] }
  { s with power := q, zones := s.zones.mapVals fun z => { z with ballast := [] } }

/-- One domain's energy is added at its word, or waits for the word's page. -/
def State.addEnergy (s : State) (dom uj : Nat) : State :=
  match s.homeAdd 0 (s.power.ebase + BitVec.ofNat 64 (8 * dom)) uj with
  | (t, .absent) => { t with cacheCnt := s.cacheCnt }
  | (t, _) =>
    let p := t.power
    { t with cacheCnt := s.cacheCnt, power := { p with booked := p.booked.del dom } }

/-- R418: each domain's energy is added to its word of the table, when one is kept. -/
def execEnergyBooking (cores : List (Nat × Nat)) (jobs : List (Job × Nat)) (ballast : List (Nat × Nat))
    (base upkeep : Nat) (s : State) : Out :=
  let t := s.charge cores jobs ballast base upkeep
  let p := t.power
  .next (
    if p.ebase = 0 then { t with power := { p with booked := [] } }
    else p.booked.foldl (fun s e => s.addEnergy e.1 e.2) t)

/-- Add counts into consecutive words; they wait for a page that is absent. What the machine itself asks
of a slice counts in no block. -/
def State.addWords (s : State) (va : Word) : List Nat → Option State
  | [] => some s
  | n :: l => match s.homeAdd 0 va n with
    | (_, .absent) => none
    | (t, _) => State.addWords { t with cacheCnt := s.cacheCnt } (va + 8) l

/-- R484: the counts of one slice, without its table kept on. -/
def execCacheCounterFlush (die slice : Nat) (s : State) : Out :=
  let k := die * 64 + slice
  .next (
    if s.power.ebase = 0 then s
    else (s.cacheCnt.filter fun e => e.1 / 65536 == k).foldl (fun s e =>
      let va := s.power.ebase + BitVec.ofNat 64 (512 * 1024 + 64 * (e.1 % 65536))
      let c := e.2
      match State.addWords { s with cacheCnt := s.cacheCnt.del e.1 } va [c.hit, c.miss, c.evown, c.dispo, c.wbk] with
      | some s => s
      | none => s) s)

end Sys2Proof.Machine
end

