-- ==== Sys2Proof/Machine/Platform.lean ====
section
/-! DEFINITION. Sensors, valves, evacuation, spares, scrubbing, firmware, links and the lifetime records
(R13, R98, R404, R421–R424, R436, R513–R520, R525). -/

namespace Sys2Proof.Machine
open Sys2Proof

/-! ### Traps of a zone (R513, R514) -/

/-- A deferred trap of context 0, while the core has one that lives. -/
def State.coreTrap (s : State) (pid cause : Nat) (info : Word) : State :=
  if (s.ctx pid 0).live && (s.core pid).finishing.isNone then s.holdBare pid 0 cause info else s

/-- 14h in every core of the zone that holds a rank, and the event itself. -/
def State.zoneTrap (s : State) (zone code : Nat) (reading : Option Nat) : State :=
  let s := (zoneTiles zone).foldl (fun s p =>
    if (s.core p).team.isSome then s.coreTrap p 0x14 (BitVec.ofNat 64 (code * 256 + zone)) else s) s
  s.event 2 (some code) (some zone) reading

/-! ### Moves away from a place (R56, R459, R515, R516) -/

/-- The rank on `pid` is to leave, not to a core that `bad` names: a move begins, or the whole team is
swapped. -/
def State.moveAway (s : State) (pid : Nat) (bad : Nat → Bool) : State :=
  match (s.core pid).team, s.teamOf pid, s.gridOf pid with
  | some tid, some t, some g =>
    if (s.core pid).stopped || (s.moveOf pid).isSome then s
    else match g.freeSlot with
      | none => s
      | some k => match s.coolest ((s.candidates pid).filter fun p => !bad p) with
        | some p => s.beginMove pid p t.grid k
        | none => s.swapInstead tid t
  | _, _, _ => s

/-- The core `p`, reserved for a rank, cannot take it: another does, or the whole team is swapped. -/
def State.retarget (s : State) (p : Nat) (bad : Nat → Bool) : State :=
  match (s.core p).reserved with
  | none => s
  | some (q, k) =>
    let free := s.setCore p { s.core p with reserved := none }
    match free.coolest ((free.candidates q).filter fun r => r != p && !bad r) with
    | some r =>
      let c := s.core q
      free.setCore r { free.core r with reserved := some (q, k), cool := c.cool, watts := c.watts }
    | none => match (s.core q).team, s.teamOf q with
      | some tid, some t => s.swapInstead tid t
      | _, _ => s.setCore p { s.core p with reserved := none }

/-- Ranks and reservations leave the cores that `bad` names. -/
def State.vacate (s : State) (pids : List Nat) (bad : Nat → Bool) : State :=
  pids.foldl (fun s p => (s.retarget p bad).moveAway p bad) s

/-- No rank and no reservation is left. -/
def State.vacant (s : State) (pids : List Nat) : Bool :=
  pids.all fun p => (s.core p).team.isNone && (s.core p).reserved.isNone

/-! ### Sensors (R421, R424, R513, R514) -/

/-- The temperature of one core: 13h at its threshold, of which the firmware is told and the platform ring has a
thermal event with the temperature (which events of the source are recorded: DESIGN CHOICE, log entry 72); clock step 1
at 10 °C above it. -/
def State.coreTemp (s : State) (pid : Nat) (temp : Int) : State :=
  let c := s.core pid
  let thr := sextInt c.tthr.toNat 16
  let cross := decide (thr ≤ temp) && !c.hot
  let c := { c with temp := temp, hot := decide (thr ≤ temp) || (c.hot && decide (thr - 32 < temp)) }
  let c := if thr + 160 ≤ temp then { c with clk := 1, clkHeld := true } else c
  let s := s.setCore pid c
  if cross then
    ((s.tell 1 pid).event 1 none (some (zoneOf pid)) (some (toBits temp 16))).coreTrap pid 0x13
      (BitVec.ofNat 64 (toBits temp 16))
  else s

/-- A threshold that two consecutive readings exceed: the count, and whether the event is due. -/
def twice (n : Nat) (above : Bool) : Nat × Bool := if above then (n + 1, n == 1) else (0, false)

/-- Three dry-channel events of a zone within 24 hours (R517). -/
def State.dryEvent (s : State) (zone : Nat) : State :=
  let day := tMs 86400000
  let ts := ((s.root.dryTimes.get zone []).filter fun t => s.ticks < t + day) ++ [s.ticks]
  let root := s.root
  let s := { s with root := { root with dryTimes := root.dryTimes.put zone ts } }
  let s := s.field (0x1820 + 2 * zone) 2
  let s := s.zoneTrap zone 3 (some (s.zone zone).flow)
  if 3 ≤ ts.length then s.condition 5 2 else s

/-- R397, R421, R424, R513, R514, R515. -/
def execSensorReading (zone : Nat) (r : Sensors) (s : State) : Out :=
  .next (
    if 128 ≤ zone then s
    else
      let s := ((zoneTiles zone).zip r.cores).foldl (fun s e => s.coreTemp e.1 e.2) s
      let t := s.zoneTemp zone
      let z := s.zone zone
      let wthr := sextInt z.wthr.toNat 16
      let hot := decide (wthr < t) || (z.hot && decide (wthr - 32 < t))
      let (nIn, inHot) := twice z.nIn (decide (sextInt z.itrap.toNat 16 < r.inT))
      let (nOut, outHot) := twice z.nOut (decide (sextInt z.otrap.toNat 16 < r.outT))
      let dry := decide (4 * r.flow < 5 * z.share') && decide (64 ≤ r.valve)
      let nDry := if dry then z.nDry + 1 else 0
      let found := nDry == 3 && z.step == 0 && !z.retired
      let good := decide (45 * z.share' ≤ 4 * r.flow)
      let off := decide (16 < r.valve - z.want) || decide (16 < z.want - r.valve)
      let s := s.setZone zone { z with
        flow := r.flow, valve := r.valve, nGood := if good then z.nGood + 1 else 0
        offSince := if off then some (z.offSince.getD s.ticks) else none, offTold := z.offTold && off
        outt := BitVec.ofNat 16 (toBits r.outT 16), int := BitVec.ofNat 16 (toBits r.inT 16)
        hot := hot, nIn := nIn, nOut := nOut, nDry := nDry, step := if found then 1 else z.step
        peak := max z.peak t }
      let s := if t < wthr then (zoneTiles zone).foldl (fun s p =>
          if (s.core p).clkHeld then s.setCore p { s.core p with clkHeld := false } else s) s else s
      let s := if hot then s else s.holdLifted zone
      let s := if inHot then s.zoneTrap zone 1 (some (toBits r.inT 16)) else s
      let s := if outHot then s.zoneTrap zone 2 (some (toBits r.outT 16)) else s
      if found then s.dryEvent zone else s)

/-- A position is commanded, and the valve takes it; the sensors read out whether it did. -/
def Zone.moveValve (z : Zone) (v : Nat) : Zone := { z with want := v, valve := v }

/-- R422: one step a millisecond towards the position at which FLOW meets E × 12.5 mL/min. Steps 3 to 7
of an evacuation command the valve themselves. -/
def execValveStep (zone : Nat) (s : State) : Out :=
  let z := s.zone zone
  let low := if (zoneTiles zone).all fun p => (s.core p).gated then 0 else z.vmin
  let v := if 2 * z.flow < 25 * z.share' then max low (min 255 (z.want + 1))
    else if 25 * z.share' < 2 * z.flow then max low (z.want - 1) else max low z.want
  .next (if 128 ≤ zone || 3 ≤ z.step then s else s.setZone zone (z.moveValve v))

/-- R514: the valve has read more than 16 off the commanded position for 10 ms. One deviation is one event: DESIGN
CHOICE, log entry 71. -/
def execValveFault (zone : Nat) (s : State) : Out :=
  let z := s.zone zone
  .next (
    if zone < 128 && !z.offTold && z.offSince.any fun t => decide (t + tMs 10 ≤ s.ticks) then
      (s.setZone zone { z with offTold := true }).zoneTrap zone 6 (some z.valve)
    else s)

/-! ### Spares (R12, R13, R516) -/

/-- A spare takes the number of a cluster that holds nothing, or the number is withdrawn. Of several free spares the
first of the list serves, the one of the lowest physical cluster: DESIGN CHOICE, log entry 96. -/
def State.remap (s : State) (die c : Nat) : State :=
  let d := s.die die
  match d.spares with
  | p :: l =>
    let s := s.setDie die { d with cmap := d.cmap.put c p, spares := l }
    let s := ((s.field (0x1940 + die) 1).condition 0 0).event 6 none (some die) none
    if l.isEmpty then s.condition 3 2 else s
  | [] => (s.setDie die { d with withdrawn := setAdd d.withdrawn c }).condition 1 1

/-- Retire a cluster, once its ranks have left. -/
def State.retire1 (s : State) (die c : Nat) : State :=
  if 8 ≤ die || 64 ≤ c || (s.die die).withdrawn.contains c then s
  else
    let ps := s.clusterCores die c
    if s.vacant ps then s.remap die c else s.vacate ps ps.contains

/-- R516. -/
def execClusterRetire (die cluster : Nat) (s : State) : Out := .next (s.retire1 die cluster)

/-! ### Evacuating a dry channel (R515) -/

def State.gate (s : State) (zone : Nat) (b : Bool) : State :=
  (zoneTiles zone).foldl (fun s p => s.setCore p { s.core p with gated := b }) s

/-- Three verifications have failed: the zone is retired, and R516 applies to its clusters. -/
def State.retireZone (s : State) (zone : Nat) : State :=
  let s := s.setZone zone { s.zone zone with step := 0, retired := true, fails := 0 }
  let s := (s.zoneTrap zone 5 none).condition 1 1
  let die := zone / 16
  ((List.range 64).filter fun c => (s.die die).cmap.get c c % 4 == zone % 16 / 4).foldl
    (fun s c => s.retire1 die c) s

/-- R515: the next step of the sequence. Step 7 passes with ten good readings in a row; it fails when it has none
and its time is over; `more`: it is not. -/
def execDryChannelEvacuation (zone : Nat) (more : Bool) (s : State) : Out :=
  let z := s.zone zone
  let here := zoneTiles zone
  .next (match z.step with
    | 0 => s
    | 1 => (s.setZone zone { z with evac := true, step := 2 }).vacate here fun p => zoneOf p == zone
    | 2 =>
      if s.vacant here then (s.setZone zone { z.moveValve 0 with step := 3 }).gate zone true
      else s.vacate here fun p => zoneOf p == zone
    | 3 => s.setZone zone { z with purge := true, step := 4 }
    | 4 => s.setZone zone { z with step := 5 }
    | 5 => s.setZone zone { z.moveValve 255 with purge := false, step := 6, nGood := 0 }
    | 6 =>
      if 10 ≤ z.nGood then
        let s := (s.setZone zone { z with evac := false, step := 0, fails := 0, nDry := 0 }).gate zone false
        (s.holdLifted zone).zoneTrap zone 4 none
      else if more then s
      else if 2 ≤ z.fails then s.retireZone zone
      else s.setZone zone { z.moveValve 0 with step := 3, fails := z.fails + 1 }
    | _ => s)

/-! ### Patrol scrubbing (R98, R517, R525) -/

/-- The HBM channel of a line of HBM (R97). -/
def hbmChannel (a : Nat) : Nat := a / (48 * 2 ^ 30) * 32 + (Config.channel (a / 64)).toNat

/-- An error of one HBM channel has been corrected. -/
def State.corrected (s : State) (chan : Nat) : State :=
  let hour := tMs 3600000
  let ts := ((s.root.eccTimes.get chan []).filter fun t => s.ticks < t + hour) ++ [s.ticks]
  let root := s.root
  let s := State.field { s with root := { root with eccTimes := root.eccTimes.put chan ts } } (0x1000 + 4 * chan) 4
  if 10000 < ts.length then s.condition 4 2 else s

/-- R98: bits [7:0] of `words` name the words of the line with an uncorrectable error, bits [15:8] those
in which an error was corrected. -/
def execPatrolScrub (frame line words : Nat) (s : State) : Out :=
  let a := frame * 65536 + line % 1024 * 64
  .next (
    if hbmEnd ≤ a then s
    else
      let s := (List.range 8).foldl (fun s i => if bitAt words i then s.setPoison (a + 8 * i) true else s) s
      (List.range 8).foldl (fun s i => if bitAt words (8 + i) then s.corrected (hbmChannel a) else s) s)

/-! ### Firmware, links, I/O die (R404, R517, R518, R520) -/

/-- R518: a reload begins, when the image verifies, or ends. -/
def execFirmwareReload (verified : Bool) (s : State) : Out :=
  let cp := s.cp
  let root := s.root
  let hour := tMs 3600000
  .next (
    if cp.reloading then { s with cp := { cp with reloading := false } }
    else if !verified then s.condition 7 3
    else
      let ts := (root.reloads.filter fun t => s.ticks < t + hour) ++ [s.ticks]
      let s := { s with cp := { cp with reloading := true }, root := { root with reloads := ts } }
      let s := s.event 5 none none none
      if 3 ≤ ts.length then s.condition 6 2 else s)

/-- A context that waits for a word of a remote device. -/
def Ctx.waitsAbroad (x : Ctx) : Bool :=
  match x.wait with
  | some ⟨.far, _, _⟩ => true
  | _ => false

/-- R520. Which route served which context is not architectural: every context that waits at a remote
device executes again. -/
def execPortTrainingLoss (port : Nat) (s : State) : Out :=
  .next (
    if 16 ≤ port || !s.pup.getLsbD port then s
    else
      let root := s.root
      let s := { s with root := { root with portLost := root.portLost.put port s.ticks } }
      let s := State.event { s with pup := BitVec.ofNat 16 (setBit s.pup.toNat port false) } 4 none (some port) none
      s.cores.foldl (fun s e => (List.range 16).foldl (fun s k =>
        if (s.ctx e.1 k).waitsAbroad then s.wake e.1 k else s) s) s)

/-- R404. -/
def execPortTraining (port : Nat) (s : State) : Out :=
  let root := s.root
  .next (
    if port < 16 then
      { s with pup := BitVec.ofNat 16 (setBit s.pup.toNat port true)
               root := { root with portLost := root.portLost.del port } }
    else s)

/-- R517: condition 2, for a port that lost its training more than 1 s ago. -/
def execPortTrainingLostFor1S (port : Nat) (s : State) : Out :=
  .next (if (s.root.portLost.find? port).any fun t => decide (t + tMs 1000 < s.ticks) then s.condition 2 1 else s)

/-- R517: condition 7. -/
def execIoDieUncorrectableError (s : State) : Out := .next (s.condition 7 3)

/-- R525: the clock pauses; the event is counted. -/
def execRegulatorDroop (pid : Nat) (s : State) : Out :=
  .next (if isCore pid then s.field (0x1920 + 4 * dieOf pid) 4 else s)

/-! ### Lifetime records (R436, R525) -/

/-- R436. -/
def execFieldRecordCommit (s : State) : Out :=
  let root := s.root
  .next { s with root := { root with committed := root.fields } }

/-- The bin of a temperature in 1/16 °C. -/
def tempBin (t : Int) : Nat :=
  (([40, 60, 70, 80, 90, 95, 105] : List Int).filter fun b => decide (16 * b ≤ t)).length

/-- R436. -/
def execZoneMinuteTick (s : State) : Out :=
  .next ((List.range 128).foldl (fun s i =>
    let t := s.zoneTemp i
    let z := s.zone i
    let s := s.field (4 * (8 * i + tempBin (max z.peak t))) 4
    if z.peak = t then s else s.setZone i { z with peak := t }) s)

end Sys2Proof.Machine
end

