-- ==== Sys2Proof/Machine/Shake.lean ====
section
/-! DEFINITION. SHAKE256 with its 64-byte output, as the digests of the package use it (R21, R523); the function
is that of FIPS 202 (PRESUMED, log entry 108). -/

namespace Sys2Proof.Machine
open Sys2Proof

/-- The 25 lanes of a sponge, lane (x, y) at x + 5y. -/
abbrev Lanes := List Word

def laneAt (a : Lanes) (x y : Nat) : Word := a.getD (x % 5 + 5 * (y % 5)) 0

def keccakRot : List Nat :=
  [0, 1, 62, 28, 27, 36, 44, 6, 55, 20, 3, 10, 43, 25, 39, 41, 45, 15, 21, 8, 18, 2, 61, 56, 14]

def keccakRc : List Word :=
  [0x1, 0x8082, 0x800000000000808A, 0x8000000080008000, 0x808B, 0x80000001, 0x8000000080008081,
   0x8000000000008009, 0x8A, 0x88, 0x80008009, 0x8000000A] ++
  [0x8000808B, 0x800000000000008B, 0x8000000000008089, 0x8000000000008003, 0x8000000000008002,
   0x8000000000000080, 0x800A, 0x800000008000000A, 0x8000000080008081, 0x8000000000008080, 0x80000001,
   0x8000000080008008]

/-- All lanes from a function of their place. -/
def lanesBy (f : Nat → Nat → Word) : Lanes := (List.range 25).map fun i => f (i % 5) (i / 5)

def keccakTheta (a : Lanes) : Lanes :=
  let c := (List.range 5).map fun x =>
    laneAt a x 0 ^^^ laneAt a x 1 ^^^ laneAt a x 2 ^^^ laneAt a x 3 ^^^ laneAt a x 4
  lanesBy fun x y => laneAt a x y ^^^ c.getD ((x + 4) % 5) 0 ^^^ (c.getD ((x + 1) % 5) 0).rotateLeft 1

/-- The rotations, and the places to which the lanes go. -/
def keccakRhoPi (a : Lanes) : Lanes :=
  lanesBy fun x y =>
    let u := (x + 3 * y) % 5
    (laneAt a u x).rotateLeft (keccakRot.getD (u + 5 * x) 0)

def keccakChi (b : Lanes) : Lanes :=
  lanesBy fun x y => laneAt b x y ^^^ (~~~laneAt b (x + 1) y &&& laneAt b (x + 2) y)

def keccakRound (a : Lanes) (rc : Word) : Lanes :=
  match keccakChi (keccakRhoPi (keccakTheta a)) with
  | [] => []
  | x :: l => (x ^^^ rc) :: l

def keccakF (a : Lanes) : Lanes := keccakRc.foldl keccakRound a

/-- Bytes as words, the first lowest. -/
def wordsOfBytes : Nat → List Byte → List Word
  | 0, _ => []
  | n + 1, l => BitVec.ofNat 64 ((l.take 8).zipIdx.map fun e => e.1.toNat * 256 ^ e.2).sum :: wordsOfBytes n (l.drop 8)

/-- One block of the rate enters the sponge. -/
def absorb (a : Lanes) (block : List Byte) : Lanes :=
  let w := wordsOfBytes 17 block
  keccakF (a.zipIdx.map fun e => e.1 ^^^ w.getD e.2 0)

/-- The message in whole blocks of 136 bytes, padded; `n` bounds their number. -/
def absorbAll (a : Lanes) : Nat → List Byte → Lanes
  | 0, _ => a
  | n + 1, l =>
    if l.length < 136 then
      let pad := l ++ [0x1F] ++ List.replicate (135 - l.length) 0
      absorb a (pad.take 135 ++ [(pad.getD 135 0) ||| 0x80])
    else absorbAll (absorb a (l.take 136)) n (l.drop 136)

/-- The digest of 64 bytes. -/
def shake256 (l : List Byte) : List Byte :=
  ((absorbAll (List.replicate 25 0) (l.length / 136 + 1) l).take 8).flatMap fun w =>
    (List.range 8).map fun i => BitVec.ofNat 8 (w.toNat / 256 ^ i)

end Sys2Proof.Machine
end

