-- ==== Sys2Proof/Machine/Root.lean ====
section
/-! DEFINITION. The Amigra root mailbox, registers written from outside the cores, device reset, and the
drain of the state logs (R6, R92, R95, R103, R107, R369, R403–R408, R425–R430, R434, R522–R524). -/

namespace Sys2Proof.Machine
open Sys2Proof

/-! ### The mailbox (R406) -/

/-- The command in progress ends with its RESULT; BUSY falls. -/
def State.mailbox (s : State) (result : Nat) : State :=
  { s with root := { s.root with mbBusy := false, mbResult := result } }

def State.mbarg (s : State) (i : Nat) : Word := s.root.mbArg.get i 0

/-- Amigra root carries out the command in progress, when it is `op` with the operands `args`. One from an agent
without the privilege is refused. -/
def State.command (s : State) (op : Nat) (args : List Nat) (k : State → State) : State :=
  let r := s.root
  if !(r.mbBusy && r.mbOp == op && args.zipIdx.all fun e => (s.mbarg e.2).toNat == e.1) then s
  else if r.mbPriv then k s else s.mailbox 1

/-- A page that gets a frame while no sidecar holds its bits has every word full (R106); the parked flags
of what the frame held are gone, and the page-in sets the page's own (R105). -/
def State.firstFrame (s : State) (frame : Nat) (va : Word) : State :=
  let out := fun (a : Nat) => a / 65536 != frame
  let side := match s.walk va with
    | .leaf _ e _ => bitAt e 2 || fld e 10 30 != 0
    | .fail => false
  { s with empties := if side then s.empties else s.empties.filter fun w => out (8 * w)
           parkedLines := s.parkedLines.filter fun l => out (64 * l) }

/-- Command 01h. -/
def execSetFrameOwner (frame : Nat) (v : Word) (s : State) : Out :=
  .next (s.command 1 [frame, v.toNat] fun s =>
    let w := v.toNat
    let e := BitVec.ofNat 64 (fld w 16 40 * 65536 + fld w 0 3)
    if 12582912 ≤ frame then s.mailbox 2
    else if (s.frames.get frame 0).getLsbD 0 then s.mailbox 1
    else
      let s := if w % 2 = 1 then s.firstFrame frame (BitVec.ofNat 64 (fld w 16 40 * 65536)) else s
      State.mailbox { s with frames := s.frames.put frame e } 0)

/-- Command 02h. -/
def execClearFrameOwner (frame : Nat) (s : State) : Out :=
  .next (s.command 2 [frame] fun s =>
    if 12582912 ≤ frame then s.mailbox 2
    else State.mailbox { s with frames := s.frames.del frame } 0)

/-- An active core: of a cluster that is not spare, retired or withdrawn. -/
def State.activeCore (s : State) (pid : Nat) : Bool := (s.dieCores (dieOf pid)).contains pid

/-- Command 03h. -/
def execWritePermissionEntry (arg0 arg1 arg2 : Word) (s : State) : Out :=
  .next (s.command 3 [arg0.toNat, arg1.toNat, arg2.toNat] fun s =>
    let a := arg0.toNat
    let pid := fld a 0 12
    let w1 := BitVec.ofNat 64 (fld arg2.toNat 21 43 * 2 ^ 21 + fld arg2.toNat 0 1)
    if fld a 12 4 ≠ 0 || fld a 21 43 ≠ 0 || !s.activeCore pid then s.mailbox 2
    else
      let c := s.core pid
      State.mailbox (s.setCore pid { c with perms := c.perms.put (fld a 16 5) ⟨arg1, w1⟩ }) 0)

/-- Another queue that is not disabled binds the domain of `q` to another PASID (R369). -/
def State.pasidClash (s : State) (q : Nat) : Bool :=
  (List.range 64).any fun r => r != q && s.qState r != 0 && s.qDom r == s.qDom q &&
    fld (s.desc r 1) 28 20 != fld (s.desc q 1) 28 20

/-- Command 04h. COUNT of the fault record returns to 0 when the queue is enabled (R511). -/
def execSetQueueState (arg0 arg1 : Word) (s : State) : Out :=
  .next (s.command 4 [arg0.toNat, arg1.toNat] fun s =>
    let q := arg0.toNat
    let st := arg1.toNat
    if 64 ≤ q || 4 ≤ st then s.mailbox 2
    else if s.qState q = 0 && st != 0 && s.pasidClash q then s.mailbox 2
    else
      let va := s.platVa (0x1000 + 64 * q)
      let s := if s.qState q = 0 && st = 1 then s.ownWrite va (setFld ((s.rawRead va).getD 0) 0 8 0) else s
      (s.setQState q st).mailbox 0)

/-- A line belongs to the region, or to the domains, of an entry of the home-group table (R92). -/
def inGroup (i key : Nat) : Bool :=
  if keyHost key then i == 1024 + keyDom key % 1024 else i == fld (keyVa key).toNat 46 10

/-- Some cache holds a line of the group. -/
def State.groupCached (s : State) (i : Nat) : Bool :=
  (s.lines.any fun e => inGroup i e.1) ||
  s.cores.any fun e => (e.2.dcache.any fun w => inGroup i (w.1 / 8)) || (e.2.kcache.any fun w => inGroup i (w.1 / 8)) ||
    (e.2.icache.any fun l => inGroup i l.1) || e.2.holds.any fun h => h.fault.isNone && inGroup i h.line

/-- Command 05h. -/
def execWriteHomeGroupEntry (arg0 arg1 : Word) (s : State) : Out :=
  .next (s.command 5 [arg0.toNat, arg1.toNat] fun s =>
    let i := arg0.toNat
    if 2048 ≤ i then s.mailbox 2
    else if s.groupCached i then s.mailbox 1
    else State.mailbox { s with hgt := s.hgt.put i (fld arg1.toNat 0 5) } 0)

/-- Command 06h (R461, R522). -/
def execPartitionReset (arg0 : Word) (s : State) : Out :=
  .next (s.command 6 [arg0.toNat] fun s =>
    let p := arg0.toNat
    if 64 ≤ p || (s.root.parts.find? p).isNone then s.mailbox 2
    else
      let more := (s.resetWith [p] 64).filter (· != p)
      (((s.resetPartition p).field 0x1948 4).resetByPolicy more).mailbox 0)

/-- `n` bytes from `va`, read at their homes under the mailbox's own authority. -/
def State.readBytes (s : State) (va : Word) : Nat → Io (List Byte)
  | 0 => .done s []
  | n + 1 => match s.quietRead 0 (wordAddr va) with
    | (s, .ok w _ _) => match s.readBytes (va + 1) n with
      | .done s l => .done s (BitVec.ofNat 8 (fld w.toNat (8 * (va.toNat % 8)) 8) :: l)
      | r => r
    | (s, .absent) => .wait s
    | (s, .fault _) => .fail s

def State.writeBytes (s : State) (va : Word) : List Byte → Io Unit
  | [] => .done s ()
  | b :: l =>
    let i := va.toNat % 8
    match s.homeWrite 0 va (BitVec.ofNat 64 (b.toNat * 256 ^ i)) (2 ^ i) none false with
    | (s, .done _) => State.writeBytes s (va + 1) l
    | (s, .absent) => .wait s
    | (s, .fault _) => .fail s

/-- The image of the lifetime records (R436): each group of them by its offset, entries and bytes. -/
def Root.image (r : Root) : List Byte :=
  ([(0, 1024, 4), (0x1000, 512, 4), (0x1800, 8, 4), (0x1820, 128, 2), (0x1920, 8, 4), (0x1940, 8, 1), (0x1948, 1, 4)] :
      List (Nat × Nat × Nat)).flatMap (fun g => (List.range g.2.1).flatMap fun i =>
    bytesOf (r.fields.get (g.1 + g.2.2 * i) 0) g.2.2) ++ List.replicate 1716 0

/-- Bytes that the manual does not give: free values. -/
def State.freeBytes (s : State) (from_ n : Nat) : List Byte :=
  ((List.range (n / 8 + 1)).flatMap fun i => bytesOf (Config.freeValue (s.free + from_ + i)).toNat 8).take n

/-- The report of R523. The digests of the identity key and of the two firmware images are those of the device, which
the manual does not give; the signature, and the bytes between, are free values: log entry 21. -/
def State.attestation (s : State) (nonce : List Byte) : List Byte :=
  nonce ++ bytesOf (s.root.health % 4 * 65536 + 1) 8 ++ bytesOf s.fabn.toNat 8 ++ s.freeBytes 0 16 ++
    (List.range 192).map Config.digestByte ++ shake256 s.root.image ++ s.freeBytes 3 3309

/-- Command 07h. It waits for the pages of its area. -/
def execAttest (arg0 : Word) (s : State) : Out :=
  .next (s.command 7 [arg0.toNat] fun s =>
    let pages := fun (t : State) => { s with xlates := t.xlates, pageIns := t.pageIns, pri := t.pri }
    match s.readBytes arg0 32 with
    | .wait t => pages t
    | .fail _ => s.mailbox 2
    | .done s nonce =>
      match State.writeBytes { s with free := s.free + 448 } (arg0 + 0x40) (s.attestation nonce) with
      | .wait t => pages t
      | .fail _ => s.mailbox 2
      | .done s _ => s.mailbox 0)

/-- Command 08h (R524). -/
def execSetPartitionResetPolicy (arg0 arg1 : Word) (s : State) : Out :=
  .next (s.command 8 [arg0.toNat, arg1.toNat] fun s =>
    let p := arg0.toNat
    let v := arg1.toNat
    let root := s.root
    if 64 ≤ p || 3 ≤ v then s.mailbox 2
    else State.mailbox { s with root := { root with policy := root.policy.put p v } } 0)

/-- Other OP values. -/
def execMailboxBadOp (op : Nat) (s : State) : Out :=
  .next (if 1 ≤ op && op ≤ 8 then s else s.command op [] fun s => s.mailbox 2)

/-! ### Registers written from outside the cores (R6, R403, R404, R408, R429, R434) -/

/-- The RW fields of an import-table entry. -/
def importField (w : Nat) : Nat := fld w 63 1 * 2 ^ 63 + fld w 32 12 * 2 ^ 32 + fld w 16 5 * 2 ^ 16 + fld w 0 16

/-- What a read of BAR0 returns (R403, R404, R406, R408). -/
def State.bar0Read (s : State) (off : Nat) : Word :=
  let r := s.root
  if off = 0 then BitVec.ofNat 64 (s.pup.toNat * 65536 + s.fabn.toNat)
  else if off = 0x1000 then BitVec.ofNat 64 ((if r.mbBusy then 2 ^ 63 else 0) + r.mbResult * 2 ^ 48 + r.mbOp)
  else if 0x1008 ≤ off && off ≤ 0x1020 && off % 8 = 0 then s.mbarg ((off - 0x1008) / 8)
  else if 0x2000 ≤ off && off < 0x2200 && off % 8 = 0 then s.imports.get ((off - 0x2000) / 8) 0
  else if 0x10000 ≤ off && off ≤ 0x10010 && off % 8 = 0 then BitVec.ofNat 64 (s.dieCsr 0 (0x500 + (off - 0x10000) / 8))
  else 0

/-- What a read of BAR2 returns: the doorbell page of queue `off / 4096` (R405). -/
def State.bar2Read (s : State) (off : Nat) : Word :=
  let q := off / 4096
  if 64 ≤ q then 0
  else if off % 4096 = 0 then BitVec.ofNat 64 (s.qTail q)
  else if off % 4096 = 8 then BitVec.ofNat 64 (s.qState q % 4 * 2 ^ 32 + s.qHead q)
  else 0

/-- A write of OP starts a command, unless one is in progress. -/
def State.startCommand (s : State) (op : Nat) (priv : Bool) : State :=
  let root := s.root
  if root.mbBusy then s else { s with root := { root with mbBusy := true, mbPriv := priv, mbOp := op % 256 } }

/-- A write of BAR0. -/
def State.bar0 (s : State) (off : Nat) (v : Word) : State :=
  let w := v.toNat
  let root := s.root
  if off = 0 then { s with fabn := BitVec.ofNat 12 w }
  else if off = 0x1000 then s.startCommand w true
  else if 0x1008 ≤ off && off ≤ 0x1020 && off % 8 = 0 then
    { s with root := { root with mbArg := root.mbArg.put ((off - 0x1008) / 8) v } }
  else if 0x2000 ≤ off && off < 0x2200 && off % 8 = 0 then
    { s with imports := s.imports.put ((off - 0x2000) / 8) (BitVec.ofNat 64 (importField w)) }
  else if 0x10000 ≤ off && off ≤ 0x10010 && off % 8 = 0 then s.dieCsrPut 0 (0x500 + (off - 0x10000) / 8) v
  else s

/-- cp.bpc: HIT is cleared by a one, reserved bits stay. -/
def bpcWrite (old w : Nat) : Nat :=
  let keep := bitAt old 60 && !bitAt w 60
  setBit (fld w 58 6 * 2 ^ 58 + fld w 48 6 * 2 ^ 48 + fld w 16 16 * 2 ^ 16) 60 keep

/-- A word in a core's cache is poisoned. -/
def strikeWord (m : KMap CWord) (wk : Nat) : KMap CWord := m.modify wk fun w => { w with poison := true }

/-- An uncorrectable error poisons the word that it strikes; one whose full/empty bit is lost is full (R474). -/
def State.strike (s : State) (lost : Bool) : ErrPlace → State
  | .mem a =>
    let a := a / 8 * 8
    if hostBase ≤ a && a < wsBase then s
    else
      let t := s.setPoison a true
      if lost && (a < hbmEnd || lsBase ≤ a) then t.setFull a true else t
  | .slice key i => { s with lines := s.lines.modify key fun (l : Line) => { l with
      poison := setBit l.poison (i % 8) true, fe := if lost then setBit l.fe (i % 8) true else l.fe } }
  | .dcache pid wk => let c := s.core pid; s.setCore pid { c with dcache := strikeWord c.dcache wk }
  | .kcache pid wk => let c := s.core pid; s.setCore pid { c with kcache := strikeWord c.kcache wk }
  | .icache pid line i =>
    let c := s.core pid
    s.setCore pid { c with icache := c.icache.modify line fun (l : ILine) => { l with
      poison := setBit l.poison (i % 8) true } }

/-- An error in a word: its HBM channel corrects it on an access, which is counted (R525), or it is uncorrectable. -/
def State.errorAt (s : State) (v : Nat) (p : ErrPlace) : State :=
  match p, bitAt v 1 with
  | .mem a, true => if a < hbmEnd then s.corrected (hbmChannel (a / 64 * 64)) else s
  | _, true => s
  | p, false => s.strike (bitAt v 0) p

/-- A page of the host's tables from what the host writes. -/
def hostPageOf (v : Nat) : HostPage :=
  ⟨fld v 12 48 * 4096, bitAt v 0, bitAt v 1, bitAt v 2, bitAt v 3⟩

/-- R6, and the writes of the driver and of the host (R282, R402, R440, R467); errors (R474, R525). -/
def execRegisterWrite (r : RegPlace) (v : Word) (s : State) : Out :=
  .next (match r with
    | .core pid n => if isCore pid && 0x100 ≤ n && n < 0x300 then s.setCore pid ((s.core pid).csrPut n v) else s
    | .die die n => if die < 8 && 0x400 ≤ n && n < 0x500 then s.dieCsrPut die n v else s
    | .dev n => if n < 3 then s.dieCsrPut 0 (0x500 + n) v else s
    | .bar0 off => s.bar0 off v
    | .mbcmdDenied => s.startCommand v.toNat false
    | .bpa n => if n < 8 then { s with bpa := s.bpa.put n v } else s
    | .bpc n => if n < 8 then
        { s with bpc := s.bpc.put n (BitVec.ofNat 64 (bpcWrite (s.bpc.get n 0).toNat v.toNat)) } else s
    | .trbase => { s with trbase := BitVec.ofNat 64 (fld v.toNat 16 48 * 65536 + fld v.toNat 0 5) }
    | .root => { s with rootTable := v.toNat }
    | .perm pid i => if s.activeCore pid && i < 32 then s.setCore pid ((s.core pid).perm i v.toNat) else s
    | .tvec dom => { s with cp := { s.cp with tvecs := s.cp.tvecs.put dom v } }
    | .pri => { s with priOn := bitAt v.toNat 0 }
    | .hostPage pasid page =>
      if pasid < 2 ^ 20 && page < 2 ^ 44 then
        { s with hostPages := s.hostPages.put (pasid * 2 ^ 44 + page) (hostPageOf v.toNat) }
      else s
    | .hostMem hpa => if hpa % 8 = 0 && hpa < 2 ^ 60 then s.wr (hostBase + hpa) 8 v.toNat else s
    | .struck p => s.errorAt v.toNat p)

/-! ### Device reset (R8, R95, R436, R525) -/

/-- What device reset leaves of a die: the map of its clusters, held by Amigra root. -/
def Die.kept (d : Die) : Die := { ({} : Die) with cmap := d.cmap, spares := d.spares, withdrawn := d.withdrawn }

/-- Every register and record takes its reset value. The host's memory and pages, the lifetime records
as committed, the cluster maps, the partitions, the least valve positions and the model's own fields
stay. -/
def State.afterReset (s : State) : State :=
  { State.reset with
    agenda := s.agenda, turn := s.turn, free := s.free, conf := s.conf
    mem := s.mem.filter fun c => hostBase ≤ c.1 && c.1 < wsBase
    hostPages := s.hostPages
    dies := s.dies.mapVals Die.kept
    zones := s.zones.mapVals fun z =>
      { ({} : Zone) with vmin := z.vmin, valve := z.valve, want := z.want, retired := z.retired }
    root := { ({} : Root) with parts := s.root.parts, fields := s.root.committed, committed := s.root.committed } }

/-- R95. -/
def execDeviceReset (s : State) : Out := .next s.afterReset

/-! ### State logs (R426, R429, R430) -/

/-- R426: the record repeats the present state; its context is not stated. -/
def execTraceTimeRecord (pid : Nat) (s : State) : Out :=
  let c := s.core pid
  let k := (Config.freeValue s.free).toNat % 16
  .next (
    if !isCore pid || c.cyc - c.lastRec < 0x3FFFF then s
    else State.setCore { s with free := s.free + 1 } pid
      (c.record s.traceSz s.ticks (traceWord 0 0x3FFFF c.tstate k (c.ctx k))))

/-- Write words at their homes as plain stores of the drain. -/
inductive Drained where
  | done (s : State)
  | wait (s : State)
  | refused
deriving DecidableEq, Repr

def State.drainWords (s : State) (va : Word) : List Word → Drained
  | [] => .done s
  | w :: l => match s.homeWrite 0 va w 255 none false with
    | (t, .done _) => State.drainWords { t with cacheCnt := s.cacheCnt } (va + 8) l
    | (t, .absent) => .wait { s with xlates := t.xlates, pageIns := t.pageIns, pri := t.pri }
    | (_, .fault _) => .refused

/-- Eight records, the last of them pads when fewer wait. -/
def traceLine (l : List Word) : List Word :=
  (List.range 8).map fun i => (l[i]?).getD (BitVec.ofNat 64 (0xFF * 2 ^ 56))

/-- A line is due: eight records wait, or the oldest is 64 µs old (R430). -/
def State.drainDue (s : State) (c : Core) : Bool :=
  8 ≤ c.trace.length || c.made.head?.any fun t => decide (t + tUs 64 ≤ s.ticks)

/-- R429, R430: one line of records, then the count of lines; then there is space (R428). A line that its leaf
refuses stays in the section. -/
def execTraceDrain (pid : Nat) (s : State) : Out :=
  let sz := s.traceSz
  let c := s.core pid
  .next (
    if sz = 0 || c.trace.isEmpty || !s.drainDue c then s
    else
      let ring := BitVec.ofNat 64 (fld s.trbase.toNat 16 48 * 65536 + pid * 2 ^ (sz + 6))
      let slot := 1 + c.lines % (2 ^ sz - 1)
      match s.drainWords (ring + BitVec.ofNat 64 (64 * slot)) (traceLine c.trace) with
      | .refused => s
      | .wait t => t
      | .done t => match t.drainWords ring [BitVec.ofNat 64 (c.lines + 1)] with
        | .refused => s
        | .wait t => { s with xlates := t.xlates, pageIns := t.pageIns, pri := t.pri }
        | .done t =>
          let c := t.core pid
          let c := { c with trace := c.trace.drop 8, made := c.made.drop 8, lines := c.lines + 1 }
          t.setCore pid (c.resumeTrace s.ticks))

end Sys2Proof.Machine
end

