-- ==== Sys2Proof/Machine/Scalar.lean ====
section
/-! DEFINITION. The integer, address and predicate instructions (R193, R226–R236). -/

namespace Sys2Proof.Machine
open Sys2Proof

/-- R193. -/
def execNop (s : State) : Out := .next (s.finish s .next)

/-- R226: a + b. -/
def execAdd (o : ROp) (s : State) : Out := intOp o s (s.ival o.ty o.a + s.ival o.ty o.b)
/-- R226: a − b. -/
def execSub (o : ROp) (s : State) : Out := intOp o s (s.ival o.ty o.a - s.ival o.ty o.b)

/-- R227: the immediate is read at the type's width. -/
def execAddi (o : IOp) (s : State) : Out :=
  wordOp o.grd o.d s
    (wint o.ty (o.var.getLsbD 0) (s.ival o.ty o.a + o.ty.int o.imm.toNat))

/-- R226: a × b. -/
def execMul (o : ROp) (s : State) : Out := intOp o s (s.ival o.ty o.a * s.ival o.ty o.b)
/-- R226: the upper w bits of the exact product. -/
def execMulh (o : ROp) (s : State) : Out :=
  intOp o s (s.ival o.ty o.a * s.ival o.ty o.b / (2 ^ o.ty.width : Nat))
/-- R226: the quotient rounded toward zero; by zero, all ones. -/
def execDivI (o : ROp) (s : State) : Out :=
  let b := s.ival o.ty o.b
  intOp o s (if b = 0 then (if o.ty.signed then -1 else o.ty.hi) else (s.ival o.ty o.a).tdiv b)
/-- R226: the remainder of that quotient; by zero, a. -/
def execRemI (o : ROp) (s : State) : Out :=
  let a := s.ival o.ty o.a
  let b := s.ival o.ty o.b
  intOp o s (if b = 0 then a else a - b * a.tdiv b)
/-- R226. -/
def execAndI (o : ROp) (s : State) : Out := intOp o s (s.uval o.ty o.a &&& s.uval o.ty o.b : Nat)
/-- R226. -/
def execOrI (o : ROp) (s : State) : Out := intOp o s (s.uval o.ty o.a ||| s.uval o.ty o.b : Nat)
/-- R226. -/
def execXorI (o : ROp) (s : State) : Out := intOp o s (s.uval o.ty o.a ^^^ s.uval o.ty o.b : Nat)
/-- R226: ua and not ub. -/
def execAndn (o : ROp) (s : State) : Out :=
  intOp o s (s.uval o.ty o.a &&& (2 ^ o.ty.width - 1 - s.uval o.ty o.b) : Nat)
/-- R226: ua × 2^s. -/
def execShl (o : ROp) (s : State) : Out :=
  intOp o s (s.uval o.ty o.a * 2 ^ s.shamt o.ty o.b : Nat)
/-- R226: floor(ua / 2^s). -/
def execShr (o : ROp) (s : State) : Out :=
  intOp o s (s.uval o.ty o.a / 2 ^ s.shamt o.ty o.b : Nat)
/-- R226: floor(sext(ua, w) / 2^s). -/
def execSra (o : ROp) (s : State) : Out :=
  intOp o s (sextInt (s.uval o.ty o.a) o.ty.width / (2 ^ s.shamt o.ty o.b : Nat))
/-- R226: rotation left. -/
def execRot (o : ROp) (s : State) : Out :=
  let x := s.uval o.ty o.a
  let n := s.shamt o.ty o.b
  intOp o s (x * 2 ^ n + x / 2 ^ (o.ty.width - n) : Nat)
/-- R229. -/
def execClz (o : ROp) (s : State) : Out := intOp o s (clzOf (s.uval o.ty o.a) o.ty.width : Nat)
/-- R229. -/
def execCtz (o : ROp) (s : State) : Out := intOp o s (ctzOf (s.uval o.ty o.a) o.ty.width : Nat)
/-- R229. -/
def execPopc (o : ROp) (s : State) : Out := intOp o s (popOf (s.uval o.ty o.a) o.ty.width : Nat)
/-- R226. -/
def execMinI (o : ROp) (s : State) : Out := intOp o s (min (s.ival o.ty o.a) (s.ival o.ty o.b))
/-- R226. -/
def execMaxI (o : ROp) (s : State) : Out := intOp o s (max (s.ival o.ty o.a) (s.ival o.ty o.b))

/-- R230. -/
def execCmp (o : ROp) (s : State) : Out :=
  wordOp o.grd o.d s
    (boolWord (condOrd o.sel.toNat (compare (s.ival o.ty o.a) (s.ival o.ty o.b))))

/-- R231. -/
def execSel (o : ROp) (s : State) : Out :=
  wordOp o.grd o.d s (if s.G o.c = 1 then s.G o.a else s.G o.b)

/-- R228. -/
def execMovi (o : IOp) (s : State) : Out := wordOp o.grd o.d s o.imm

/-- R232. -/
def execLea (o : ROp) (s : State) : Out :=
  wordOp o.grd o.d s (s.G o.a + s.G o.b * BitVec.ofNat 64 (2 ^ (o.sel.toNat % 8)))

/-- R233. -/
def execBfx (o : ROp) (s : State) : Out :=
  let b := s.G o.b
  let f := fld (s.G o.a).toNat (bfPos b) (bfWid b)
  wordOp o.grd o.d s (if o.ty.signed then ofInt (sextInt f (bfWid b)) else BitVec.ofNat 64 f)

/-- R234: what would land above bit 63 is dropped. -/
def execBfi (o : ROp) (s : State) : Out :=
  let b := s.G o.b
  wordOp o.grd o.d s
    (BitVec.ofNat 64 (setFld (s.G o.c).toNat (bfPos b) (bfWid b) (s.G o.a).toNat))

/-- R229: the bytes in reverse order. -/
def execBswap (o : ROp) (s : State) : Out :=
  intOp o s (ofBytes (bytesOf (s.uval o.ty o.a) (o.ty.width / 8)).reverse : Nat)

/-- R235. -/
def execMovp (o : ROp) (s : State) : Out :=
  let v := s.G o.a
  guarded o.grd s fun s =>
    if o.sel = 1 then
      if isP o.d then
        s.retire (s.setMe { s.me with p := BitVec.ofNat 8 (v.toNat % 256 / 2 * 2) })
      else s.retire (s.setG o.d (BitVec.ofNat 64 (setBit s.view.p.toNat 0 true)))
    else if isP o.d then s.retire (s.setG o.d (boolWord (v != 0)))
    else s.retire (s.setG o.d v)

/-- R236. -/
def execPset (o : ROp) (s : State) : Out :=
  let a := s.G o.a == 1
  let b := s.G o.b == 1
  wordOp o.grd o.d s (boolWord (match o.sel.toNat with
    | 0 => a && b
    | 1 => a || b
    | 2 => a != b
    | _ => a && !b))

end Sys2Proof.Machine
end

