-- ==== Sys2Proof/Machine/Dispatch.lean ====
section
/-! DEFINITION. The one dispatch: an arm per constructor, a direct call of its meaning. -/

namespace Sys2Proof.Machine
open Sys2Proof

def exec (i : Instr) (s : State) : Host.Outcome State Fault Refusal :=
  match i with
  | .nop => Sys2Proof.Machine.execNop s
  | .add o => Sys2Proof.Machine.execAdd o s
  | .sub o => Sys2Proof.Machine.execSub o s
  | .addi o => Sys2Proof.Machine.execAddi o s
  | .mul o => Sys2Proof.Machine.execMul o s
  | .mulh o => Sys2Proof.Machine.execMulh o s
  | .divI o => Sys2Proof.Machine.execDivI o s
  | .remI o => Sys2Proof.Machine.execRemI o s
  | .andI o => Sys2Proof.Machine.execAndI o s
  | .orI o => Sys2Proof.Machine.execOrI o s
  | .xorI o => Sys2Proof.Machine.execXorI o s
  | .andn o => Sys2Proof.Machine.execAndn o s
  | .shl o => Sys2Proof.Machine.execShl o s
  | .shr o => Sys2Proof.Machine.execShr o s
  | .sra o => Sys2Proof.Machine.execSra o s
  | .rot o => Sys2Proof.Machine.execRot o s
  | .clz o => Sys2Proof.Machine.execClz o s
  | .ctz o => Sys2Proof.Machine.execCtz o s
  | .popc o => Sys2Proof.Machine.execPopc o s
  | .minI o => Sys2Proof.Machine.execMinI o s
  | .maxI o => Sys2Proof.Machine.execMaxI o s
  | .cmp o => Sys2Proof.Machine.execCmp o s
  | .sel o => Sys2Proof.Machine.execSel o s
  | .movi o => Sys2Proof.Machine.execMovi o s
  | .lea o => Sys2Proof.Machine.execLea o s
  | .bfx o => Sys2Proof.Machine.execBfx o s
  | .bfi o => Sys2Proof.Machine.execBfi o s
  | .bswap o => Sys2Proof.Machine.execBswap o s
  | .movp o => Sys2Proof.Machine.execMovp o s
  | .pset o => Sys2Proof.Machine.execPset o s
  | .fadd o => Sys2Proof.Machine.execFadd o s
  | .fsub o => Sys2Proof.Machine.execFsub o s
  | .fmul o => Sys2Proof.Machine.execFmul o s
  | .ffma o => Sys2Proof.Machine.execFfma o s
  | .fdiv o => Sys2Proof.Machine.execFdiv o s
  | .fsqrt o => Sys2Proof.Machine.execFsqrt o s
  | .fmin o => Sys2Proof.Machine.execFmin o s
  | .fmax o => Sys2Proof.Machine.execFmax o s
  | .fcmp o => Sys2Proof.Machine.execFcmp o s
  | .fcvt o => Sys2Proof.Machine.execFcvt o s
  | .fclass o => Sys2Proof.Machine.execFclass o s
  | .fsgn o => Sys2Proof.Machine.execFsgn o s
  | .br o => Sys2Proof.Machine.execBr o s
  | .boc o => Sys2Proof.Machine.execBoc o s
  | .call o => Sys2Proof.Machine.execCall o s
  | .ret o => Sys2Proof.Machine.execRet o s
  | .jmp o => Sys2Proof.Machine.execJmp o s
  | .calli o => Sys2Proof.Machine.execCalli o s
  | .loopI o => Sys2Proof.Machine.execLoopI o s
  | .yieldI o => Sys2Proof.Machine.execYieldI o s
  | .park o => Sys2Proof.Machine.execPark o s
  | .enter o => Sys2Proof.Machine.execEnter o s
  | .leave o => Sys2Proof.Machine.execLeave o s
  | .endI o => Sys2Proof.Machine.execEndI o s
  | .ld o => Sys2Proof.Machine.execLd o s
  | .st o => Sys2Proof.Machine.execSt o s
  | .ldw o => Sys2Proof.Machine.execLdw o s
  | .ldc o => Sys2Proof.Machine.execLdc o s
  | .stf o => Sys2Proof.Machine.execStf o s
  | .ste o => Sys2Proof.Machine.execSte o s
  | .feq o => Sys2Proof.Machine.execFeq o s
  | .feset o => Sys2Proof.Machine.execFeset o s
  | .ldl o => Sys2Proof.Machine.execLdl o s
  | .stl o => Sys2Proof.Machine.execStl o s
  | .ldb o => Sys2Proof.Machine.execLdb o s
  | .stb o => Sys2Proof.Machine.execStb o s
  | .ldk o => Sys2Proof.Machine.execLdk o s
  | .wld o => Sys2Proof.Machine.execWld o s
  | .pfx o => Sys2Proof.Machine.execPfx o s
  | .acq o => Sys2Proof.Machine.execAcq o s
  | .rel o => Sys2Proof.Machine.execRel o s
  | .fence o => Sys2Proof.Machine.execFence o s
  | .aadd o => Sys2Proof.Machine.execAadd o s
  | .aand o => Sys2Proof.Machine.execAand o s
  | .aor o => Sys2Proof.Machine.execAor o s
  | .axor o => Sys2Proof.Machine.execAxor o s
  | .amin o => Sys2Proof.Machine.execAmin o s
  | .amax o => Sys2Proof.Machine.execAmax o s
  | .aswp o => Sys2Proof.Machine.execAswp o s
  | .acas o => Sys2Proof.Machine.execAcas o s
  | .afadd o => Sys2Proof.Machine.execAfadd o s
  | .rsta o => Sys2Proof.Machine.execRsta o s
  | .swait o => Sys2Proof.Machine.execSwait o s
  | .ssig o => Sys2Proof.Machine.execSsig o s
  | .sset o => Sys2Proof.Machine.execSset o s
  | .msend o => Sys2Proof.Machine.execMsend o s
  | .mrd o => Sys2Proof.Machine.execMrd o s
  | .bara o => Sys2Proof.Machine.execBara o s
  | .barw o => Sys2Proof.Machine.execBarw o s
  | .doneI o => Sys2Proof.Machine.execDoneI o s
  | .startI o => Sys2Proof.Machine.execStartI o s
  | .hchk o => Sys2Proof.Machine.execHchk o s
  | .rpop o => Sys2Proof.Machine.execRpop o s
  | .rdec o => Sys2Proof.Machine.execRdec o s
  | .take o => Sys2Proof.Machine.execTake o s
  | .give o => Sys2Proof.Machine.execGive o s
  | .mret o => Sys2Proof.Machine.execMret o s
  | .vadd o => Sys2Proof.Machine.execVadd o s
  | .vsub o => Sys2Proof.Machine.execVsub o s
  | .vmul o => Sys2Proof.Machine.execVmul o s
  | .vfma o => Sys2Proof.Machine.execVfma o s
  | .vmin o => Sys2Proof.Machine.execVmin o s
  | .vmax o => Sys2Proof.Machine.execVmax o s
  | .vabs o => Sys2Proof.Machine.execVabs o s
  | .vcmp o => Sys2Proof.Machine.execVcmp o s
  | .vsel o => Sys2Proof.Machine.execVsel o s
  | .vand o => Sys2Proof.Machine.execVand o s
  | .vor o => Sys2Proof.Machine.execVor o s
  | .vxor o => Sys2Proof.Machine.execVxor o s
  | .vshl o => Sys2Proof.Machine.execVshl o s
  | .vshr o => Sys2Proof.Machine.execVshr o s
  | .vcvt o => Sys2Proof.Machine.execVcvt o s
  | .vexp2 o => Sys2Proof.Machine.execVexp2 o s
  | .vlog2 o => Sys2Proof.Machine.execVlog2 o s
  | .vrcp o => Sys2Proof.Machine.execVrcp o s
  | .vrsq o => Sys2Proof.Machine.execVrsq o s
  | .vred o => Sys2Proof.Machine.execVred o s
  | .vscan o => Sys2Proof.Machine.execVscan o s
  | .vperm o => Sys2Proof.Machine.execVperm o s
  | .vgath o => Sys2Proof.Machine.execVgath o s
  | .vscat o => Sys2Proof.Machine.execVscat o s
  | .vqnt o => Sys2Proof.Machine.execVqnt o s
  | .vdq o => Sys2Proof.Machine.execVdq o s
  | .vmov o => Sys2Proof.Machine.execVmov o s
  | .vld o => Sys2Proof.Machine.execVld o s
  | .vst o => Sys2Proof.Machine.execVst o s
  | .vmrg o => Sys2Proof.Machine.execVmrg o s
  | .vbsr o => Sys2Proof.Machine.execVbsr o s
  | .mld o => Sys2Proof.Machine.execMld o s
  | .mst o => Sys2Proof.Machine.execMst o s
  | .mma o => Sys2Proof.Machine.execMma o s
  | .mzero o => Sys2Proof.Machine.execMzero o s
  | .mtrn o => Sys2Proof.Machine.execMtrn o s
  | .mcvt o => Sys2Proof.Machine.execMcvt o s
  | .mscl o => Sys2Proof.Machine.execMscl o s
  | .macc o => Sys2Proof.Machine.execMacc o s
  | .mstat o => Sys2Proof.Machine.execMstat o s
  | .capp o => Sys2Proof.Machine.execCapp o s
  | .cadv o => Sys2Proof.Machine.execCadv o s
  | .cseq o => Sys2Proof.Machine.execCseq o s
  | .clck o => Sys2Proof.Machine.execClck o s
  | .culk o => Sys2Proof.Machine.execCulk o s
  | .evpop o => Sys2Proof.Machine.execEvpop o s
  | .csrr o => Sys2Proof.Machine.execCsrr o s
  | .csrw o => Sys2Proof.Machine.execCsrw o s
  | .csrs o => Sys2Proof.Machine.execCsrs o s
  | .csrc o => Sys2Proof.Machine.execCsrc o s
  | .trap o => Sys2Proof.Machine.execTrap o s
  | .eret o => Sys2Proof.Machine.execEret o s
  | .invl o => Sys2Proof.Machine.execInvl o s
  | .wbk o => Sys2Proof.Machine.execWbk o s
  | .perm o => Sys2Proof.Machine.execPerm o s
  | .bkpt o => Sys2Proof.Machine.execBkpt o s
  | .markI o => Sys2Proof.Machine.execMarkI o s
  | .dstp o => Sys2Proof.Machine.execDstp o s
  | .issueSelection pid => Sys2Proof.Machine.execIssueSelection pid s
  | .windowSpill pid ctx => Sys2Proof.Machine.execWindowSpill pid ctx s
  | .windowFill pid ctx => Sys2Proof.Machine.execWindowFill pid ctx s
  | .lineFetch pid ctx => Sys2Proof.Machine.execLineFetch pid ctx s
  | .lineRequest pid line => Sys2Proof.Machine.execLineRequest pid line s
  | .lineArrival pid line => Sys2Proof.Machine.execLineArrival pid line s
  | .homeStorePerform pid seq => Sys2Proof.Machine.execHomeStorePerform pid seq s
  | .homeFullEmptyStep id => Sys2Proof.Machine.execHomeFullEmptyStep id s
  | .homeAtomicStep id => Sys2Proof.Machine.execHomeAtomicStep id s
  | .nearCacheAdd id => Sys2Proof.Machine.execNearCacheAdd id s
  | .replyArrival id => Sys2Proof.Machine.execReplyArrival id s
  | .storeEntryFault pid seq => Sys2Proof.Machine.execStoreEntryFault pid seq s
  | .trapDelivery pid ctx => Sys2Proof.Machine.execTrapDelivery pid ctx s
  | .monitorTimeout pid ctx => Sys2Proof.Machine.execMonitorTimeout pid ctx s
  | .parkTimeout pid ctx => Sys2Proof.Machine.execParkTimeout pid ctx s
  | .timedReexecute pid ctx => Sys2Proof.Machine.execTimedReexecute pid ctx s
  | .parkHeapTimeout pid ctx => Sys2Proof.Machine.execParkHeapTimeout pid ctx s
  | .busyWakeTimeout pid ctx => Sys2Proof.Machine.execBusyWakeTimeout pid ctx s
  | .watchdog pid ctx => Sys2Proof.Machine.execWatchdog pid ctx s
  | .refreshWindowEnd die bank => Sys2Proof.Machine.execRefreshWindowEnd die bank s
  | .loadMessage id => Sys2Proof.Machine.execLoadMessage id s
  | .storeMessage id => Sys2Proof.Machine.execStoreMessage id s
  | .fullEmptyMessage id => Sys2Proof.Machine.execFullEmptyMessage id s
  | .atomicMessage id => Sys2Proof.Machine.execAtomicMessage id s
  | .signalMessage id => Sys2Proof.Machine.execSignalMessage id s
  | .decrementMessage id => Sys2Proof.Machine.execDecrementMessage id s
  | .arrivalMessage id => Sys2Proof.Machine.execArrivalMessage id s
  | .barrierPhaseArrival pid => Sys2Proof.Machine.execBarrierPhaseArrival pid s
  | .parkMessage id => Sys2Proof.Machine.execParkMessage id s
  | .messageHandlingStart pid ctx => Sys2Proof.Machine.execMessageHandlingStart pid ctx s
  | .messageReturn id => Sys2Proof.Machine.execMessageReturn id s
  | .sweepPerform pid => Sys2Proof.Machine.execSweepPerform pid s
  | .sweepComplete pid => Sys2Proof.Machine.execSweepComplete pid s
  | .matrixComplete pid => Sys2Proof.Machine.execMatrixComplete pid s
  | .workFault u => Sys2Proof.Machine.execWorkFault u s
  | .copyRecordStart chain => Sys2Proof.Machine.execCopyRecordStart chain s
  | .copyRecordRow chain => Sys2Proof.Machine.execCopyRecordRow chain s
  | .cowStep chain => Sys2Proof.Machine.execCowStep chain s
  | .copyRecordComplete chain => Sys2Proof.Machine.execCopyRecordComplete chain s
  | .followOnOffer id => Sys2Proof.Machine.execFollowOnOffer id s
  | .eventRecordPost pid => Sys2Proof.Machine.execEventRecordPost pid s
  | .atsInvalidation pasid va size => Sys2Proof.Machine.execAtsInvalidation pasid va size s
  | .priResponse pasid page r => Sys2Proof.Machine.execPriResponse pasid page r s
  | .doorbellWrite q tail => Sys2Proof.Machine.execDoorbellWrite q tail s
  | .tailCheck q => Sys2Proof.Machine.execTailCheck q s
  | .launchPacket q => Sys2Proof.Machine.execLaunchPacket q s
  | .copyPacket q => Sys2Proof.Machine.execCopyPacket q s
  | .signalPacket q => Sys2Proof.Machine.execSignalPacket q s
  | .waitPacket q => Sys2Proof.Machine.execWaitPacket q s
  | .wfillPacket q => Sys2Proof.Machine.execWfillPacket q s
  | .markerPacket q => Sys2Proof.Machine.execMarkerPacket q s
  | .ckptPacket q => Sys2Proof.Machine.execCkptPacket q s
  | .packetCompletion q idx => Sys2Proof.Machine.execPacketCompletion q idx s
  | .dispatchRound die => Sys2Proof.Machine.execDispatchRound die s
  | .quantumEnd die => Sys2Proof.Machine.execQuantumEnd die s
  | .wholeTeamSwap team => Sys2Proof.Machine.execWholeTeamSwap team s
  | .swapIn team => Sys2Proof.Machine.execSwapIn team s
  | .migrationRequest pid => Sys2Proof.Machine.execMigrationRequest pid s
  | .spatialPreEmption pid target => Sys2Proof.Machine.execSpatialPreEmption pid target s
  | .teamFailure pid => Sys2Proof.Machine.execTeamFailure pid s
  | .dispenserFloor die => Sys2Proof.Machine.execDispenserFloor die s
  | .dispenserEntryError die idx parityLost => Sys2Proof.Machine.execDispenserEntryError die idx parityLost s
  | .rampWindowBoundary => Sys2Proof.Machine.execRampWindowBoundary s
  | .grant w0 w1 now => Sys2Proof.Machine.execGrant w0 w1 now s
  | .grantEffective => Sys2Proof.Machine.execGrantEffective s
  | .lend w0 w1 w2 rest now => Sys2Proof.Machine.execLend w0 w1 w2 rest now s
  | .returnLease w0 w2 => Sys2Proof.Machine.execReturnLease w0 w2 s
  | .leaseExpiry src id => Sys2Proof.Machine.execLeaseExpiry src id s
  | .leaseRegain id => Sys2Proof.Machine.execLeaseRegain id s
  | .grantTimeout => Sys2Proof.Machine.execGrantTimeout s
  | .zoneDrawUpdate zone watts => Sys2Proof.Machine.execZoneDrawUpdate zone watts s
  | .clockAdjust zone => Sys2Proof.Machine.execClockAdjust zone s
  | .clockChange pid n => Sys2Proof.Machine.execClockChange pid n s
  | .zoneBudgetWrite zone v => Sys2Proof.Machine.execZoneBudgetWrite zone v s
  | .flowShareWrite zone v => Sys2Proof.Machine.execFlowShareWrite zone v s
  | .energyBooking cores jobs ballast base upkeep => Sys2Proof.Machine.execEnergyBooking cores jobs ballast base upkeep s
  | .cacheCounterFlush die slice => Sys2Proof.Machine.execCacheCounterFlush die slice s
  | .valveStep zone => Sys2Proof.Machine.execValveStep zone s
  | .sensorReading zone r => Sys2Proof.Machine.execSensorReading zone r s
  | .valveFault zone => Sys2Proof.Machine.execValveFault zone s
  | .dryChannelEvacuation zone flowGood => Sys2Proof.Machine.execDryChannelEvacuation zone flowGood s
  | .clusterRetire die cluster => Sys2Proof.Machine.execClusterRetire die cluster s
  | .patrolScrub frame line words => Sys2Proof.Machine.execPatrolScrub frame line words s
  | .firmwareReload verified => Sys2Proof.Machine.execFirmwareReload verified s
  | .portTrainingLoss port => Sys2Proof.Machine.execPortTrainingLoss port s
  | .fabricAccess a => Sys2Proof.Machine.execFabricAccess a s
  | .fabricTimeout id => Sys2Proof.Machine.execFabricTimeout id s
  | .setFrameOwner frame v => Sys2Proof.Machine.execSetFrameOwner frame v s
  | .clearFrameOwner frame => Sys2Proof.Machine.execClearFrameOwner frame s
  | .writePermissionEntry arg0 arg1 arg2 => Sys2Proof.Machine.execWritePermissionEntry arg0 arg1 arg2 s
  | .setQueueState arg0 arg1 => Sys2Proof.Machine.execSetQueueState arg0 arg1 s
  | .writeHomeGroupEntry arg0 arg1 => Sys2Proof.Machine.execWriteHomeGroupEntry arg0 arg1 s
  | .partitionReset arg0 => Sys2Proof.Machine.execPartitionReset arg0 s
  | .attest arg0 => Sys2Proof.Machine.execAttest arg0 s
  | .setPartitionResetPolicy arg0 arg1 => Sys2Proof.Machine.execSetPartitionResetPolicy arg0 arg1 s
  | .mailboxBadOp op => Sys2Proof.Machine.execMailboxBadOp op s
  | .traceTimeRecord pid => Sys2Proof.Machine.execTraceTimeRecord pid s
  | .traceDrain pid => Sys2Proof.Machine.execTraceDrain pid s
  | .fieldRecordCommit => Sys2Proof.Machine.execFieldRecordCommit s
  | .zoneMinuteTick => Sys2Proof.Machine.execZoneMinuteTick s
  | .registerWrite r v => Sys2Proof.Machine.execRegisterWrite r v s
  | .deviceReset => Sys2Proof.Machine.execDeviceReset s
  | .regulatorDroop pid => Sys2Proof.Machine.execRegulatorDroop pid s
  | .portTraining port => Sys2Proof.Machine.execPortTraining port s
  | .portTrainingLostFor1S port => Sys2Proof.Machine.execPortTrainingLostFor1S port s
  | .ioDieUncorrectableError => Sys2Proof.Machine.execIoDieUncorrectableError s
  | .holdWindowEnd pid ctx line => Sys2Proof.Machine.execHoldWindowEnd pid ctx line s

end Sys2Proof.Machine
end

