-- ==== Sys2Proof/Machine/Step.lean ====
section
/-! DEFINITION. One step: the agent that is due acts; when that agent is an issue selector and chose a
context, the context's next group is fetched, decoded and executed in the same step. -/

namespace Sys2Proof.Machine
open Sys2Proof

/-- Execute a slot: the instruction it decodes to, or 01h (R485). -/
def runSlot (w : Nat) (s : State) : Host.Outcome State Fault Refusal :=
  match decodeSlot w with
  | some i => exec i s
  | none => .next (s.illegal w)

/-- Execute a pair: both members against the state before the group, then the group's end (R196,
R198). -/
def runPair (a b : Nat) (s : State) : Host.Outcome State Fault Refusal :=
  match runSlot a s.openPair with
  | .next s1 => match runSlot b s1 with
    | .next s2 => .next (s.finishPair s2)
    | r => r
  | r => r

/-- A pair of which one member holds a poisoned word (R443, R475). -/
def runHalf (second : Bool) (w : Nat) (s : State) : Host.Outcome State Fault Refusal :=
  match runSlot w (if second then s.openPair.damagedSlot else s.openPair) with
  | .next s1 => .next (s.finishPair (if second then s1 else s1.damagedSlot))
  | r => r

/-- The next group of the executing context. -/
def runGroup (s : State) : Host.Outcome State Fault Refusal :=
  match s.fetchGroup with
  | .stop s' => .next s'
  | .one s' w => runSlot w s'
  | .two s' a b => runPair a b s'
  | .half s' second w => runHalf second w s'

/-- A selector's choice issues in the same step; then its core cycle ends. -/
def runIssue (s : State) : Host.Outcome State Fault Refusal :=
  if s.issue then match runGroup { s with issue := false } with
    | .next t => .next (t.tick s.cur.1)
    | r => r
  else .next s

/-- An agent acts; the cores whose state changed log it (R426). -/
def runEvent (e : Instr) (s : State) : Host.Outcome State Fault Refusal :=
  match exec e s with
  | .next s' => match runIssue s' with
    | .next t => .next (s.traceStep t)
    | r => r
  | r => r

/-- The head of the agenda is due; with an empty agenda the selector of core `turn` has its next
cycle, whose length is 6720/N ticks (R420). Only events may stand in the agenda. -/
def step (s : State) : Host.Outcome State Fault Refusal :=
  match s.agenda with
  | d :: rest =>
    if (opcFields d.event).isSome then .fault .agendaInstr
    else runEvent d.event { s with agenda := rest, ticks := s.ticks + d.wait }
  | [] => runEvent (.issueSelection s.turn) { s with ticks := s.ticks + (s.core s.turn).cycleTicks }

/-- `s` with the instruction `w` of `nbits` bits where the next step fetches. The program of a team
is loaded from outside the core, by stores to memory and a LAUNCH; this stands for that load, the
team's start and the fetch of its line. Log entry 30. -/
def State.withFetchWord (s : State) (nbits w : Nat) : State := s.placeSlot (w % 2 ^ min nbits 96)

end Sys2Proof.Machine
end

