-- ==== Sys2Proof/WellFormed.lean ====
section
/-! DEFINITION. Well-formed instructions: an encoded instruction whose fields pass every check of
R486. The checks themselves are the decoder's (Sys2Proof/Decode.lean). A machine event has no
encoding and is not well formed in this sense. -/

namespace Sys2Proof

/-- The instruction can stand in a slot of a fetch line. -/
abbrev Instr.WellFormed (i : Instr) : Prop := legal i = true

/-- The instruction is one of the 155 with an encoding. -/
abbrev Instr.Encoded (i : Instr) : Prop := (opcFields i).isSome = true

end Sys2Proof
end

