-- ==== Sys2Proof/Safety.lean ====
section
/-! DEFINITION. The terms that statements use: what an instruction that completes writes, and what it
leaves as it was. -/

namespace Sys2Proof.Machine
open Sys2Proof

/-- Only machine events stand in the agenda. -/
def State.agendaOk (s : State) : Bool := s.agenda.all fun d => !(opcFields d.event).isSome

/-! ### Registers -/

/-- What a register reads as after `v` is written to it: g0 reads 0, p0 reads true, a predicate takes
bit 0 (R189, R212). -/
def readBack (d : Spec) (v : Word) : Word :=
  if d.toNat = 0 then 0
  else if d.toNat < 32 then v
  else if d.toNat < 56 then 0
  else if d.toNat = 56 then 1
  else if v.getLsbD 0 then 1 else 0

/-- A context without its registers, its place, its outcome and the model's notes of wakes and of the
ellipsis monitor: what an instruction that completes leaves as it was, apart from what its statement
names. -/
def Ctx.rest (x : Ctx) : Ctx :=
  { x with g := [], win := [], p := 0, ip := 0, retry := false, front := false, oc := 0, count := 0
           armed := false, mon := {}, rung := none }

/-- The executing instruction completed with end `e`. Alone: the context stands at next(IP), and an
OK outcome stands in ctx.oc with the not-ready count restored (R59, R77). In a pair: its end is
recorded, and the group's end stays to come (R196). -/
def Ended (s t : State) (e : End) : Prop :=
  match s.pair with
  | some p => t.pair = some { p with ends := p.ends ++ [(s.ip, e)] } ∧
      t.me.ip = s.me.ip ∧ t.me.retry = s.me.retry ∧ t.me.front = s.me.front ∧
      t.me.oc = s.me.oc ∧ t.me.count = s.me.count ∧ t.me.armed = s.me.armed
  | none => t.pair = none ∧ t.me.ip = nextIp s.me.ip ∧ t.me.retry = false ∧ t.me.front = false ∧
      match e with
      | .ok _ => t.me.oc = 0 ∧ t.me.count = s.me.init ∧ t.me.armed = false
      | _ => t.me.oc = s.me.oc ∧ t.me.count = s.me.count ∧ t.me.armed = s.me.armed

/-- Register `d` took `v`, every other register that a context names and every half of its window
keeps its value, and the rest of the context is that of `x`. -/
structure Writes (s t : State) (x : Ctx) (e : End) (d : Spec) (v : Word) : Prop where
  value : t.me.reg d = readBack d v
  others : ∀ r : Spec, r ≠ d → t.me.reg r = x.reg r
  halves : ∀ h, h ≠ x.wbase → h ≠ x.wbase + 1 → ∀ j, j < 8 →
    t.me.win.get (8 * h + j) 0 = x.win.get (8 * h + j) 0
  ended : Ended s t e
  rest : t.me.rest = x.rest

/-- Nothing but the executing context changed: every other context, every core's special registers and
tables, and the rest of the machine, its memory included, are as they were. -/
structure Alone (s t : State) : Prop where
  contexts : ∀ p k, (p, k) ≠ s.cur → t.ctx p k = s.ctx p k
  cores : ∀ p, { t.core p with ctxs := [] } = { s.core p with ctxs := [] }
  machine : t = { s with cores := t.cores, pair := t.pair }

/-- `i` completes: it writes `v` to `d` and changes nothing else. -/
def Gives (i : Instr) (s : State) (d : Spec) (v : Word) : Prop :=
  ∃ t, exec i s = .next t ∧ Writes s t s.me .next d v ∧ Alone s t

/-- `v` is the 64-bit result of an integer instruction of type `t` whose exact result is `x` (R224):
its low bits are x modulo 2^w, or the nearest bound, and the bits above extend them by the type. -/
def IntResult (t : Ty) (sat : Bool) (x : Int) (v : Word) : Prop :=
  v = t.ext (v.toNat % 2 ^ t.width) ∧
  (sat = false → ((v.toNat : Int) - x) % ((2 ^ t.width : Nat) : Int) = 0) ∧
  (sat = true → t.int v.toNat = max t.lo (min t.hi x))

/-- An integer instruction writes the result of exact value `x`, where its encoding is legal. -/
def IntGives (i : Instr) (s : State) (d : Spec) (t : Ty) (sat : Bool) (x : Int) : Prop :=
  i.WellFormed → ∃ v, Gives i s d v ∧ IntResult t sat x v

/-- The word that a predicate receives. -/
def predWord (p : Prop) [Decidable p] : Word := if p then 1 else 0

/-! ### Other ends -/

/-- `i`, whose guard is true, takes a transfer to `target` in state `s`: alone, where the target is a
landing slot, the context stands there with the registers of `x`, and a target at or before the
instruction counts as a retry (R77, R245); in a pair the transfer is recorded for the end of the
group (R198). -/
def Jumps (i : Instr) (s : State) (m : Move) (x : Ctx) (target : Word) : Prop :=
  (s.pair = none → s.myCore.land x target = .ok →
    exec i s = .next (s.setMe { x with ip := target, retry := decide (target.toNat ≤ s.me.ip.toNat), front := false })) ∧
  ∀ p, s.pair = some p → ∃ t, exec i s = .next t ∧ Alone s t ∧ t.me = x ∧
    t.pair = some { p with ends := p.ends ++ [(s.ip, .jump m target)] }

/-- `i` raises a precise trap and has no effect of its own: alone, the trap is taken at once; in a pair
it is recorded, and suppresses both members (R198, R443). -/
def Traps (i : Instr) (s : State) (cause : Nat) (info : Word) : Prop :=
  (s.pair = none → exec i s = .next (s.raise s.cur.1 s.cur.2 { cause := cause, info := info } s.me.ip)) ∧
  ∀ p, s.pair = some p → ∃ t order keep, exec i s = .next t ∧
    t.pair = some { p with ends := p.ends ++ [(s.ip, .trap order keep { cause := cause, info := info })] } ∧
    (keep = false → t = { s with pair := t.pair })

/-- `i` returns a not-ready outcome and has no effect of its own (R59): its code and reason stand in
ctx.oc, its IP in ctx.nrip, and with NRA 00b execution goes on behind it (R62). -/
def Unready (i : Instr) (s : State) (code reason : Nat) : Prop :=
  s.pair = none → s.me.budPark = false → s.me.armed = false → ∃ t, exec i s = .next t ∧
    t.me.oc = BitVec.ofNat 8 (8 * reason + code) ∧ t.me.nrip = s.me.ip ∧ t.mem = s.mem ∧
    (∀ r, t.me.reg r = s.me.reg r)

/-! ### What a store leaves -/

/-- A context without what a wake changes: its wait, and the place where PARK goes on. -/
def Ctx.still (x : Ctx) : Ctx :=
  { x with wait := none, ip := 0, retry := false, front := false, rung := none }

/-- A core without its contexts, its copies of words, and the lists of those who wait. -/
def Core.still (c : Core) : Core := { c with ctxs := [], dcache := [], watches := [], semWait := [] }

/-- A chain without what the wake of its engine changes. -/
def Chain.still (c : Chain) : Chain := { c with run := none, semMet := false, semAsked := false }

/-- Apart from local memory, the executing context and the wakes that a store brings, `t` is `s`:
every register of every context, every special register of every core, every other table. -/
structure Spared (s t : State) : Prop where
  contexts : ∀ p k, (p, k) ≠ s.cur → (t.ctx p k).still = (s.ctx p k).still
  cores : ∀ p, (t.core p).still = (s.core p).still
  chains : ∀ h, (t.chain h).still = (s.chain h).still
  machine : t = { s with cores := t.cores, chains := t.chains, mem := t.mem, empties := t.empties
                         poison := t.poison, pair := t.pair }

/-- Every byte outside the `n` bytes from `a` reads as before. -/
def SameBytes (s t : State) (a n : Nat) : Prop :=
  ∀ b, b < a ∨ a + n ≤ b → Memory.read t.mem b = Memory.read s.mem b

/-- Every full/empty bit and every poison mark but those of the word at `a` is as before. -/
def SameMarks (s t : State) (a : Nat) : Prop :=
  ∀ b, b / 8 ≠ a / 8 → t.isFull b = s.isFull b ∧ t.isPoison b = s.isPoison b

/-- The state an instruction with an ordering suffix starts from: .acq does what ACQ does (R166). -/
def State.after (s : State) (r : Ord) : State := if acqOf r then s.acquire else s

/-- An instruction on the word at offset `off` of the own local store completes OK with `v` in `d`; the
word is then `w`, its bit `full`, its poison `p`, and of memory nothing else changes. -/
def WordOp (i : Instr) (s : State) (r : Ord) (off : Nat) (d : Spec) (v w : Word) (full p : Bool) : Prop :=
  let a := lsAddr s.cur.1 off
  ∃ t, exec i s = .next t ∧ Writes s t s.me (.ok false) d v ∧ Spared (s.after r) t ∧
    t.rd a 8 = w.toNat ∧ t.isFull a = full ∧ t.isPoison a = p ∧ SameBytes s t a 8 ∧ SameMarks s t a

/-! ### The forms that use the reply slot (R67, R272) -/

/-- What LDW, LDC, STF, FEQ, STE and FESET accept (R260). -/
def feUse (write : Bool) : Use :=
  { align := 8, own := true, other := true, device := true, fabric := true, write := write, need := rF }

/-- What RSTA accepts. -/
def rstaUse (o : MOp) : Use :=
  { align := elemBytes o.ty, host := true, device := true, fabric := true, write := true, need := rA }

/-- An instruction whose access goes through the reply slot: its address, what it accepts, the operation
it asks for, where its value goes, whether it is a plain load, whether a watch may stand for it, and
whether .acq acts when it completes. -/
structure SlotForm where
  i : Instr
  a : Word
  use : Use
  op : HomeOp
  d : Spec
  plain : Bool
  park : Bool
  acq : Bool

/-- The atomics (R274). -/
def atomForms (o : MOp) (s : State) : List SlotForm :=
  ([(.aadd o, .add), (.aand o, .and), (.aor o, .or), (.axor o, .xor), (.amin o, .min), (.amax o, .max),
    (.aswp o, .swap), (.acas o, .cas), (.afadd o, .fadd)] : List (Instr × AtomOp)).map fun e =>
    ⟨e.1, s.aea o, elemUse o rA true, .atomic e.2 o.ty (s.G o.b) (s.G o.d), o.d, false, false, true⟩

/-- LDW, LDC, STF and FEQ. -/
def waitForms (o : MOp) (s : State) : List SlotForm :=
  [⟨.ldw o, s.ea o, feUse false, .ldw, o.d, false, o.nra == .park, true⟩,
   ⟨.ldc o, s.ea o, feUse false, .ldc, o.d, false, o.nra == .park, true⟩,
   ⟨.feq o, s.ea o, feUse false, .feq, o.d, false, o.nra == .park, true⟩,
   ⟨.stf o, s.ea o, feUse true, .stf (s.G o.d), 0, false, o.nra == .park, true⟩]

/-- LD and LDK. -/
def loadForms (o : MOp) (s : State) : List SlotForm :=
  [⟨.ld o, s.ea o, elemUse o rR false, .load o.ty o.v0, o.d, true, false, false⟩,
   ⟨.ldk o, s.ea o, elemUse o rR false, .load o.ty o.v0, o.d, true, false, false⟩]

/-- The forms that go to a place through the reply slot (R262, R266, R272, R274, R275). -/
def slotForms (o : MOp) (s : State) : Place → List SlotForm
  | .other _ _ => loadForms o s ++ waitForms o s ++ atomForms o s ++
      [⟨.st o, s.ea o, elemUse o rW true, .store o.ty o.v0 (s.G o.d), 0, false, false, false⟩,
       ⟨.ste o, s.ea o, feUse true, .ste (s.G o.d), 0, false, false, true⟩,
       ⟨.feset o, s.ea o, feUse true, .feset, 0, false, false, true⟩]
  | .fabric => loadForms o s ++ waitForms o s ++ atomForms o s ++
      [⟨.rsta o, s.aea o, rstaUse o, .rsta o.ty (s.G o.b), 0, false, false, false⟩]
  | .home => waitForms o s ++ atomForms o s ++
      [⟨.rsta o, s.aea o, rstaUse o, .rsta o.ty (s.G o.b), 0, false, false, false⟩]
  | _ => []

/-! ### Sweeps and matrix work at acceptance -/

/-- A sweep: the instruction, what it names in the order D, A, B, and the second base that it reads. -/
structure SweepForm where
  i : Instr
  plan : VPlan
  a2 : Word := 0

/-- The sweeps with the operands of R321 to R334. -/
def sweepForms (o : VOp) (s : State) : List SweepForm :=
  let n := o.cnt.toNat
  let t := o.ty
  let seg := fun (sp : Spec) (sc : Bool) (st : BitVec 10) (bytes : Nat) (u : Ty) =>
    if isV sp || sc then [] else [{ x0 := s.G sp, step := sextInt st.toNat 10, cnt := n, bytes := bytes, align := elemBytes u : Span }]
  let blk := fun (sp : Spec) (bytes : Nat) (u : Ty) =>
    { x0 := s.G sp, step := 0, cnt := 1, bytes := bytes, align := elemBytes u : Span }
  let tab := fun (sp : Spec) (st : BitVec 10) =>
    { x0 := s.G sp, step := sextInt st.toNat 10, cnt := n, bytes := elemBytes t, align := elemBytes t, table := true : Span }
  let mem := fun (sp : Spec) (st : BitVec 10) =>
    { x0 := s.G sp, step := sextInt st.toNat 10, cnt := n, bytes := 64, align := 8 : Span }
  let d := seg o.d false o.sd 64 t
  let a := seg o.a o.aS o.sa 64 t
  let b := seg o.b o.bS o.sb 64 t
  let u := tsOf o
  let wide := n * 256 * u.width / 8
  let packed := n * 256 * t.width / 8 + 2 * n
  let copied := if t = .none && isV o.d && isV o.a then ((s.me.pool o.a).map s.myCore.vtag).getD 0 else t.tag
  ([.vadd o, .vsub o, .vmul o, .vmin o, .vmax o, .vsel o, .vand o, .vor o, .vxor o, .vshl o, .vshr o,
    .vperm o] : List Instr).map
      (fun i => ⟨i, { regs := [(o.d, none), (o.a, some t), (o.b, some t)], spans := d ++ a ++ b, dtag := t.tag }, 0⟩) ++
  ([.vabs o, .vexp2 o, .vlog2 o, .vrcp o, .vrsq o, .vscan o] : List Instr).map
      (fun i => ⟨i, { regs := [(o.d, none), (o.a, some t)], spans := d ++ a, dtag := t.tag }, 0⟩) ++
  [⟨.vfma o, { regs := [(o.d, some t), (o.a, some t), (o.b, some t)], spans := d ++ a ++ b, dtag := t.tag }, 0⟩,
   ⟨.vcmp o, { regs := [(o.d, none), (o.a, some t), (o.b, some t)], spans := d ++ a ++ b, dtag := 0 }, 0⟩,
   ⟨.vcvt o, { regs := [(o.d, none), (o.a, some u)]
               spans := seg o.d false o.sd (cvtBytes t u) t ++ seg o.a o.aS o.sa (cvtBytes u t) u
               dtag := t.tag }, 0⟩,
   ⟨.vred o, { regs := [(o.d, none), (o.a, some t)], spans := d.map (fun (q : Span) => { q with cnt := 1 }) ++ a
               dtag := t.tag }, 0⟩,
   ⟨.vgath o, { regs := [(o.d, none), (o.b, some t)], spans := d ++ tab o.a o.sa :: b, whole := true
                dtag := t.tag }, 0⟩,
   ⟨.vscat o, { regs := [(o.a, some t), (o.b, some t)], spans := tab o.d o.sd :: (a ++ b), whole := true
                dtag := 0 }, 0⟩,
   ⟨.vqnt o, { regs := [], spans := [blk o.d packed t, blk o.a wide u], dtag := 0 }, 0⟩,
   ⟨.vdq o, { regs := [], spans := [blk o.d wide u, blk o.a packed t], dtag := 0 }, 0⟩,
   ⟨.vmov o, { regs := [(o.d, none), (o.a, some t)], spans := d ++ a, dtag := copied }, 0⟩,
   ⟨.vld o, { regs := [(o.d, none)], spans := d, mem := some (mem o.a o.sa, rR), dtag := t.tag }, 0⟩,
   ⟨.vst o, { regs := [(o.a, some t)], spans := a, mem := some (mem o.d o.sd, rW), dtag := 0 }, 0⟩,
   ⟨.vmrg o, { regs := [(o.d, none)]
               spans := d ++ [blk o.a (64 * n + elemBytes t) t, blk o.b (64 * n + elemBytes t) t]
               dtag := t.tag }, 0⟩,
   ⟨.vbsr o, { regs := [(o.d, none), (o.b, some t)]
               spans := d ++ blk o.a ((s.G (o.a + 1)).toNat * elemBytes t) t :: b, dtag := t.tag }, s.G (o.a + 1)⟩]

/-- The matrix instructions with the operands of R343 to R350, in the order in which they report. SA says that a
tile holds signed integers (R338). -/
def matrixForms (x : XOp) (s : State) : List (Instr × XPlan) :=
  let n := x.kcnt.toNat
  let rows := mldSteps x
  let signed := fun (t : Nat) => x.sa == (t == 8 || t == 10)
  let all := (List.range 15).filter (fun t => t != 0 && t != 7 && signed t)
  let factors : XPlan := if x.mode.getLsbD 1 then
      { aligns := [(s.G x.b, 64)]
        ranges := [{ off := s.G x.b, lo := (s.G x.b).toNat, len := 16 * accBytes x.accf.toNat }] } else {}
  let bare := fun (p : XPlan) => { p with bad := p.bad || fld (s.G (x.a + 1)).toNat 16 16 != 0 }
  [(.mma x, (accPlan s.G x false).and ((if x.ak then padPlan s.G x.a n 2 else tilePlan x.a n (mmaTagsA x)).and
     (if x.bk then padPlan s.G x.b n 2 else tilePlan x.b n (mmaTagsB x)))),
   (.mld x, (({ tiles := (steps x.d n).map (fun t => (t, none)), dreg := some x.d
                dtag := if x.var.getLsbD 0 then 4 else x.fmt.toNat : XPlan }).and
     (padPlan s.G x.a rows 2)).and (scPlan s.G x rows)),
   (.mst x, ((tilePlan x.a n ([x.fmt.toNat].filter signed)).and (padPlan s.G x.b n 2)).and (scPlan s.G x n)),
   (.mzero x, accPlan s.G x true),
   (.mtrn x, { tiles := [(x.d, none), (x.a, some all)], dreg := some x.d
               dtag := ((s.me.pool x.a).map s.myCore.ttag).getD 0 }),
   (.mcvt x, ({ accPlan s.G x false with dreg := none }).and
     { tiles := [(x.e, none)], dreg := some x.e, dtag := x.fmt.toNat }),
   (.mscl x, (accPlan s.G x false).and factors),
   (.macc x, (accPlan s.G x false).and (if x.ak then bare (padPlan s.G x.a 1 (accBytes x.accf.toNat / 4))
     else tilePlan x.a 1 ([accTag x.accf.toNat].filter signed)))]

/-- The entries that accepted work takes in the range-lock table: one for each range, beside those that
stand. -/
def LocksTaken (c t : Core) (kind k owner : Nat) (ls : List (Bool × Nat × Nat)) : Prop :=
  (∀ e ∈ c.locks, e ∈ t.locks) ∧ t.locks.length = c.locks.length + ls.length ∧
  ∀ l ∈ ls, ∃ e ∈ t.locks, e.2 = ⟨kind, k, l.1, l.2.1, l.2.2, owner⟩

/-- Work `w` records what the executing context gave at acceptance. -/
structure TakenUp (s : State) (w : Work) (i : Instr) : Prop where
  instr : w.instr = i
  id : w.id = s.nextId
  who : w.ctx = s.cur.2 ∧ w.gen = s.me.gen.toNat ∧ w.ip = s.ip ∧ w.cls = s.me.top2
  fresh : w.performed = false ∧ w.fault = none ∧ w.chain = none
  pools : w.vbase = s.me.vbase ∧ w.tbase = s.me.tbase

/-! ### Exceptions and system registers -/

/-- A context without the frame of a trap, its place and its window. -/
def Ctx.bare (x : Ctx) : Ctx :=
  { x with tip := 0, tcause := 0, tinfo := 0, tsrc := 0, tsrcx := 0, mode := false, ip := 0, tdepth := 0
           wait := none, retry := false, entryCheck := false, mon := {}, win := [], wbase := 0
           depth := 0 }

/-- Context `k` of core `p` has entered its handler (R439): the frame holds the trap, it is in system
mode at core.tvec, its window has moved by 8, and nothing else has changed. -/
structure Entered (s t : State) (p k : Nat) (x : Trap) (tip : Word) : Prop where
  frame : (t.ctx p k).tip = tip ∧ (t.ctx p k).tcause = BitVec.ofNat 8 x.cause ∧ (t.ctx p k).tinfo = x.info ∧
    (t.ctx p k).tsrc = x.src ∧ (t.ctx p k).tsrcx = x.srcx
  place : (t.ctx p k).mode = true ∧ (t.ctx p k).ip = (s.core p).tvec
  window : (t.ctx p k).wbase = (s.ctx p k).wbase + 1 ∧ (t.ctx p k).depth = (s.ctx p k).depth + 1 ∧
    (t.ctx p k).tdepth = (t.ctx p k).depth ∧
    (∀ j, j < 8 → (t.ctx p k).win.get (8 * (s.ctx p k).wbase + j) 0 =
      (s.ctx p k).win.get (8 * (s.ctx p k).wbase + j) 0) ∧
    (∀ r : Spec, 16 ≤ r.toNat → r.toNat ≤ 23 → (t.ctx p k).reg r = (s.ctx p k).reg (r + 8)) ∧
    ∀ r : Spec, r.toNat < 16 ∨ 32 ≤ r.toNat → (t.ctx p k).reg r = (s.ctx p k).reg r
  kept : (t.ctx p k).bare = (s.ctx p k).bare
  others : ∀ q j, (q, j) ≠ (p, k) → t.ctx q j = s.ctx q j
  cores : ∀ q, { t.core q with ctxs := [] } = { s.core q with ctxs := [] }
  machine : t = { s with cores := t.cores, free := s.free + 8, root := t.root } ∧
    (x.cause ≠ 10 → t.root = s.root)

/-- There is room for the spill that the entry of a handler makes due (R441). -/
def Ctx.entryRoom (x : Ctx) : Prop := x.wbase + 3 - x.wlow ≤ 5 ∨ x.wsp + 64 ≤ x.wsl

/-- The RW bits of the system registers (R394–R400, R412–R422) whose write nothing limits and whose
reading is their fields alone. -/
def rwMask (n : Nat) : Word :=
  if n = 0x00 || n = 0x21 then 0xFF
  else if n = 0x01 || n = 0x20 || (0x22 ≤ n && n ≤ 0x24) || (0x118 ≤ n && n ≤ 0x11C) ||
    (0x473 ≤ n && n ≤ 0x477) || n = 0x500 || n = 0x502 then BitVec.allOnes 64
  else if n = 0x02 then 0x80000000FFFFFFFF
  else if n = 0x03 then 0x80000000FFFFFFFF
  else if n = 0x106 || n = 0x401 || n = 0x471 then 0xFFFF
  else if n = 0x10C then 0xFFC01
  else if n = 0x10F then 0xFFFC0
  else if 0x430 ≤ n && n ≤ 0x43F then 0xFFFFFFFFFFFF
  else if 0x440 ≤ n && n ≤ 0x44F then 0xFFFFFFFF
  else if n = 0x472 then 0xFFFFFFFFFF
  else if n = 0x501 then 0x1F
  else 0

/-- Every context but `k` of core `p` is as before, apart from what a wake changes. -/
def OthersStill (s t : State) (p k : Nat) : Prop :=
  ∀ q j, (q, j) ≠ (p, k) → (t.ctx q j).still = (s.ctx q j).still

/-! ### What accepted work does -/

/-- The offset of segment `i` of a memory operand: x0 + i × s (R311). -/
def segOff (base : Word) (step : BitVec 10) (i : Nat) : Nat :=
  ((base.toNat : Int) + i * sextInt step.toNat 10).toNat

/-- Segment `i` of an operand of work `w` on core `p`, `n` bytes (R310, R323): the low bytes of a register, a scalar
repeated, or the bytes of own local store from x0 + i × s. -/
def State.segment (s : State) (p : Nat) (w : Work) (sp : Spec) (scalar : Bool) (base : Word) (step : BitVec 10)
    (t : Ty) (i : Nat) (n : Nat := 64) : Nat :=
  if isV sp then ((s.core p).vregs.get (w.vbase + (sp.toNat - 32)) {}).v % 2 ^ (8 * n)
  else if scalar then packLanes t.width (List.replicate (8 * n / t.width) (base.toNat % 2 ^ t.width))
  else s.rd (lsAddr p (segOff base step i)) n

/-- `n` bytes of own local store from `off` lie in it and hold no poison. -/
def State.sound (s : State) (p off n : Nat) : Prop :=
  off + n ≤ 2 ^ 20 ∧ ∀ j, j < n → s.isPoison (lsAddr p (off + j)) = false

/-- The operand is a register or a scalar, or its segment `i` of `n` bytes lies in own local store and holds no
poison. -/
def State.usable (s : State) (p : Nat) (sp : Spec) (scalar : Bool) (base : Word) (step : BitVec 10) (i : Nat)
    (n : Nat := 64) : Prop :=
  isV sp = true ∨ scalar = true ∨ s.sound p (segOff base step i) n

/-- An L6 element as it is written: bits [7:6] are zero, and a zero is 00h (R127). Other elements are written as they
are. -/
def laneWritten (t : Ty) (x : Nat) : Nat := if t = .l6 then (if x % 32 = 0 then 0 else x % 64) else x

/-- The sweeps that act lane by lane, with what each makes of the lanes of A, B and D (R320–R322,
R324): exact results once rounded or wrapped, selections, and operations on bits. An L6 element is written with
bits [7:6] zero, a zero as 00h (R127); the mask of VCMP is none. -/
def laneForms (o : VOp) : List (Instr × (Nat → Nat → Nat → Nat)) :=
  let t := o.ty
  let f := fmtD t
  let M := Rm.ofCode (o.low.toNat % 8)
  let sat := decide (8 ≤ o.low.toNat)
  let fl := fun (x : Val) => f.round M sat x
  let il := fun (x : Int) => t.wrapInt sat x
  let num := fun (g : Val → Val → Val) (h : Int → Int → Int) (a b : Nat) =>
    if t.isF then fl (g (f.val a) (f.val b)) else il (h (t.int a) (t.int b))
  let out := laneWritten t
  [(.vadd o, fun a b _ => out (num (Val.add M) (· + ·) a b)),
   (.vsub o, fun a b _ => out (num (fun x y => Val.add M x y.neg) (· - ·) a b)),
   (.vmul o, fun a b _ => out (num Val.mul (· * ·) a b)),
   (.vfma o, fun a b d => out (fl (Val.add M (Val.mul (f.val a) (f.val b)) (f.val d)))),
   (.vmin o, fun a b _ => out (if t.isF then f.minmax false a b else if t.int a ≤ t.int b then a else b)),
   (.vmax o, fun a b _ => out (if t.isF then f.minmax true a b else if t.int a ≤ t.int b then b else a)),
   (.vcmp o, fun a b _ =>
     let c := if t.isF then condFlt o.low.toNat (f.val a) (f.val b)
       else condOrd o.low.toNat (compare (t.int a) (t.int b))
     if c then 2 ^ t.width - 1 else 0),
   (.vsel o, fun a b d => out (if d = 0 then b else a)),
   (.vand o, fun a b _ => out (a &&& b)), (.vor o, fun a b _ => out (a ||| b)), (.vxor o, fun a b _ => out (a ^^^ b)),
   (.vshl o, fun a b _ => out (a * 2 ^ (b % t.width) % 2 ^ t.width)),
   (.vshr o, fun a b _ => out (toBits (t.int a / ((2 ^ (b % t.width) : Nat) : Int)) t.width))]

/-- The lanes of width `w` of a segment, one by one. -/
def laneMap (w : Nat) (f : Nat → Nat → Nat → Nat) (a b d : Nat) : Nat :=
  packLanes w ((List.range (512 / w)).map fun j => f (fld a (w * j) w) (fld b (w * j) w) (fld d (w * j) w))

/-- The sweep that work `w` stands for, as instruction `i`, runs to its end from `s` and does what leaves `t0` and
then writes segment `n` of D: the `bytes` bytes `v` in own local store, or a register that holds `v` with the tag
`tag`. Every other byte and register is that of `t0`, and every full/empty bit keeps its value (R317). -/
def Segment (s t0 : State) (p : Nat) (w : Work) (o : VOp) (i : Instr) (bytes n tag v : Nat) : Prop :=
  let off := segOff w.d o.sd n
  let r := w.vbase + (o.d.toNat - 32)
  ∃ t, s.runSweep p { w with instr := i } = (t, none) ∧
    (isV o.d = true → t.mem = t0.mem ∧ (t.core p).vregs.get r {} = { v := v, tag := tag } ∧
      ∀ q, q ≠ r → (t.core p).vregs.get q {} = (t0.core p).vregs.get q {}) ∧
    (isV o.d = false → (t.core p).vregs = (t0.core p).vregs ∧ t.rd (lsAddr p off) bytes = v ∧
      SameBytes t0 t (lsAddr p off) bytes) ∧
    ∀ b, t.isFull b = t0.isFull b

/-- D is a register, or its segment `n` lies in own local store. -/
def Lands (w : Work) (o : VOp) (bytes n : Nat) : Prop := isV o.d = true ∨ segOff w.d o.sd n + bytes ≤ 2 ^ 20

/-- The lane-by-lane sweeps of one operand, with what each makes of a lane (R321, R324). -/
def unaryForms (o : VOp) : List (Instr × (Nat → Nat)) :=
  let t := o.ty
  let f := fmtD t
  let M := Rm.ofCode (o.low.toNat % 8)
  let sat := decide (8 ≤ o.low.toNat)
  [(.vabs o, fun a => laneWritten t (
     if t.isF then (if (f.val a).isNan then f.nan else a % 2 ^ (t.width - 1))
     else if t.signed then t.wrapInt sat (t.int a).natAbs else a)),
   (.vexp2 o, fun a => laneWritten t (exp2Round f M sat (f.val a))),
   (.vlog2 o, fun a => laneWritten t (log2Round f M sat (f.val a))),
   (.vrcp o, fun a => laneWritten t (f.round M sat (Val.div (.fin false 1 0) (f.val a)))),
   (.vrsq o, fun a => laneWritten t (f.round M sat (f.val a).rsq)),
   (.vmov o, fun a => laneWritten t a)]

/-- The reduction of a list of elements, its sum exact before the one rounding (R325): B[1:0] names .add, .min or
.max. -/
def redOf (o : VOp) (l : List Nat) : Nat :=
  let t := o.ty
  let f := fmtD t
  let M := Rm.ofCode (o.low.toNat % 8)
  let sat := decide (8 ≤ o.low.toNat)
  let max := decide (o.b.toNat % 4 = 2)
  match l with
  | [] => 0
  | x :: xs =>
    if o.b.toNat % 4 = 0 then
      if t.isF then f.round M sat (xs.foldl (fun a y => Val.add M a (f.val y)) (f.val x))
      else t.wrapInt sat (l.map t.int).sum
    else if t.isF then
      let m := xs.foldl (f.minmax max) x
      if (f.val m).isNan then f.nan else m
    else xs.foldl (fun a y => if t.int a ≤ t.int y then (if max then y else a) else (if max then a else y)) x

/-- Element 0 of the exclusive scan (R326). -/
def unitOf (o : VOp) : Nat :=
  let t := o.ty
  let f := fmtD t
  if o.b.toNat % 4 = 0 then 0
  else if t.isF then f.round .rne false (.inf (o.b.toNat % 4 == 2))
  else toBits (if o.b.toNat % 4 = 1 then t.hi else t.lo) t.width

/-- How many elements of the runs `A` and `B` the first outputs of a merge took (R333). -/
def merged (t : Ty) (A B : Nat → Nat) : Nat → Nat × Nat
  | 0 => (0, 0)
  | k + 1 =>
    let m := merged t A B k
    if t.int (A m.1) ≤ t.int (B m.2) then (m.1 + 1, m.2) else (m.1, m.2 + 1)

/-- Line `j` of row `r` of step `k` of a scratchpad pair (R336): its offset in own local store. -/
def padLine (base desc : Word) (k r j : Nat) : Nat :=
  (base.toNat + k * fld desc.toNat 16 16 + r * fld desc.toNat 0 16 + 64 * j) ^^^ (r * fld desc.toNat 32 4 % 16 * 64)

/-- Every entry of the scale column is a factor of 1: scale 7Fh, layout 0 (R335). -/
def PReg.unscaled (m : PReg) : Prop := ∀ r, r < 16 → fld m.sc (16 * r) 16 = 0x7F

/-- Element `i` of the accumulator of work `w` of `n` bytes an element (R337): in a tile, or in own local store. -/
def State.accElem (s : State) (p : Nat) (w : Work) (x : XOp) (n i : Nat) : Nat :=
  if x.mode.getLsbD 0 then fld ((s.core p).tregs.get (w.tbase + (x.d.toNat - 48)) {}).v (8 * n * i) (8 * n)
  else s.rd (lsAddr p (w.d.toNat + n * i)) n

/-- The accumulator of work `w` has taken the elements `y` of `n` bytes, and of tiles and memory nothing else has
changed; a tile keeps what lies behind its elements, and carries the tag of the accumulator, unscaled (R335, R337). -/
def Accumulated (s t : State) (p : Nat) (w : Work) (x : XOp) (n : Nat) (y : Nat → Nat) : Prop :=
  let r := w.tbase + (x.d.toNat - 48)
  let m := (t.core p).tregs.get r {}
  (∀ i, i < 256 → t.accElem p w x n i = y i) ∧
  (∀ q, q ≠ r → (t.core p).tregs.get q {} = (s.core p).tregs.get q {}) ∧
  (x.mode.getLsbD 0 = true → t.mem = s.mem ∧ m.tag = (if x.accf = 12 then 13 else x.accf.toNat) ∧ m.unscaled ∧
    m.v / 2 ^ (2048 * n) = ((s.core p).tregs.get r {}).v / 2 ^ (2048 * n)) ∧
  (x.mode.getLsbD 0 = false → (t.core p).tregs = (s.core p).tregs ∧ SameBytes s t (lsAddr p w.d.toNat) (256 * n) ∧
    ∀ b, t.isFull b = s.isFull b)

/-- Semaphore `i` of core `p` after a signal by `inc` that no waiter waits for (R286). -/
def Signalled (s t : State) (p i inc : Nat) : Prop :=
  (t.core p).sems.get i 0 = (if inc = 0 then (s.core p).sems.get i 0 else min ((s.core p).sems.get i 0 + inc) 65535) ∧
  ∀ j, j ≠ i → (t.core p).sems.get j 0 = (s.core p).sems.get j 0

/-! ### Words of the machine's own tables, packets -/

/-- A slice that holds the line `key` or has room for it displaces none. -/
def Roomy (s : State) (key : Nat) : Prop :=
  (s.lines.find? key).isSome = true ∨ (s.lines.filter fun e => s.sliceOf e.1 == s.sliceOf key).length < sliceLines

/-- The leaf of the page of `va` is cached, and its D bit is set already (R100); its line finds its place. -/
def Noted (s : State) (va : Word) : Prop :=
  (∃ x, s.xlates.find? (pageKey 0 va) = some x ∧ x.d = true) ∧ Roomy s (lineKey 0 va)

/-- No watch stands at a home: the directories are empty, and no park heap is in use. -/
def Unwatched (s : State) : Prop := s.watches = [] ∧ s.heapOn = false

/-- A step on the word at `va` wakes no one, and its leaf needs no mark. -/
def Settled (s : State) (va : Word) : Prop := Unwatched s ∧ (isDevice va = true → Noted s va)

/-- The machine has written `v` to the word at `va` of its own tables, at its home; the other words of
the line stand. -/
def Stored (s t : State) (va : Word) (v : Nat) : Prop :=
  ∀ pa l, s.rawAddr va = some pa → Noted s va → s.lineOrMem (lineKey 0 va) (pa / 64 * 64) = l → l.ws.length = 8 →
    ∃ l', t.lines.find? (lineKey 0 va) = some l' ∧
      l'.ws[va.toNat / 8 % 8]? = some (BitVec.ofNat 64 v) ∧
      ∀ n, n ≠ va.toNat / 8 % 8 → l'.ws[n]? = l.ws[n]?

/-- It is the turn of queue `q`, no packet of it is under way, and its head packet, read in its slot, has the words
`ws`; `u` is the state when it has been read. -/
structure Turn (s u : State) (q : Nat) (ws : List Word) : Prop where
  running : s.cp.reloading = false ∧ s.root.health ≠ 3
  next : s.nextQueue = some q
  slot : s.readSlot (s.qDom q) (s.slotVa q) = (u, .words ws)
  alone : ∀ p ∈ s.cp.packets, p.q ≠ q

/-- The packet with the words `ws` is under way. -/
def PacketTaken (s t : State) (q : Nat) (ws : List Word) (ended : Bool) : Prop :=
  t.cp.packets = s.cp.packets ++ [{ q := q, idx := s.qHead q, ws := ws, ended := ended }]

end Sys2Proof.Machine

namespace Sys2Proof

/-- The guard of an encoded instruction. -/
def Instr.guardOf (i : Instr) : Option Guard := (opcFields i).bind fun p =>
  p.2.getLast?.map fun f => Guard.ofCode (f.2 % 16)

/-- The value of a finite exact value as a rational number; 0 for the others. -/
def Val.rat : Val → ℚ
  | .fin s m e => (if s then -1 else 1) * m * 2 ^ e
  | _ => 0

/-- A finite value. -/
def Val.isFin : Val → Bool
  | .fin _ _ _ => true
  | _ => false

end Sys2Proof
end

