-- ==== Sys2Proof/Certificates/Slice0/Obligations.lean ====
section
/-! DEFINITION. The statements about the machine. -/

open Sys2Proof Sys2Proof.Machine

/-! ### Encoding -/

/-- R190, R199: encoder and decoder agree on every legal instruction, as a slot of 96 bits and as the
twelve bytes of a fetch line. -/
def Obligations.DecodeOfEncode : Prop := ∀ i : Instr, i.WellFormed →
  ∃ w, encode i = some w ∧ w < 2 ^ 96 ∧ decodeSlot w = some i ∧ decodeBytes (slotBytes w) = some i

/-- A slot that decodes is the encoding of a legal instruction: no bit of it is dropped, and no two
slots hold one instruction.
Reserved encodings hold no instruction: the guard 1000b (R200), the TYPE codes from 13h up outside
the X format (R201), the opcodes that R215 does not assign, opcode 00h with another bit set (R215), and an R-format
slot with a bit set below MOD (R199, R211). -/
def Obligations.DecodeDropsNoBit : Prop :=
  (∀ (w : Nat) (i : Instr), decodeSlot w = some i →
  i.WellFormed ∧ encode i = some w ∧ w < 2 ^ 96) ∧
  (∀ w : Nat,
  (fld w 84 4 = 8 → decodeSlot w = none) ∧
  (¬ (0xB0 ≤ fld w 88 8 ∧ fld w 88 8 ≤ 0xB8) → 0x13 ≤ fld w 79 5 → decodeSlot w = none) ∧
  (∀ r ∈ [(0x1E, 0x1F), (0x2C, 0x2F), (0x3C, 0x3F), (0x52, 0x5F), (0x6A, 0x6F), (0x7F, 0x7F), (0x9F, 0xAF),
    (0xB9, 0xBF), (0xC6, 0xCF), (0xDC, 0xFF)], r.1 ≤ fld w 88 8 → fld w 88 8 ≤ r.2 → decodeSlot w = none) ∧
  (fld w 88 8 = 0 → w ≠ 0 → decodeSlot w = none) ∧
  ((1 ≤ fld w 88 8 ∧ fld w 88 8 ≤ 0x2B ∧ fld w 88 8 ≠ 0x03 ∧ fld w 88 8 ≠ 0x17 ∨
    fld w 88 8 ∈ [0x33, 0x34, 0x35, 0x37, 0x38, 0x3A, 0x3B, 0x4F, 0x77, 0x7E, 0xD5, 0xD6, 0xD7, 0xD8, 0xDB]) →
    fld w 0 44 ≠ 0 → decodeSlot w = none))

/-- Words of the manual's own examples, and a few written out from the field tables, by family
(R190, R199, R201–R210). -/
def Obligations.DecodeWords : Prop :=
  decodeSlot 0 = some .nop ∧
  -- add.i64 g21, g21, g20 and addi.i64 g3, g3, 1
  decodeSlot 0x010205555000000000000000 =
    some (.add ⟨⟨false, 0⟩, .i64, 0, 0x15, 0x15, 0x14, 0, 0, false, 0⟩) ∧
  decodeSlot 0x030200C30000000000000001 = some (.addi ⟨⟨false, 0⟩, .i64, 0, 3, 3, 1⟩) ∧
  -- fadd.f32 g20, g21, g22
  decodeSlot 0x200505155800000000000000 =
    some (.fadd ⟨⟨false, 0⟩, .f32, 0, 0x14, 0x15, 0x16, 0, 0, false, 0⟩) ∧
  -- (p1) br to slot 0 of its own line
  decodeSlot 0x301000000000000000000000 = some (.br ⟨⟨false, 1⟩, 0, 0, 0, 0, 0⟩) ∧
  -- ldc.i64.acq.pk g20, [g2+16]; st.f32.pk [g4+g6], g22; stf.i64 with a branch two lines ahead
  decodeSlot 0x430225020200000000000010 =
    some (.ldc ⟨⟨false, 0⟩, .i64, .acq, false, 0x14, 2, 0, .park, 0, 16⟩) ∧
  decodeSlot 0x410505841A00000000000000 =
    some (.st ⟨⟨false, 0⟩, .f32, .none, false, 0x16, 4, 6, .park, 0, 0⟩) ∧
  decodeSlot 0x440205012100000010000000 =
    some (.stf ⟨⟨false, 0⟩, .i64, .none, false, 0x14, 1, 8, .branch, 0x10, 0⟩) ∧
  -- aadd.i64.rel g20, [g2+8], g21
  decodeSlot 0x600245025400000000000008 =
    some (.aadd ⟨⟨false, 0⟩, .i64, .rel, false, 0x14, 2, 0x15, .set, 0, 8⟩) ∧
  -- swait.dec.acq.pk 9, 64
  decodeSlot 0x700030000200000000090040 =
    some (.swait ⟨⟨false, 0⟩, .acq, true, 0, 0, 0, .park, 0, 9, 64⟩) ∧
  -- the vadd.f32 of fragment (8.1), and a vmrg
  decodeSlot 0x800504147010100400000C50 =
    some (.vadd ⟨⟨false, 0⟩, .f32, false, 4, 5, 7, 16, 0x40, 0x40, 0, 3, 1, false, true, 0⟩) ∧
  decodeSlot 0x9D019B69D001000000000000 =
    some (.vmrg ⟨⟨false, 0⟩, .i32, false, 0x1B, 0x1A, 0x1D, 1, 0, 0, 0, 0, 0, false, false, 0⟩) ∧
  -- mma.bf16 [g20], g8:g9, g10:g11, 4, 7, 1
  decodeSlot 0xB2041420A000C201C4004000 =
    some (.mma ⟨⟨false, 0⟩, 4, 0, 0x14, 8, 10, 0, 0, true, true, false, false, 2, 0, 7, 1, 0, 4⟩) ∧
  -- evpop g20:g21, and csrr g20, 104h
  decodeSlot 0xC50005000000000000000000 =
    some (.evpop ⟨⟨false, 0⟩, .none, false, 0x14, 0, 0, .set, 0, 0, 0⟩) ∧
  decodeSlot 0xD00005000000000000000104 = some (.csrr ⟨⟨false, 0⟩, .none, 0, 0x14, 0, 0x104⟩)

/-! ### Integer, address and predicate instructions -/

/-- R224, R226, R227: the exact result of each two-source integer instruction, written at the width
of its type, extended by the type.
R229: leading zeros, trailing zeros, ones and reversed bytes of the low bits. -/
def Obligations.IntegerResults : Prop :=
  (∀ (o : ROp) (k : IOp) (s : State),
  (s.guard o.grd = true →
    let t := o.ty
    let a := t.int (s.G o.a).toNat
    let b := t.int (s.G o.b).toNat
    let ua := (s.G o.a).toNat % 2 ^ t.width
    let ub := (s.G o.b).toNat % 2 ^ t.width
    let n := (s.G o.b).toNat % t.width
    IntGives (.add o) s o.d t o.sat (a + b) ∧
    IntGives (.sub o) s o.d t o.sat (a - b) ∧
    IntGives (.mul o) s o.d t o.sat (a * b) ∧
    IntGives (.mulh o) s o.d t false (a * b / (2 ^ t.width : Nat)) ∧
    IntGives (.divI o) s o.d t false
      (if b = 0 then (if t.signed then -1 else 2 ^ t.width - 1) else a.tdiv b) ∧
    IntGives (.remI o) s o.d t false (if b = 0 then a else a - b * a.tdiv b) ∧
    IntGives (.andI o) s o.d t false (ua &&& ub : Nat) ∧
    IntGives (.orI o) s o.d t false (ua ||| ub : Nat) ∧
    IntGives (.xorI o) s o.d t false (ua ^^^ ub : Nat) ∧
    IntGives (.andn o) s o.d t false (ua &&& (2 ^ t.width - 1 - ub) : Nat) ∧
    IntGives (.shl o) s o.d t false (ua * 2 ^ n : Nat) ∧
    IntGives (.shr o) s o.d t false (ua / 2 ^ n : Nat) ∧
    IntGives (.sra o) s o.d t false (sextInt ua t.width / (2 ^ n : Nat)) ∧
    IntGives (.rot o) s o.d t false (ua * 2 ^ n + ua / 2 ^ (t.width - n) : Nat) ∧
    IntGives (.minI o) s o.d t false (min a b) ∧
    IntGives (.maxI o) s o.d t false (max a b)) ∧
  (s.guard k.grd = true → IntGives (.addi k) s k.d k.ty (k.var == 1)
    (k.ty.int (s.G k.a).toNat + k.ty.int k.imm.toNat))) ∧
  (∀ (o : ROp) (s : State), s.guard o.grd = true →
  let w := o.ty.width
  let u := (s.G o.a).toNat % 2 ^ w
  ((Instr.clz o).WellFormed → ∃ v, Gives (.clz o) s o.d v ∧ v.toNat ≤ w ∧ u < 2 ^ (w - v.toNat) ∧
    (v.toNat < w → 2 ^ (w - v.toNat - 1) ≤ u)) ∧
  ((Instr.ctz o).WellFormed → ∃ v, Gives (.ctz o) s o.d v ∧ (u = 0 → v.toNat = w) ∧
    (u ≠ 0 → 2 ^ v.toNat ∣ u ∧ ¬ 2 ^ (v.toNat + 1) ∣ u)) ∧
  ((Instr.popc o).WellFormed → ∃ v, Gives (.popc o) s o.d v ∧
    v.toNat = ((List.range w).filter u.testBit).length) ∧
  ((Instr.bswap o).WellFormed → ∃ v, Gives (.bswap o) s o.d v ∧ v = o.ty.ext (v.toNat % 2 ^ w) ∧
    ∀ i, i < w / 8 → fld v.toNat (8 * i) 8 = fld u (8 * (w / 8 - 1 - i)) 8))

/-- R228, R230–R234, R236: comparisons, selection, moves, addresses, bit fields, predicate logic.
R235: the four forms of MOVP. -/
def Obligations.SelectAndField : Prop :=
  (∀ (o : ROp) (k : IOp) (s : State),
  (s.guard k.grd = true → Gives (.movi k) s k.d k.imm) ∧
  (s.guard o.grd = true →
    let a := o.ty.int (s.G o.a).toNat
    let b := o.ty.int (s.G o.b).toNat
    ((Instr.cmp o).WellFormed → Gives (.cmp o) s o.d (predWord
      ((o.sel = 0 ∧ a = b) ∨ (o.sel = 1 ∧ a ≠ b) ∨ (o.sel = 2 ∧ a < b) ∨ (o.sel = 3 ∧ a ≤ b) ∨
        (o.sel = 4 ∧ a > b) ∨ (o.sel = 5 ∧ a ≥ b)))) ∧
    Gives (.sel o) s o.d (if s.G o.c = 1 then s.G o.a else s.G o.b) ∧
    ((Instr.lea o).WellFormed → Gives (.lea o) s o.d (s.G o.a + s.G o.b <<< o.sel.toNat)) ∧
    (let pos := (s.G o.b).toNat % 64
     let wid := (s.G o.b).toNat / 256 % 64 + 1
     ((Instr.bfx o).WellFormed → ∃ v, Gives (.bfx o) s o.d v ∧ ∀ j, j < 64 →
       v.getLsbD j = if j < wid then (s.G o.a).getLsbD (pos + j)
         else o.ty == .i64 && (s.G o.a).getLsbD (pos + wid - 1)) ∧
     (∃ v, Gives (.bfi o) s o.d v ∧ ∀ j, j < 64 →
       v.getLsbD j = if pos ≤ j ∧ j < pos + wid then (s.G o.a).getLsbD (j - pos)
         else (s.G o.c).getLsbD j)) ∧
    ((Instr.pset o).WellFormed → Gives (.pset o) s o.d (predWord
      ((o.sel = 0 ∧ s.G o.a = 1 ∧ s.G o.b = 1) ∨ (o.sel = 1 ∧ (s.G o.a = 1 ∨ s.G o.b = 1)) ∨
        (o.sel = 2 ∧ ¬ (s.G o.a = 1 ↔ s.G o.b = 1)) ∨ (o.sel = 3 ∧ s.G o.a = 1 ∧ ¬ s.G o.b = 1)))))) ∧
  (∀ (o : ROp) (s : State), s.guard o.grd = true →
  (Instr.movp o).WellFormed →
  (o.sel = 0 → isG o.d = true → Gives (.movp o) s o.d (s.G o.a)) ∧
  (o.sel = 0 → isP o.d = true → Gives (.movp o) s o.d (predWord (s.G o.a ≠ 0))) ∧
  (o.sel = 1 → isG o.d = true → ∃ v, Gives (.movp o) s o.d v ∧ ∀ j, j < 64 →
    v.getLsbD j = decide (j < 8 ∧ s.G (BitVec.ofNat 6 (56 + j)) = 1)) ∧
  (o.sel = 1 → isP o.d = true → ∃ t, exec (.movp o) s = .next t ∧ Alone s t ∧ Ended s t .next ∧
    t.me.rest = s.me.rest ∧ t.me.win = s.me.win ∧
    ∀ r : Spec, t.me.reg r = if 56 < r.toNat then boolWord ((s.G o.a).getLsbD (r.toNat - 56))
      else s.me.reg r))

/-! ### Scalar floating point -/

/-- R237–R240, R242: the exact value that each instruction rounds once, and what it writes.
R122, R238–R240: a NaN operand gives the canonical NaN of the format, whatever its payload. -/
def Obligations.FloatResults : Prop :=
  (∀ (o : ROp) (s : State), s.guard o.grd = true →
  let M := Rm.ofCode o.rm.toNat
  let a := s.fval o.ty o.a
  let b := s.fval o.ty o.b
  let wflt := fun x => BitVec.ofNat 64 ((fmtD o.ty).round M o.sat x)
  Gives (.fadd o) s o.d (wflt (Val.add M a b)) ∧
  Gives (.fsub o) s o.d (wflt (Val.add M a b.neg)) ∧
  Gives (.fmul o) s o.d (wflt (Val.mul a b)) ∧
  Gives (.fdiv o) s o.d (wflt (Val.div a b)) ∧
  Gives (.fsqrt o) s o.d (wflt (Val.sqrt a)) ∧
  Gives (.ffma o) s o.d (wflt (Val.add M (Val.mul a b) (s.fval o.ty o.c))) ∧
  ((Instr.fcvt o).WellFormed → ∃ ts, Ty.ofCode o.c.toNat = some ts ∧
    Gives (.fcvt o) s o.d (o.ty.ext (convert o.ty ts M o.sat ((s.G o.a).toNat % 2 ^ ts.width))))) ∧
  (∀ (o : ROp) (s : State), s.guard o.grd = true →
  let nan : Word := match o.ty with
    | .f64 => 0x7FF8000000000000
    | .f32 => 0x7FC00000
    | .f16 => 0x7E00
    | _ => 0x7FC0
  let na := (s.fval o.ty o.a).isNan = true
  let nb := (s.fval o.ty o.b).isNan = true
  o.ty.isF = true →
  (na ∨ nb → Gives (.fadd o) s o.d nan ∧ Gives (.fsub o) s o.d nan ∧ Gives (.fmul o) s o.d nan ∧
    Gives (.fdiv o) s o.d nan ∧ Gives (.ffma o) s o.d nan) ∧
  ((s.fval o.ty o.c).isNan = true → Gives (.ffma o) s o.d nan) ∧
  (na → Gives (.fsqrt o) s o.d nan) ∧
  (na ∧ nb → Gives (.fmin o) s o.d nan ∧ Gives (.fmax o) s o.d nan))

/-- R132, R238, R239: sums and products of finite values are exact before the one rounding.
R132: a value that a format holds is rounded to itself, in every mode. -/
def Obligations.ExactArithmetic : Prop :=
  (∀ (M : Rm) (a b : Val), a.isFin = true → b.isFin = true →
  (Val.add M a b).isFin = true ∧ (Val.add M a b).rat = a.rat + b.rat ∧
  (Val.mul a b).isFin = true ∧ (Val.mul a b).rat = a.rat * b.rat) ∧
  (∀ (t : Ty) (f : Fmt) (M : Rm) (sat : Bool) (x : Nat),
  fmtOf t = some f → x < 2 ^ f.width → (f.val x).isFin = true → f.round M sat (f.val x) = x)

/-- R238, R241, R243, R244: the instructions that do not round. -/
def Obligations.FloatSelect : Prop := ∀ (o : ROp) (s : State), s.guard o.grd = true →
  let a := s.fval o.ty o.a
  let b := s.fval o.ty o.b
  let x := (s.G o.a).toNat % 2 ^ o.ty.width
  let y := (s.G o.b).toNat % 2 ^ o.ty.width
  let sign := fun z => bitAt z (o.ty.width - 1)
  let less := a.cmp b = .lt ∨ (a.cmp b = .eq ∧ sign x = true)
  ((Instr.fmin o).WellFormed → ¬ (a.isNan = true ∧ b.isNan = true) → Gives (.fmin o) s o.d
    (BitVec.ofNat 64 (if a.isNan then y else if b.isNan then x else if less then x else y))) ∧
  ((Instr.fmax o).WellFormed → ¬ (a.isNan = true ∧ b.isNan = true) → Gives (.fmax o) s o.d
    (BitVec.ofNat 64 (if a.isNan then y else if b.isNan then x else if less then y else x))) ∧
  ((Instr.fcmp o).WellFormed → Gives (.fcmp o) s o.d (predWord
    (if a.isNan = true ∨ b.isNan = true then o.sel = 1 ∨ o.sel = 6
     else (o.sel = 0 ∧ a.cmp b = .eq) ∨ (o.sel = 1 ∧ a.cmp b ≠ .eq) ∨ (o.sel = 2 ∧ a.cmp b = .lt) ∨
       (o.sel = 3 ∧ a.cmp b ≠ .gt) ∨ (o.sel = 4 ∧ a.cmp b = .gt) ∨ (o.sel = 5 ∧ a.cmp b ≠ .lt) ∨
       o.sel = 7))) ∧
  ((Instr.fclass o).WellFormed → ∃ n, Gives (.fclass o) s o.d (BitVec.ofNat 64 (2 ^ n)) ∧ n ≤ 8 ∧
    (n = 8 ↔ a.isNan = true) ∧ (n = 0 ↔ a = .inf true) ∧ (n = 7 ↔ a = .inf false) ∧
    (n = 3 ∨ n = 4 ↔ ∃ z e, a = .fin z 0 e) ∧
    (n = 2 ∨ n = 5 ↔ a.isFin = true ∧ fld x (fmtD o.ty).fb (fmtD o.ty).eb = 0 ∧ ¬ ∃ z e, a = .fin z 0 e) ∧
    (n < 8 → (n < 4 ↔ sign x = true))) ∧
  ((Instr.fsgn o).WellFormed → ∃ v, Gives (.fsgn o) s o.d v ∧
    (a.isNan = true → v.toNat = (fmtD o.ty).nan) ∧
    (a.isNan = false → v.toNat < 2 ^ o.ty.width ∧
      v.toNat % 2 ^ (o.ty.width - 1) = x % 2 ^ (o.ty.width - 1) ∧
      let sb := sign y && !b.isNan
      sign v.toNat = (if o.sel = 0 then sb else if o.sel = 1 then !sb else sign x != sb)))

/-! ### Guards, pairs, control transfer -/

/-- R200: GRD names a predicate and may negate it. An instruction whose guard is false changes nothing but
the IP: no register, no outcome, no transfer, no retry. It is decoded all the same, so that its encoding
is still checked, and none of its operand values is. GRD = 0000b executes always; 1000b is reserved. -/
def Obligations.FalseGuardDoesNothing : Prop :=
  (∀ (i : Instr) (g : Guard) (s : State), i.guardOf = some g →
    i ≠ .nop → s.guard g = false → Gives i s 0 0) ∧
  (∀ (n : Nat) (s : State), n < 16 →
    s.guard (Guard.ofCode n) = xor (s.view.reg (BitVec.ofNat 6 (56 + n % 8)) == 1) (decide (8 ≤ n)) ∧
    (n = 0 → s.guard (Guard.ofCode n) = true)) ∧
  (∀ (w : Nat) (i : Instr) (g : Guard), decodeSlot w = some i → i.guardOf = some g →
    g = Guard.ofCode (fld w 84 4)) ∧
  ∀ (w : Nat) (s : State), (fld w 84 4 = 8 → decodeSlot w = none) ∧
    (decodeSlot w = none → runSlot w s = .next (s.illegal w))

/-- R196: both members of a pair read the registers as they stood before it, and both write. Two
64-bit additions, the second of which may name the first's destination. -/
def Obligations.PairReadsOldRegisters : Prop := ∀ (w1 w2 : Nat) (o1 o2 : ROp) (s : State),
  decodeSlot w1 = some (.add o1) → decodeSlot w2 = some (.add o2) → o1.ty = .n64 → o2.ty = .n64 →
  o1.sat = false → o2.sat = false → o1.d ≠ o2.d → s.pair = none →
  s.guard o1.grd = true → s.guard o2.grd = true →
  ∃ t, runPair w1 w2 s = .next t ∧ t.pair = none ∧
    t.me.reg o1.d = readBack o1.d (s.me.reg o1.a + s.me.reg o1.b) ∧
    t.me.reg o2.d = readBack o2.d (s.me.reg o2.a + s.me.reg o2.b) ∧
    (∀ r, r ≠ o1.d → r ≠ o2.d → t.me.reg r = s.me.reg r) ∧
    t.me.ip = nextIp (s.me.ip + 1) ∧ t.me.rest = s.me.rest ∧ t = s.setMe t.me

/-- R485: a slot is checked against its entry when it issues, whatever its guard; one that is no
instruction raises 01h with its bits 95:32 in ctx.tinfo, and does nothing else. The values of operands are
checked only when the guard is true. In a pair the trap suppresses the other member and is taken at the
pair's first slot. -/
def Obligations.IllegalSlotTraps : Prop := ∀ (w1 w2 : Nat) (o : ROp) (s : State), s.pair = none →
  decodeSlot w2 = none →
  runSlot w2 s = .next (s.raise s.cur.1 s.cur.2
    { cause := 1, info := BitVec.ofNat 64 (w2 / 2 ^ 32) } s.me.ip) ∧
  (s.me.mode = false → s.myCore.tvec ≠ 0 → s.me.entryRoom → ∃ t, runSlot w2 s = .next t ∧
    Entered s t s.cur.1 s.cur.2 { cause := 1, info := BitVec.ofNat 64 (w2 / 2 ^ 32) } s.me.ip) ∧
  (∀ i g, decodeSlot w1 = some i → i.guardOf = some g → i ≠ .nop → s.guard g = false →
    ∃ t, runSlot w1 s = .next t ∧ Writes s t s.me .next 0 0 ∧ Alone s t) ∧
  (decodeSlot w1 = some (.add o) → runPair w1 w2 s = .next (s.raise s.cur.1 s.cur.2
    { cause := 1, info := BitVec.ofNat 64 (w2 / 2 ^ 32) } s.me.ip))

/-- R246, R247, R250, R251: where each branch goes, and when it falls through. A backward BR with the
ellipsis monitor at work (R79) may also park its context; its registers and its target are the same.
R489, R490: a taken transfer whose target is no landing slot, or no IP at all, raises 03h with the
target in ctx.tinfo, and the group has no effect: BR, BOC, LOOP, JMP, CALL, CALLI, RET; and so does the action of NRA
01b, here of LDW on an empty word, whose outcome stands.
Clauses that follow the model's own choices rest on log entry 11. -/
def Obligations.Branches : Prop :=
  (∀ (b : BOp) (o : ROp) (s : State),
  (s.guard b.grd = true →
    let target := targetOf s.ip b.tgt
    (s.conf.monitor = false ∨ s.me.spinsOff = true ∨ s.me.ip.toNat < target.toNat →
      Jumps (.br b) s .stay s.me target) ∧
    (s.pair = none → s.myCore.land s.me target = .ok → ∃ t, exec (.br b) s = .next t ∧
      t.me.ip = target ∧ ∀ r, t.me.reg r = s.me.reg r) ∧
    (b.imm.getLsbD (s.view.oc.toNat % 8) = true → Jumps (.boc b) s .stay s.me target) ∧
    (b.imm.getLsbD (s.view.oc.toNat % 8) = false → Gives (.boc b) s 0 0) ∧
    (s.G b.d ≠ 1 → Jumps (.loopI b) s .stay (s.me.setReg b.d (s.G b.d - 1)) target) ∧
    (s.G b.d = 1 → Gives (.loopI b) s b.d 0)) ∧
  (s.guard o.grd = true → Jumps (.jmp o) s .stay s.me (s.G o.a))) ∧
  (∀ (b : BOp) (o : ROp) (s : State), s.pair = none →
  (s.guard b.grd = true → s.myCore.land s.me (targetOf s.ip b.tgt) = .bad →
    let target := targetOf s.ip b.tgt
    Traps (.br b) s 3 target ∧
    (b.imm.getLsbD (s.view.oc.toNat % 8) = true → Traps (.boc b) s 3 target) ∧
    (s.G b.d ≠ 1 → Traps (.loopI b) s 3 target) ∧
    (s.me.callOverflow = false → Traps (.call b) s 3 target)) ∧
  (s.guard o.grd = true →
    (s.myCore.land s.me (s.G o.a) = .bad → Traps (.jmp o) s 3 (s.G o.a) ∧
      (s.me.callOverflow = false → Traps (.calli o) s 3 (s.G o.a))) ∧
    (s.myCore.land s.me (s.G 16) = .bad → s.me.depth ≠ 0 → Traps (.ret o) s 3 (s.G 16)))) ∧
  (∀ (o : MOp) (s : State) (off : Nat), s.guard o.grd = true → s.pair = none → s.lsLocked off 8 = false →
  s.relDue o = false → s.me.budPark = false → s.me.armed = false → s.isFull (lsAddr s.cur.1 off) = false →
  s.placeOf (s.ea o) { align := 8, own := true, other := true, device := true, fabric := true
                       write := false, need := rF } = .ok (.own off) →
  o.nra = .branch → s.myCore.land s.me (targetOf s.me.ip o.tgt) = .bad →
  ∃ u, exec (.ldw o) s = .next (u.raise s.cur.1 s.cur.2 { cause := 3, info := targetOf s.me.ip o.tgt } s.me.ip) ∧
    u = s.setMe u.me ∧ u.me.oc = 2 ∧ u.me.nrip = s.me.ip ∧ ∀ r, u.me.reg r = s.me.reg r)

/-- R248, R250: CALL and CALLI move the window by 8. The callee's g16 is the return IP, its g17–g23
are the caller's g25–g31, g1–g15 and the predicates are shared, and the caller's own halves keep
their contents. Its g24–g31 hold undefined values (R31): nothing is said of them. R447: without room
for the spill, 12h.
Clauses that follow the model's own choices rest on log entry 4. -/
def Obligations.CallMovesTheWindow : Prop := ∀ (b : BOp) (o : ROp) (s : State),
  let called := fun (i : Instr) (target : Word) => s.me.callOverflow = false →
    (∀ p, s.pair = some p → ∃ t, exec i s = .next t ∧ Alone s t ∧ t.me = s.me ∧
      t.pair = some { p with ends := p.ends ++ [(s.ip, .jump .call target)] }) ∧
    (s.pair = none → s.myCore.land s.me target = .ok → ∃ t, exec i s = .next t ∧ t.me.ip = target ∧ t.me.wbase = s.me.wbase + 1 ∧
      t.me.depth = s.me.depth + 1 ∧ t.me.reg 16 = nextIp s.me.ip ∧
      (∀ r : Spec, 17 ≤ r.toNat → r.toNat ≤ 23 → t.me.reg r = s.me.reg (r + 8)) ∧
      (∀ r : Spec, r.toNat < 16 ∨ 32 ≤ r.toNat → t.me.reg r = s.me.reg r) ∧
      (∀ j, j < 8 → t.me.win.get (8 * s.me.wbase + j) 0 = s.me.win.get (8 * s.me.wbase + j) 0) ∧
      t.me.rest = { s.me with wbase := t.me.wbase, depth := t.me.depth }.rest ∧
      t = { s.setMe t.me with free := s.free + 8 })
  (s.guard b.grd = true → called (.call b) (targetOf s.ip b.tgt) ∧
    (s.me.callOverflow = true → Traps (.call b) s 0x12 (BitVec.ofNat 64 s.me.wsp))) ∧
  (s.guard o.grd = true → called (.calli o) (s.G o.a) ∧
    (s.me.callOverflow = true → Traps (.calli o) s 0x12 (BitVec.ofNat 64 s.me.wsp)))

/-- R249, R495: RET goes to g16 and moves the window back; the caller's g24–g31 are the callee's
g16–g23. At depth 0 it raises 12h with bit 63 of ctx.tinfo set. -/
def Obligations.ReturnMovesTheWindowBack : Prop := ∀ (o : ROp) (s : State), s.guard o.grd = true →
  (s.me.depth ≠ 0 → Jumps (.ret o) s .ret
    (match s.pair with
      | none => { s.me with wbase := s.me.wbase - 1, depth := s.me.depth - 1 }
      | some _ => s.me) (s.G 16)) ∧
  (∀ x : Ctx, x.wbase = s.me.wbase - 1 → x.g = s.me.g → x.win = s.me.win → x.p = s.me.p →
    0 < s.me.wbase → (∀ r : Spec, 24 ≤ r.toNat → r.toNat < 32 → x.reg r = s.me.reg (r - 8)) ∧
      ∀ r : Spec, r.toNat < 16 ∨ 32 ≤ r.toNat → x.reg r = s.me.reg r) ∧
  (s.me.depth = 0 → Traps (.ret o) s 0x12 (BitVec.ofNat 64 (s.me.wsp + 2 ^ 63)))

/-- R193, R252, R254, R255: NOP, YIELD, and the clause stack of 8 entries.
Clauses that follow the model's own choices rest on log entry 98. -/
def Obligations.TurnsAndClauses : Prop := ∀ (k : IOp) (o : ROp) (s : State),
  Gives .nop s 0 0 ∧
  (s.guard o.grd = true → ∃ t l, exec (.yieldI o) s = .next t ∧
    Writes s t { s.me with yielded := some (s.myCore.cyc, l) } .next 0 0 ∧ Alone s t ∧
    ∀ j, j ∈ l ↔ j < 16 ∧ j ≠ s.cur.2 ∧ s.myCore.ready j = true) ∧
  (s.me.stop = none → s.myCore.migrate = none →
    (s.guard k.grd = true → ∃ t, exec (.enter k) s = .next t ∧ Alone s t ∧
      Writes s t { s.me with
        cls := (BitVec.ofNat 16 k.imm.toNat :: s.me.cls).take 8
        ovf := if 8 ≤ s.me.cls.length ∧ s.me.ovf ≠ 0xFFFF then s.me.ovf + 1 else s.me.ovf } .next 0 0) ∧
    (s.guard o.grd = true → ∃ t, exec (.leave o) s = .next t ∧ Alone s t ∧
      Writes s t { s.me with cls := s.me.cls.tail } .next 0 0))

/-- R256, R37, R491: END frees the helper: its context holds no instruction pointer, its slot belongs to
no codelet, its CLCK locks go; an answer that is still due is awaited first. Another context that
executes it raises 05h.
Clauses that follow the model's own choices rest on log entry 89. -/
def Obligations.EndOfAHelper : Prop := ∀ (o : ROp) (s : State), s.guard o.grd = true →
  (1 ≤ s.cur.2 → s.cur.2 ≤ 10 → s.me.held = [] →
    (s.me.replyDue = false → ∃ t, exec (.endI o) s = .next t ∧ t.me.live = false ∧ t.mem = s.mem ∧
      (∀ a ∈ t.myCore.allots, s.cur.2 ∉ a.slots) ∧
      (∀ l ∈ t.myCore.locks, ¬ (l.2.kind = 3 ∧ l.2.ctx = s.cur.2)) ∧
      (∀ j, j ≠ s.cur.2 → (t.ctx s.cur.1 j).still = (s.ctx s.cur.1 j).still)) ∧
    (s.me.replyDue = true → ∃ t, exec (.endI o) s = .next t ∧ Alone s t ∧ t.pair = s.pair ∧
      t.me = { s.me with wait := some ⟨.ending false, s.myCore.cyc, s.ticks⟩, retry := false })) ∧
  (s.cur.2 = 0 ∨ 10 < s.cur.2 → Traps (.endI o) s 5 (slotBits (.endI o)))

/-! ### Own local store -/

/-- R258, R262, R265: a load from the own local store, by LDL or by LD in a rank window, gives the
element, extended by its type, and changes nothing else. R159: a range lock gives BUSY (4). R475: a
poisoned word raises 0Eh with its offset.
R265, R497: an offset of LDL or STL that is no multiple of the element raises 07h, one beyond the
local store 06h, and an STL into the weight-store window 11h; and an access in a rank window whose checks fail raises their cause (R259). -/
def Obligations.LocalLoads : Prop :=
  (∀ (o : MOp) (s : State) (off : Nat) (i : Instr),
  s.guard o.grd = true → i.WellFormed →
  (i = .ldl o ∧ (s.ea o).toNat = off ∧ off < 2 ^ 20 ∧ off % elemBytes o.ty = 0) ∨
    (i = .ld o ∧ s.placeOf (s.ea o) (elemUse o rR false) = .ok (.own off)) →
  let a := lsAddr s.cur.1 off
  let element := if o.ty.width = 4 then fld (s.rd a 1) (if o.v0 then 4 else 0) 4 else s.rd a (elemBytes o.ty)
  (s.lsLocked off (elemBytes o.ty) = false → s.isPoison a = false →
    ∃ t, exec i s = .next t ∧ Writes s t s.me (.ok true) o.d (o.ty.ext element) ∧ Alone s t) ∧
  (s.lsLocked off (elemBytes o.ty) = false → s.isPoison a = true →
    Traps i s 0x0E (BitVec.ofNat 64 (off / 8 * 8))) ∧
  (s.lsLocked off (elemBytes o.ty) = true → o.nra = .set → Unready i s 4 4)) ∧
  (∀ (o : MOp) (s : State), s.guard o.grd = true →
  let a := s.ea o
  (a.toNat % elemBytes o.ty ≠ 0 → Traps (.ldl o) s 7 a ∧ Traps (.stl o) s 7 a) ∧
  (a.toNat % elemBytes o.ty = 0 → 2 ^ 20 ≤ a.toNat → Traps (.ldl o) s 6 a ∧
    ((∀ d n, windowOf s.myCore.rank a ≠ .weight d n) → Traps (.stl o) s 6 a) ∧
    (∀ d n, windowOf s.myCore.rank a = .weight d n → Traps (.stl o) s 0x11 a)) ∧
  (∀ c, s.placeOf a (elemUse o rR false) = .error c → Traps (.ld o) s c a) ∧
  (∀ c, s.placeOf a (elemUse o rW true) = .error c → Traps (.st o) s c a))

/-- R265, R266, R267: a store to the own local store, by STL or by ST in a rank window, writes the
element's bytes (or its half of a byte) at the address computed, and no other byte, register, flag
or full/empty bit; contexts that wait for the line may wake. R106: an 8-byte store clears poison.
R268: LDB and STB move a field of 1 to 64 bits at any bit address of the own local store. LDB gives
the field, sign-extended for .i64; STB writes those bits and no other. R497: a field that reaches past the local store
raises 06h. R475: LDB of a poisoned word raises 0Eh with its offset; a store of fewer than 8 bytes leaves the poison.
Clauses that follow the model's own choices rest on log entry 29. -/
def Obligations.LocalStoresAndBitFields : Prop :=
  (∀ (o : MOp) (s : State) (off : Nat) (i : Instr),
  s.guard o.grd = true → i.WellFormed → s.me.wait = none →
  (i = .stl o ∧ (s.ea o).toNat = off ∧ off < 2 ^ 20 ∧ off % elemBytes o.ty = 0) ∨
    (i = .st o ∧ s.placeOf (s.ea o) (elemUse o rW true) = .ok (.own off)) →
  let a := lsAddr s.cur.1 off
  let n := elemBytes o.ty
  let v := (s.G o.d).toNat
  s.lsLocked off n = false → ∃ t, exec i s = .next t ∧ Writes s t s.me (.ok false) 0 0 ∧ Spared s t ∧
    (o.ty.width ≠ 4 → t.rd a n = (if o.ty = .l6 then v % 64 else v % 2 ^ (8 * n))) ∧
    (o.ty.width = 4 → t.rd a 1 = setFld (s.rd a 1) (if o.v0 then 4 else 0) 4 v) ∧
    SameBytes s t a n ∧ (∀ b, t.isFull b = s.isFull b) ∧
    ∀ b, t.isPoison b = (s.isPoison b && !(o.ty.width = 64 && b / 8 == a / 8))) ∧
  (∀ (o : MOp) (s : State), s.guard o.grd = true →
  s.me.wait = none →
  let a := (s.G o.a + s.G o.b).toNat
  let w := o.disp.toNat % 64 + 1
  let n := (a + w - 1) / 8 - a / 8 + 1
  let bit := fun (u : State) (j : Nat) =>
    (Memory.read u.mem (lsBase + s.cur.1 * 2 ^ 20 + j / 8)).getLsbD (j % 8)
  (2 ^ 23 < a + w → Traps (.ldb o) s 6 (s.G o.a + s.G o.b) ∧ Traps (.stb o) s 6 (s.G o.a + s.G o.b)) ∧
  (a + w ≤ 2 ^ 23 → s.lsLocked (a / 8) n = false →
    (∀ p, s.lsPoison s.cur.1 (a / 8) n = some p → Traps (.ldb o) s 0x0E (BitVec.ofNat 64 p)) ∧
    ((Instr.ldb o).WellFormed → s.lsPoison s.cur.1 (a / 8) n = none → ∃ t v, exec (.ldb o) s = .next t ∧
      Writes s t s.me (.ok false) o.d v ∧ Alone s t ∧
      ∀ j, j < 64 → v.getLsbD j = if j < w then bit s (a + j)
        else o.ty == .i64 && bit s (a + w - 1)) ∧
    ∃ t, exec (.stb o) s = .next t ∧ Writes s t s.me (.ok false) 0 0 ∧ Spared s t ∧
      (∀ j, j < 2 ^ 23 → bit t j = if a ≤ j ∧ j < a + w then (s.G o.d).getLsbD (j - a) else bit s j) ∧
      SameBytes s t (lsAddr s.cur.1 (a / 8)) n ∧
      ∀ b, t.isFull b = s.isFull b ∧ t.isPoison b = s.isPoison b))

/-- R271, R166: the full/empty forms on a word of the own local store: what each returns, and the
word's value and bit after it. STF needs the word empty, LDW and LDC need it full. R475: LDW and LDC of a poisoned word
raise 0Eh with its offset; FEQ and FESET leave the poison, STE and STF clear it. -/
def Obligations.LocalFullEmptyForms : Prop := ∀ (o : MOp) (s : State) (off : Nat),
  s.guard o.grd = true → s.me.wait = none → s.lsLocked off 8 = false → s.relDue o = false →
  let a := lsAddr s.cur.1 off
  let w := BitVec.ofNat 64 (s.rd a 8)
  let v := s.G o.d
  (s.placeOf (s.ea o) { align := 8, own := true, other := true, device := true, fabric := true
                        write := false, need := rF } = .ok (.own off) →
    (s.isFull a = true → s.isPoison a = false →
      WordOp (.ldw o) s o.ord off o.d w w true false ∧
      WordOp (.ldc o) s o.ord off o.d w w false false) ∧
    (s.isFull a = true → s.isPoison a = true → Traps (.ldw o) s 0x0E (BitVec.ofNat 64 off) ∧
      Traps (.ldc o) s 0x0E (BitVec.ofNat 64 off)) ∧
    (s.isFull a = false → o.nra = .set → Unready (.ldw o) s 2 0 ∧ Unready (.ldc o) s 2 0) ∧
    WordOp (.feq o) s o.ord off o.d (boolWord (s.isFull a)) w (s.isFull a) (s.isPoison a)) ∧
  (s.placeOf (s.ea o) { align := 8, own := true, other := true, device := true, fabric := true
                        write := true, need := rF } = .ok (.own off) →
    (s.isFull a = true → o.nra = .set → Unready (.stf o) s 3 0) ∧
    (s.isFull a = false → WordOp (.stf o) s o.ord off 0 0 v true false) ∧
    WordOp (.ste o) s o.ord off 0 0 v false false ∧
    WordOp (.feset o) s o.ord off 0 0 w true (s.isPoison a))

/-- R274: an atomic on an element of the own local store returns the old element and leaves the new one
of the table, in one step. -/
def Obligations.LocalAtomics : Prop := ∀ (o : MOp) (s : State) (off : Nat) (i : Instr),
  s.guard o.grd = true → s.me.wait = none → i.WellFormed →
  s.placeOf (s.aea o) (elemUse o rA true) = .ok (.own off) →
  s.lsLocked off (elemBytes o.ty) = false → s.relDue o = false →
  let a := lsAddr s.cur.1 off
  let n := elemBytes o.ty
  s.isPoison a = false →
  let x := s.rd a n
  let u := (s.G o.b).toNat % 2 ^ (8 * n)
  ∀ new : Nat,
  (i = .aadd o ∧ new = (x + u) % 2 ^ (8 * n)) ∨ (i = .aand o ∧ new = x &&& u) ∨
    (i = .aor o ∧ new = x ||| u) ∨ (i = .axor o ∧ new = x ^^^ u) ∨
    (i = .amin o ∧ new = if o.ty.int x ≤ o.ty.int u then x else u) ∨
    (i = .amax o ∧ new = if o.ty.int x ≤ o.ty.int u then u else x) ∨
    (i = .aswp o ∧ new = u) ∨
    (i = .acas o ∧ new = if x = (s.G o.d).toNat % 2 ^ (8 * n) then u else x) ∨
    (i = .afadd o ∧ new = (fmtD o.ty).round .rne false
      (Val.add .rne ((fmtD o.ty).val x) ((fmtD o.ty).val u))) →
  ∃ t, exec i s = .next t ∧ Writes s t s.me (.ok false) o.d (o.ty.ext x) ∧ Spared (s.after o.ord) t ∧
    t.rd a n = new ∧ SameBytes s t a n ∧
    ∀ b, t.isFull b = s.isFull b ∧ t.isPoison b = s.isPoison b

/-- R59, R62, R271: the four actions on the EMPTY outcome of LDW on an own word: execution goes on
behind it, or at the target, the context parks with a watch on the word, or it yields with a retry
to come. Nothing is written. -/
def Obligations.EmptyWordActions : Prop := ∀ (o : MOp) (s : State) (off : Nat),
  s.guard o.grd = true → s.pair = none → s.lsLocked off 8 = false → s.relDue o = false →
  s.me.budPark = false → s.me.armed = false → s.isFull (lsAddr s.cur.1 off) = false →
  s.placeOf (s.ea o) { align := 8, own := true, other := true, device := true, fabric := true
                       write := false, need := rF } = .ok (.own off) →
  ∃ t, exec (.ldw o) s = .next t ∧ t.me.oc = 2 ∧ t.me.nrip = s.me.ip ∧ t.me.armed = true ∧
    t.me.count = s.me.init ∧ (∀ r, t.me.reg r = s.me.reg r) ∧ t.mem = s.mem ∧ t.empties = s.empties ∧
    (∀ p k, (p, k) ≠ s.cur → t.ctx p k = s.ctx p k) ∧
    (o.nra = .set → t.me.ip = nextIp s.me.ip ∧ t.me.retry = false ∧ t.me.wait = s.me.wait) ∧
    (o.nra = .yield → t.me.ip = s.me.ip ∧ t.me.retry = true ∧ t.me.wait = s.me.wait) ∧
    (o.nra = .branch → s.myCore.land s.me (targetOf s.me.ip o.tgt) = .ok →
      t.me.ip = targetOf s.me.ip o.tgt ∧
      t.me.retry = decide ((targetOf s.me.ip o.tgt).toNat ≤ s.me.ip.toNat)) ∧
    (o.nra = .park → t.me.ip = s.me.ip ∧ t.me.wait = some ⟨.word, s.myCore.cyc, s.ticks⟩ ∧
      ∃ w : Watch, (if s.me.front then t.myCore.watches = w :: s.myCore.watches
          else t.myCore.watches = s.myCore.watches ++ [w]) ∧
        w.pid = s.cur.1 ∧ w.ctx = s.cur.2 ∧ w.word = lsAddr s.cur.1 off / 8 ∧ w.want = some true)

/-- R273, R81: a store that fills a word wakes the contexts of its core that wait for it, in the order
of the watch list, and stops behind the first that changes the bit.
R289: a signal wakes the contexts whose threshold is met, in their order, and the first that will
decrement is the last one woken. -/
def Obligations.WakesInOrder : Prop :=
  (∀ (o : MOp) (s : State) (off : Nat) (w1 w2 : Watch),
  s.guard o.grd = true → s.me.wait = none → s.lsLocked off 8 = false → s.relDue o = false →
  s.isFull (lsAddr s.cur.1 off) = false →
  s.placeOf (s.ea o) { align := 8, own := true, other := true, device := true, fabric := true
                       write := true, need := rF } = .ok (.own off) →
  s.myCore.watches = [w1, w2] →
  (∀ w : Watch, w = w1 ∨ w = w2 → w.word = lsAddr s.cur.1 off / 8 ∧ w.want = some true ∧ w.chain = none ∧
    w.dev = none ∧ w.pid = s.cur.1 ∧ w.ctx ≠ s.cur.2 ∧ s.watchLive w = true ∧
    ∃ c k, (s.ctx w.pid w.ctx).wait = some ⟨.word, c, k⟩) →
  w1.ctx ≠ w2.ctx → acqOf o.ord = false →
  ∃ t, exec (.stf o) s = .next t ∧ (t.ctx s.cur.1 w1.ctx).wait = none ∧
    ((t.ctx s.cur.1 w2.ctx).wait = none ↔ w1.changing = false)) ∧
  (∀ (o : EOp) (s : State) (k1 k2 t1 t2 : Nat) (d1 d2 : Bool),
  s.guard o.grd = true → s.me.wait = none → o.v0 = false → o.ord = .none → o.imm ≠ 0 →
  let i := ((s.G o.b).toNat + o.sem.toNat) % 256
  let c := s.myCore
  let n := min (c.sems.get i 0 + o.imm.toNat) 65535
  c.semWait.get i [] = [⟨some k1, 0, t1, d1⟩, ⟨some k2, 0, t2, d2⟩] → k1 ≠ k2 → k1 ≠ s.cur.2 →
  k2 ≠ s.cur.2 →
  (∃ a b, (s.ctx s.cur.1 k1).wait = some ⟨.sem i, a, b⟩) →
  (∃ a b, (s.ctx s.cur.1 k2).wait = some ⟨.sem i, a, b⟩) →
  ∃ t, exec (.ssig o) s = .next t ∧
    ((t.ctx s.cur.1 k1).wait = none ↔ t1 ≤ n) ∧
    ((t.ctx s.cur.1 k2).wait = none ↔ t2 ≤ n ∧ ¬ (t1 ≤ n ∧ d1 = true)))
/-! ### The reply slot, the store buffer and the core cache -/

/-- R67: the first execution sends one request, records it in the slot, and answers MISS (2), or BUSY
(12) for another rank's local store. R165, R166: with .rel it waits for the condition of REL.
R67, R68: while the answer is due, the instruction at the same IP sends nothing and answers as
before; one at another IP answers BUSY (13) (or BUSY (11), where .rel is not met).
R67, R272, R274, R275: the execution that collects an answer for its own IP and address empties the
slot and ends OK with the answer's value. R451, R466: an answer that is a trap is taken there.
R68: once the answer has come, an execution at the same IP with another address discards it and sends the new request.
Clauses that follow the model's own choices rest on log entry 23. -/
def Obligations.ReplySlot : Prop :=
  (∀ (o : MOp) (s : State) (p : Place) (f : SlotForm),
  f ∈ slotForms o s p → s.guard o.grd = true → s.placeOf f.a f.use = .ok p → s.pair = none →
  s.me.slot = none →
  (s.relDue o = true → o.nra = .set → Unready f.i s 4 11) ∧
  (s.relDue o = false → s.vaLocked f.a (elemBytes o.ty) = false →
    s.myCore.absentAt s.cur.2 (lineKey s.myCore.dom f.a) = none →
    s.me.budPark = false → s.me.armed = false → o.nra ≠ .branch → ∃ t, exec f.i s = .next t ∧
      t.nextId = s.nextId + 1 ∧ t.mem = s.mem ∧ (∀ r, t.me.reg r = s.me.reg r) ∧
      t.me.nrip = s.me.ip ∧
      (match p with
        | .other r off => t.me.oc = 12 * 8 + 4 ∧ t.homeReqs = s.homeReqs ∧
          t.me.slot = some ⟨s.nextId, s.me.ip, f.a, s.me.gen.toNat, true, none⟩ ∧
          ∃ m : Msg, t.msgs = s.msgs ++ [m] ∧ m.id = s.nextId ∧ m.kind = .access f.op off f.park ∧
            m.rank = r ∧ m.pid = s.cur.1 ∧ m.ctx = s.cur.2 ∧ m.gen = s.me.gen.toNat
        | _ => t.me.oc = 2 * 8 + 1 ∧ t.msgs = s.msgs ∧
          t.me.slot = some ⟨s.nextId, s.me.ip, f.a, s.me.gen.toNat, false, none⟩ ∧
          ∃ q : HomeReq, t.homeReqs = s.homeReqs ++ [q] ∧ q.id = s.nextId ∧ q.op = f.op ∧ q.va = f.a ∧
            q.pid = s.cur.1 ∧ q.ctx = s.cur.2 ∧ q.gen = s.me.gen.toNat ∧ q.park = f.park))) ∧
  (∀ (o : MOp) (s : State) (p : Place) (f : SlotForm) (sl : Slot),
  f ∈ slotForms o s p → s.guard o.grd = true → s.placeOf f.a f.use = .ok p → s.pair = none →
  s.me.slot = some sl → s.me.budPark = false → s.me.armed = false → o.nra = .set →
  (sl.ip = s.ip → sl.ans = none → ∃ t, exec f.i s = .next t ∧ t.msgs = s.msgs ∧
    t.homeReqs = s.homeReqs ∧ t.me.oc = (if sl.remote then 12 * 8 + 4 else 2 * 8 + 1)) ∧
  (sl.ip ≠ s.ip → s.relDue o = false → Unready f.i s 4 13 ∧ ∃ t, exec f.i s = .next t ∧
    t.msgs = s.msgs ∧ t.homeReqs = s.homeReqs ∧ t.me.slot = s.me.slot) ∧
  (sl.ip = s.ip → sl.ans.isSome = true → sl.addr ≠ f.a → s.relDue o = false → s.vaLocked f.a (elemBytes o.ty) = false →
    s.myCore.absentAt s.cur.2 (lineKey s.myCore.dom f.a) = none → ∃ t, exec f.i s = .next t ∧
      t.nextId = s.nextId + 1 ∧ t.mem = s.mem ∧ (∀ r, t.me.reg r = s.me.reg r) ∧
      (match p with
        | .other _ _ => t.me.oc = 12 * 8 + 4 ∧ t.msgs.length = s.msgs.length + 1 ∧
          t.me.slot = some ⟨s.nextId, s.me.ip, f.a, s.me.gen.toNat, true, none⟩
        | _ => t.me.oc = 2 * 8 + 1 ∧ t.homeReqs.length = s.homeReqs.length + 1 ∧
          t.me.slot = some ⟨s.nextId, s.me.ip, f.a, s.me.gen.toNat, false, none⟩))) ∧
  (∀ (o : MOp) (s : State) (p : Place) (f : SlotForm) (sl : Slot),
  f ∈ slotForms o s p → s.guard o.grd = true → s.placeOf f.a f.use = .ok p →
  s.me.slot = some sl → sl.ip = s.ip → sl.addr = f.a →
  (∀ v, sl.ans = some (.ok v) → ∃ t, exec f.i s = .next t ∧
    Writes s t { s.me with slot := none } (.ok f.plain) f.d v ∧
    Alone (if f.acq then s.after o.ord else s) t) ∧
  (∀ cause info, sl.ans = some (.trap cause info) → s.pair = none → exec f.i s =
    .next ((s.setMe { s.me with slot := none, rung := none }).raise s.cur.1 s.cur.2
      { cause := cause, info := info } s.me.ip)))

/-- R111, R262, R264: LD and LDK of host or device memory take the context's youngest buffered store of
the word, else the core's copy or the held line; with neither, a line request goes out and MISS (0)
is returned. Nothing but the destination changes on OK.
Clauses that follow the model's own choices rest on log entries 15 and 24. -/
def Obligations.CachedLoads : Prop := ∀ (o : MOp) (s : State) (i : Instr) (ldk : Bool),
  (i = .ld o ∧ ldk = false) ∨ (i = .ldk o ∧ ldk = true) → s.guard o.grd = true →
  let a := s.ea o
  let c := s.myCore
  let k := s.cur.2
  s.placeOf a (elemUse o rR false) = .ok .home → c.noteAt k (lineKey c.dom a) = none →
  s.vaLocked a (elemBytes o.ty) = false →
  (∀ w : CWord, c.buffered k a = [] → w.poison = false →
    (c.dcache.find? (wordKey c.dom a) = some w ∨
      (c.dcache.find? (wordKey c.dom a) = none ∧
        (ldk = false ∨ c.kcache.find? (wordKey c.dom a) = none) ∧ c.held k a = some w) ∨
      (c.dcache.find? (wordKey c.dom a) = none ∧ ldk = true ∧ c.kcache.find? (wordKey c.dom a) = some w)) →
    ∃ t, exec i s = .next t ∧ Alone s t ∧
      Writes s t s.me (.ok true) o.d (o.ty.ext (getElem w.v o.ty o.v0 a.toNat))) ∧
  (∀ (es : List SEntry) (e : SEntry), c.buffered k a = es ++ [e] → e.bits = BitVec.allOnes 64 →
    ∃ t, exec i s = .next t ∧ Alone s t ∧
      Writes s t s.me (.ok true) o.d (o.ty.ext (getElem e.data o.ty o.v0 a.toNat))) ∧
  (c.buffered k a = [] → c.copyFor k a ldk = none → c.absentAt k (lineKey c.dom a) = none →
    c.lineReqs = [] → 0 < s.conf.lineDepth → o.nra = .set → s.pair = none → s.me.budPark = false →
    s.me.armed = false → ∃ t r, exec i s = .next t ∧ t.me.oc = 1 ∧ t.me.nrip = s.me.ip ∧
      t.myCore.lineReqs = [r] ∧ r.line = lineKey c.dom a ∧ r.fill = none ∧
      r.waiters = [(k, if ldk then .ldk else .ld)] ∧ t.mem = s.mem ∧ ∀ g, t.me.reg g = s.me.reg g)

/-- R109, R266, R267, R272: a store to host, device or fabric memory, and STE and FESET there, retire
into the store buffer with the next sequence number, or answer BUSY (6) when 64 entries wait. No
memory changes at retirement, and nothing else of the core does. -/
def Obligations.BufferedStores : Prop := ∀ (o : MOp) (s : State) (i : Instr) (u : Use) (p : Place) (fe : Nat),
  (i = .st o ∧ u = elemUse o rW true ∧ fe = 0) ∨ (i = .ste o ∧ u = feUse true ∧ fe = 1) ∨
    (i = .feset o ∧ u = feUse true ∧ fe = 2) →
  s.guard o.grd = true → i.WellFormed →
  let a := s.ea o
  let c := s.myCore
  s.placeOf a u = .ok p → p = .home ∨ p = .fabric → (fe = 0 ∨ s.relDue o = false) →
  s.vaLocked (wordAddr a) 8 = false →
  (64 ≤ c.sbuf.length → o.nra = .set → Unready i s 4 6) ∧
  (c.sbuf.length < 64 → ∃ (t : State) (e : SEntry), exec i s = .next t ∧
    Writes s t s.me (.ok false) 0 0 ∧ t.myCore.sbuf = c.sbuf ++ [e] ∧
    t.myCore.seq = (c.seq + 1) % 2 ^ 32 ∧
    Alone ((if fe = 0 then s else s.after o.ord).setMyCore
      { (if fe = 0 then s else s.after o.ord).myCore with sbuf := t.myCore.sbuf, seq := t.myCore.seq }) t ∧
    e.seq = c.seq ∧ e.va = a ∧ e.ip = s.ip ∧ e.ctx = s.cur.2 ∧ e.gen = s.me.gen.toNat ∧ e.state = 1 ∧
    e.dom = c.dom ∧ e.fe = fe ∧ e.cls = s.me.top2 ∧
    (fe = 0 → getElem e.data o.ty o.v0 a.toNat =
        (if o.ty = .l6 then (s.G o.d).toNat % 64 else (s.G o.d).toNat % 2 ^ o.ty.width) ∧
      e.bmask = (2 ^ elemBytes o.ty - 1) * 2 ^ (a.toNat % 8)) ∧
    (fe = 1 → e.data = s.G o.d ∧ e.bmask = 255) ∧ (fe = 2 → e.bmask = 0))

/-- R269, R95: WLD copies 64 or 2,048 bytes of the own die's weight store into a register and tags it;
while the bank refreshes it answers BUSY (5), and while accepted work names the register BUSY (2) or
(3).
R270: PFX sends a line request on host and device memory, and returns OK; on the other windows, and
for a line that is present, it returns OK and does nothing.
Clauses that follow the model's own choices rest on log entries 34 and 86. -/
def Obligations.WeightLoadsAndPrefetch : Prop :=
  (∀ (o : MOp) (s : State) (r off : Nat), s.guard o.grd = true →
  let size := if isV o.d then 64 else 2048
  let c := s.myCore
  let named := fun (w : Work) => if isV o.d then w.vregs.contains r else w.tregs.contains r
  let at_ := wsAddr (dieOf s.cur.1) off
  s.me.pool o.d = some r →
  s.placeOf (s.ea o) { align := size, weight := true, need := rR } = .ok (.weight off) →
  (c.mats.any named = true → o.nra = .set → Unready (.wld o) s 4 2) ∧
  (c.mats.any named = false → c.sweeps.any named = true → o.nra = .set → Unready (.wld o) s 4 3) ∧
  (c.mats.any named = false → c.sweeps.any named = false →
    (s.refreshing (off / 2 ^ 23) = true → o.nra = .set → Unready (.wld o) s 4 5) ∧
    (s.refreshing (off / 2 ^ 23) = false → (∀ i, i < size → s.isPoison (at_ + i) = false) →
      ∃ t, exec (.wld o) s = .next t ∧ Writes s t s.me (.ok false) 0 0 ∧
        (if isV o.d then
          t.myCore.vregs.get r {} = ⟨s.rd at_ 64, o.ty.tag, 0⟩ ∧
          Alone (s.setMyCore { c with vregs := t.myCore.vregs }) t ∧
          ∀ q, q ≠ r → t.myCore.vregs.get q {} = c.vregs.get q {}
        else
          t.myCore.tregs.get r {} = ⟨s.rd at_ 2048, o.ty.tag, scOne⟩ ∧
          Alone (s.setMyCore { c with tregs := t.myCore.tregs }) t ∧
          ∀ q, q ≠ r → t.myCore.tregs.get q {} = c.tregs.get q {})))) ∧
  (∀ (o : MOp) (s : State) (p : Place), s.guard o.grd = true →
  let a := s.ea o
  let c := s.myCore
  s.placeOf a { align := 8, own := true, other := true, host := true, device := true, weight := true
                anyDie := true, fabric := true, need := rR } = .ok p →
  (p ≠ .home ∨ (∀ i, i < 8 → (c.dcache.find? (lineKey c.dom a * 8 + i)).isSome = true) →
    ∃ t, exec (.pfx o) s = .next t ∧ Writes s t s.me (.ok false) 0 0 ∧ Alone s t) ∧
  (p = .home → c.noteAt s.cur.2 (lineKey c.dom a) = none → c.dcache = [] →
    (∀ e ∈ c.absents, ¬ (e.ctx = s.cur.2 ∧ e.line = lineKey c.dom a)) → s.vaLocked (wordAddr a) 8 = false →
    c.lineReqs = [] → (0 < s.conf.lineDepth → ∃ t r, exec (.pfx o) s = .next t ∧ Writes s t s.me (.ok false) 0 0 ∧
      t.myCore.lineReqs = [r] ∧ r.line = lineKey c.dom a ∧ r.waiters = [(s.cur.2, .pfx)] ∧ r.fill = none ∧
      t.mem = s.mem) ∧
    (s.conf.lineDepth = 0 → o.nra = .set → Unready (.pfx o) s 4 0)))

/-- R163, R165, R276–R278: ACQ drops the unowned words, the context's held lines and the fills of the
requests already sent; REL returns OK once the context's stores are acknowledged and its slot's
operation is performed, FENCE once its posted messages are; until then BUSY (11). -/
def Obligations.AcquireAndRelease : Prop := ∀ (r : ROp) (o : MOp) (s : State),
  (s.guard r.grd = true → ∃ t, exec (.acq r) s = .next t ∧ Writes s t s.me .next 0 0 ∧
    Alone s.acquire t ∧ (∀ e ∈ t.myCore.dcache, e.2.owned = true ∧ e ∈ s.myCore.dcache) ∧
    (∀ e ∈ s.myCore.dcache, e.2.owned = true → e ∈ t.myCore.dcache) ∧
    (∀ h ∈ t.myCore.holds, h.ctx ≠ s.cur.2) ∧ ∀ q ∈ t.myCore.lineReqs, q.stale = true) ∧
  (s.guard o.grd = true →
    ((∀ e ∈ s.myCore.sbuf, ¬ (e.ctx = s.cur.2 ∧ e.gen = s.me.gen.toNat)) → s.me.slot = none →
      ∃ t, exec (.rel o) s = .next t ∧ Writes s t s.me (.ok false) 0 0 ∧ Alone s t) ∧
    ((∃ e ∈ s.myCore.sbuf, e.ctx = s.cur.2 ∧ e.gen = s.me.gen.toNat) → o.nra = .set →
      Unready (.rel o) s 4 11) ∧
    ((∀ m ∈ s.posted s.cur.1, ¬ (m.ctx = s.cur.2 ∧ m.gen = s.me.gen.toNat)) →
      ∃ t, exec (.fence o) s = .next t ∧ Writes s t s.me (.ok false) 0 0 ∧ Alone s t) ∧
    ((∃ m ∈ s.posted s.cur.1, m.ctx = s.cur.2 ∧ m.gen = s.me.gen.toNat) → o.nra = .set →
      Unready (.fence o) s 4 11))

/-- R253: PARK on an own word that differs goes on at once; on an equal one it registers a watch of the
line and parks with its timeout. On other local store and at a home it sends its check and waits.
Clauses that follow the model's own choices rest on log entry 49. -/
def Obligations.ParkForms : Prop := ∀ (o : ROp) (s : State) (p : Place), s.guard o.grd = true →
  s.pair = none →
  let a := s.G o.a
  let v := s.G o.b
  let T := (s.G o.c).toNat % 2 ^ 32
  s.placeOf a { align := 8, own := true, other := true, host := true, device := true, need := rR } = .ok p →
  match p with
  | .own off => s.lsLocked off 8 = false → s.isPoison (lsAddr s.cur.1 off) = false →
      ((s.rd (lsAddr s.cur.1 off) 8) ≠ v.toNat → Gives (.park o) s 0 0) ∧
      ((s.rd (lsAddr s.cur.1 off) 8) = v.toNat → ∃ t w, exec (.park o) s = .next t ∧
        t.me.wait = some ⟨.parkWatch (lineKey 0 (ownVa s.myCore.rank off)) T, s.myCore.cyc, s.ticks⟩ ∧
        t.me.ip = s.me.ip ∧ (∀ r, t.me.reg r = s.me.reg r) ∧ t.mem = s.mem ∧
        t.myCore.watches = s.myCore.watches ++ [w] ∧ w.word = lsAddr s.cur.1 off / 8 ∧ w.want = none ∧
        w.changing = false ∧ w.pid = s.cur.1 ∧ w.ctx = s.cur.2)
  | .other r off => ∃ t m, exec (.park o) s = .next t ∧ t.msgs = s.msgs ++ [m] ∧
      m.kind = .parkCheck off v ∧ m.rank = r ∧ m.ctx = s.cur.2 ∧ t.mem = s.mem ∧
      t.me.wait = some ⟨.parkAsk T, s.myCore.cyc, s.ticks⟩ ∧ ∀ g, t.me.reg g = s.me.reg g
  | _ => s.vaLocked a 8 = false → ∃ t q, exec (.park o) s = .next t ∧ t.homeReqs = s.homeReqs ++ [q] ∧
      q.op = .park v ∧ q.va = a ∧ q.ctx = s.cur.2 ∧ t.mem = s.mem ∧
      t.me.wait = some ⟨.parkAsk T, s.myCore.cyc, s.ticks⟩ ∧ ∀ g, t.me.reg g = s.me.reg g

/-! ### Semaphores, messages, barriers, tasks -/

/-- R286–R288: SWAIT with its threshold met, SSIG on the own core and SSET: the count after them. A sum
beyond 65535 saturates and is counted in core.semsat. Engines that wait on the semaphore may take
from it in the same step (R359); here none does. -/
def Obligations.SemaphoreCounts : Prop := ∀ (o : EOp) (s : State), s.guard o.grd = true →
  s.me.wait = none →
  let i := ((s.G o.b).toNat + o.sem.toNat) % 256
  let c := s.myCore
  let n := c.sems.get i 0
  let thr := o.imm.toNat
  (∀ w ∈ c.semWait.get i [], ∃ k, w.ctx = some k ∧ k ≠ s.cur.2) →
  ((Instr.swait o).WellFormed → thr ≤ n → ∃ t, exec (.swait o) s = .next t ∧
    Writes s t s.me (.ok false) 0 0 ∧ t.myCore.sems.get i 0 = (if o.v0 then n - thr else n) ∧
    (∀ j, j ≠ i → t.myCore.sems.get j 0 = c.sems.get j 0) ∧
    Spared ((s.after o.ord).setMyCore { (s.after o.ord).myCore with sems := t.myCore.sems }) t ∧
    t.mem = s.mem) ∧
  (n < thr → o.nra = .set → Unready (.swait o) s 6 0) ∧
  ((o.v0 = false ∨ (s.G o.a).toNat = c.rank ∧ c.rank < 256 ∧ c.rank < s.teamSize s.cur.1) →
    (Instr.ssig o).WellFormed → (o.ord = .none ∨ s.relMet s.cur.1 s.cur.2 = true) →
    ∃ t, exec (.ssig o) s = .next t ∧ Writes s t s.me (.ok false) 0 0 ∧
      (thr ≠ 0 → t.myCore.sems.get i 0 = min (n + thr) 65535) ∧ (thr = 0 → Alone s t) ∧
      t.myCore.semsat = (if thr ≠ 0 ∧ 65535 < n + thr then min (c.semsat + 1) 65535 else c.semsat) ∧
      (∀ j, j ≠ i → t.myCore.sems.get j 0 = c.sems.get j 0) ∧
      Spared (s.setMyCore { c with sems := t.myCore.sems, semsat := t.myCore.semsat }) t ∧ t.mem = s.mem) ∧
  (∃ t, exec (.sset o) s = .next t ∧ Writes s t s.me .next 0 0 ∧ t.myCore.sems.get i 0 = thr ∧
    (∀ j, j ≠ i → t.myCore.sems.get j 0 = c.sems.get j 0) ∧
    Spared (s.setMyCore { c with sems := t.myCore.sems }) t ∧ t.mem = s.mem)

/-- R286, R290, R292, R297, R298, R304: a message to another rank is posted with its operands; a full
outbound queue answers BUSY (9).
R498, R453: a rank that is not below team.size raises 10h, with REASON 1 in ctx.tinfo.
Clauses that follow the model's own choices rest on log entry 12. -/
def Obligations.MessagesArePosted : Prop :=
  (∀ (o : EOp) (s : State) (i : Instr) (kind : MsgKind) (r : Nat),
  s.guard o.grd = true →
  (i = .ssig o ∧ o.v0 = true ∧ (o.ord ≠ .rel ∨ s.relMet s.cur.1 s.cur.2 = true) ∧
      kind = .signal (((s.G o.b).toNat + o.sem.toNat) % 256) o.imm.toNat ∧
      (s.G o.a).toNat = r ∧ r < 256 ∧ r < s.teamSize s.cur.1 ∧ r ≠ s.myCore.rank) ∨
    (i = .msend o ∧ s.cur.2 ≠ 15 ∧ (s.cur.2 ≤ 10 ∨ o.v0 = true) ∧
      kind = .software o.v0 (o.sem.toNat % 4) o.imm.toNat (s.G o.d) (s.G o.b) ∧
      (s.G o.a).toNat = r ∧ r < 256 ∧ r < s.teamSize s.cur.1) ∨
    (i = .rdec o ∧ (s.G o.b).toNat % 32 = 0 ∧ (s.G o.b).toNat < 2 ^ 20 ∧
      kind = .decrement (s.G o.b).toNat ∧
      (s.G o.a).toNat = r ∧ r < 256 ∧ r < s.teamSize s.cur.1 ∧ r ≠ s.myCore.rank) ∨
    (i = .bara o ∧ s.cur.2 ≤ 10 ∧ (o.ord ≠ .rel ∨ s.relMet s.cur.1 s.cur.2 = true) ∧
      (s.myCore.barq + 65536 - s.myCore.ph) % 65536 ≠ 2 ∧ kind = .arrival s.myCore.barq ∧ r = 0) →
  (s.conf.outDepth ≤ (s.posted s.cur.1).length → o.nra = .set → Unready i s 4 9) ∧
  ((s.posted s.cur.1).length < s.conf.outDepth → ∃ t m, exec i s = .next t ∧
    Writes s t s.me (.ok false) 0 0 ∧ t.msgs = s.msgs ++ [m] ∧ m.kind = kind ∧ m.rank = r ∧
    m.pid = s.cur.1 ∧ m.ctx = s.cur.2 ∧ m.gen = s.me.gen.toNat ∧ m.srank = s.myCore.rank ∧
    t.mem = s.mem ∧ (∀ p k, (p, k) ≠ s.cur → t.ctx p k = s.ctx p k) ∧
    { t.myCore with ctxs := [] } = { s.myCore with
      ctxs := [], msent := t.myCore.msent
      barq := if i = .bara o then (s.myCore.barq + 1) % 65536 else s.myCore.barq })) ∧
  (∀ (o : EOp) (s : State), s.guard o.grd = true →
  256 ≤ (s.G o.a).toNat ∨ s.teamSize s.cur.1 ≤ (s.G o.a).toNat →
  (s.cur.2 ≤ 10 → Traps (.msend o) s 0x10
    (msgInfo 1 (if o.v0 then 8 else 7) s.me.gen.toNat o.imm.toNat s.cur.2 (s.G o.a).toNat 0)) ∧
  (o.v0 = true → Traps (.ssig o) s 0x10
    (msgInfo 1 4 s.me.gen.toNat 0 s.cur.2 (s.G o.a).toNat (((s.G o.b).toNat + o.sem.toNat) % 256))))

/-- R291, R294, R295: MRD gives the header and the two words of the current message, or EMPTY (4);
MRET ends the handling, and the context then holds no instruction pointer. R491: contexts 0 to 10 raise 05h.
Clauses that follow the model's own choices rest on log entry 51. -/
def Obligations.HandlersReadMessages : Prop := ∀ (o : EOp) (q : ROp) (s : State),
  (s.guard o.grd = true →
    (s.me.msg = none → o.nra = .set → Unready (.mrd o) s 2 4) ∧
    (∀ m rep cls tag w1 w2, s.me.msg = some m → m.kind = .software rep cls tag w1 w2 →
      (o.imm = 1 → ∃ t, exec (.mrd o) s = .next t ∧ Writes s t s.me (.ok false) o.d w1 ∧ Alone s t) ∧
      (o.imm = 2 → ∃ t, exec (.mrd o) s = .next t ∧ Writes s t s.me (.ok false) o.d w2 ∧ Alone s t) ∧
      (o.imm = 0 → tag < 65536 → m.srank < 65536 → m.ctx < 16 → cls < 4 → ∃ t v,
        exec (.mrd o) s = .next t ∧ Writes s t s.me (.ok false) o.d v ∧ Alone s t ∧
        fld v.toNat 48 16 = tag ∧ fld v.toNat 32 16 = m.srank ∧ fld v.toNat 28 4 = m.ctx ∧
        (rep = false → fld v.toNat 26 2 = cls) ∧ (fld v.toNat 25 1 = 1 ↔ rep = true)))) ∧
  (s.guard q.grd = true →
    (s.cur.2 < 11 → Traps (.mret q) s 5 (slotBits (.mret q))) ∧
    (11 ≤ s.cur.2 → s.me.replyDue = false → s.me.held = [] → ∃ t, exec (.mret q) s = .next t ∧
      t.me.live = false ∧ t.me.msg = none ∧ t.me.slot = none ∧ t.mem = s.mem ∧
      ∀ j, j ≠ s.cur.2 → (t.ctx s.cur.1 j).still = (s.ctx s.cur.1 j).still))

/-- R298–R300, R53: BARA answers BUSY (14) two phases ahead, BARW passes once every arrival of its core
has been matched, else UNARRIVED (1); DONE ends every context of its core. R491: contexts 11 to 15 raise 05h.
R53: once the core's work is complete and everything it has sent is answered, the core's next cycle decrements the done
counter of its team; at zero the team completes: its cores are free, and its grid counts it. -/
def Obligations.BarrierAndDone : Prop :=
  (∀ (s : State) (pid k t : Nat) (x : Team) (g : Grid),
  isCore pid = true → (s.core pid).gated = false → (s.core pid).stopped = false → (s.core pid).migrate = none →
  (s.core pid).finishing = some k → k < 16 → (s.core pid).sweeps = [] → (s.core pid).mats = [] →
  (s.core pid).sbuf = [] → s.chains = [] → s.msgs = [] → s.homeReqs = [] → s.replies = [] → s.issue = false →
  (∀ j, (s.ctx pid j).slot = none) → (s.core pid).team = some t → s.teams.find? t = some x →
  (1 < x.done → ∃ u, exec (.issueSelection pid) s = .next u ∧ u.teams.find? t = some { x with done := x.done - 1 } ∧
    u.mem = s.mem ∧ (u.core pid).finishing = some 16 ∧ (u.core pid).team = some t ∧
    (∀ q, q ≠ pid → u.core q = s.core q) ∧ ∀ n, n ≠ t → u.teams.find? n = s.teams.find? n) ∧
  (x.done = 1 → x.swapped = false → s.grids.find? x.grid = some g → ∃ u v, exec (.issueSelection pid) s = .next u ∧
    u.teams.find? t = none ∧ (∀ p ∈ x.map, (u.core p).team = none ∧ (u.core p).stopped = false) ∧
    u.grids.find? x.grid = some v ∧ v.ended = g.ended + 1)) ∧
  ∀ (o : EOp) (q : ROp) (s : State),
  (s.guard o.grd = true →
    (10 < s.cur.2 → Traps (.bara o) s 5 (slotBits (.bara o)) ∧ Traps (.barw o) s 5 (slotBits (.barw o))) ∧
    (s.cur.2 ≤ 10 →
      ((s.myCore.barq + 65536 - s.myCore.ph) % 65536 = 2 → o.ord = .none → o.nra = .set →
        Unready (.bara o) s 4 14) ∧
      (s.myCore.barq % 65536 = s.myCore.ph % 65536 → (Instr.barw o).WellFormed →
        ∃ t, exec (.barw o) s = .next t ∧ Writes s t s.me (.ok false) 0 0 ∧ Alone (s.after o.ord) t) ∧
      (s.myCore.barq % 65536 ≠ s.myCore.ph % 65536 → o.nra = .set → Unready (.barw o) s 6 1))) ∧
  (s.guard q.grd = true →
    (10 < s.cur.2 → Traps (.doneI q) s 5 (slotBits (.doneI q))) ∧
    (s.cur.2 ≤ 10 → (∀ e ∈ s.myCore.ctxs, e.2.held = []) → (∀ e ∈ s.myCore.posts, e.trap = none) →
      ∃ t, exec (.doneI q) s = .next t ∧
      t.myCore.finishing = some s.cur.2 ∧ (∀ k, (t.ctx s.cur.1 k).live = false) ∧
      (∀ l ∈ t.myCore.locks, l.2.kind ≠ 3) ∧ t.mem = s.mem))

/-- R36, R283, R301: START gives each helper of the record's codelet its entry, its argument, its
record and its place, and returns the handle. R491, R498: contexts other than 0 raise 05h, a record that is not aligned
07h.
Clauses that follow the model's own choices rest on log entries 4, 27, 58 and 89. -/
def Obligations.HelpersStart : Prop := ∀ (o : EOp) (s : State) (rs : List Ranges) (ss : Range),
  s.guard o.grd = true →
  (s.cur.2 ≠ 0 → Traps (.startI o) s 5 (slotBits (.startI o))) ∧
  (s.cur.2 = 0 → (s.G o.a).toNat % 32 ≠ 0 → Traps (.startI o) s 7 (s.G o.a)) ∧
  (s.cur.2 = 0 →
    let off := (s.G o.a).toNat
    let w := fun j => BitVec.ofNat 64 (s.rd (lsAddr s.cur.1 (off + 8 * j)) 8)
    let ty := (w 2).toNat / 2 ^ 20 % 16
    let need := needFor ty (s.typeOf ty).1
    let slots := s.myCore.freeSlots.take need.slots
    off % 32 = 0 → off < 2 ^ 20 → s.lsLocked off 32 = false → (w 2).toNat < 2 ^ 24 →
    unusedType ty (s.typeOf ty) = false →
    (s.myCore.freeSlots.length < need.slots → o.nra = .set → Unready (.startI o) s 4 7) ∧
    (need.slots ≤ s.myCore.freeSlots.length →
      (s.myCore.fit need = none → o.nra = .set → Unready (.startI o) s 4 8) ∧
      (s.myCore.fit need = some (rs, ss) → s.myCore.cnum < 256 → ∃ t v, exec (.startI o) s = .next t ∧
        t.mem = s.mem ∧ t.me.reg o.d = readBack o.d v ∧ fld v.toNat 16 8 = s.myCore.cnum ∧
        (∀ k, 1 ≤ k → k ≤ 10 → (v.getLsbD (k - 1) = true ↔ k ∈ slots)) ∧
        (∀ r : Spec, r ≠ o.d → t.me.reg r = s.me.reg r) ∧
        t.myCore.cnum = (s.myCore.cnum + 1) % 256 ∧
        ∀ j k, slots[j]? = some k → (t.ctx s.cur.1 k).live = true ∧ (t.ctx s.cur.1 k).ip = w 0 ∧
          (t.ctx s.cur.1 k).reg 1 = w 1 ∧ (t.ctx s.cur.1 k).reg 2 = BitVec.ofNat 64 off ∧
          (t.ctx s.cur.1 k).reg 3 = w 3 ∧ (t.ctx s.cur.1 k).reg 4 = BitVec.ofNat 64 j ∧
          (t.ctx s.cur.1 k).mode = false ∧ (t.ctx s.cur.1 k).depth = 0)))

/-- R302, R40, R303, R39, R304, R152: HCHK passes once no helper of the handle is left, and gives up what its
context held; RPOP takes the oldest
record of the ready ring; RDEC counts a record's counter down, and the record whose counter reaches
zero enters the ring.
R42, R305: GIVE puts the record at the end of the die's dispenser, TAKE removes the first record of
its grid and stores its four words; an empty dispenser answers EMPTY (2), a full one BUSY (1). R43: TAKE from a zone
that is withheld answers WITHHELD with the reason. R491: TAKE in contexts 11 to 15 raises 05h.
Clauses that follow the model's own choices rest on log entries 91 and 101. -/
def Obligations.HelperRingAndDispenser : Prop :=
  (∀ (o : EOp) (s : State), s.guard o.grd = true →
  let c := s.myCore
  (let h := (s.G o.a).toNat
   let busy := ∃ k, 1 ≤ k ∧ k ≤ 10 ∧ bitAt h (k - 1) = true ∧ (s.ctx s.cur.1 k).live = true ∧
     (s.ctx s.cur.1 k).cnum.toNat = fld h 16 8
   (¬ busy → ∃ t, exec (.hchk o) s = .next t ∧ Writes s t s.me (.ok false) 0 0 ∧
     Alone (s.setMyCore (c.releaseData s.cur.2)) t ∧
     (∀ g ∈ t.myCore.holds, g.ctx = s.cur.2 → g.fault.isSome = true) ∧
     ∀ g ∈ c.holds, g.ctx ≠ s.cur.2 ∨ g.fault.isSome = true → g ∈ t.myCore.holds) ∧
   (busy → o.nra = .set → Unready (.hchk o) s 6 3)) ∧
  (s.cur.2 = 0 →
    (c.rrhead = c.rrtail → o.nra = .set → Unready (.rpop o) s 2 1) ∧
    (let at_ := lsAddr s.cur.1 (c.rrbase + 4 * (c.rrhead % 256))
     let off := s.rd at_ 4
     let ty := s.rd (lsAddr s.cur.1 (off + 16)) 8 / 2 ^ 20 % 16
     let need := needFor ty (s.typeOf ty).1
     c.rrhead ≠ c.rrtail → s.isPoison at_ = false → need.slots ≤ c.freeSlots.length →
     (c.fit need).isSome = true → ∃ t, exec (.rpop o) s = .next t ∧
       Writes s t s.me (.ok false) o.d (BitVec.ofNat 64 off) ∧
       Alone (s.setMyCore { c with rrhead := (c.rrhead + 1) % 512 }) t)) ∧
  (let b := (s.G o.b).toNat
   let dc := s.rd (lsAddr s.cur.1 (b + 16)) 8 % 2 ^ 20
   let v := BitVec.ofNat 64 (s.rd (lsAddr s.cur.1 dc) 8)
   s.me.wait = none → (s.G o.a).toNat = c.rank → c.rank < 256 → c.rank < s.teamSize s.cur.1 →
   b % 32 = 0 → b < 2 ^ 20 → dc % 8 = 0 → s.lsLocked b 32 = false → s.lsLocked dc 8 = false →
   s.isPoison (lsAddr s.cur.1 dc) = false → c.watches = [] →
   (v ≠ 1 → ∃ t, exec (.rdec o) s = .next t ∧ Writes s t s.me (.ok false) 0 0 ∧ Spared s t ∧
     t.rd (lsAddr s.cur.1 dc) 8 = (v - 1).toNat ∧ SameBytes s t (lsAddr s.cur.1 dc) 8) ∧
   (v = 1 → ringCount c.rrhead c.rrtail 256 ≠ 256 → c.rrbase + 1024 ≤ 2 ^ 20 →
     (∀ k, (s.ctx s.cur.1 k).wait = none) → ∃ t, exec (.rdec o) s = .next t ∧
     t.myCore.rrtail = (c.rrtail + 1) % 512 ∧
     t.rd (lsAddr s.cur.1 (c.rrbase + 4 * (c.rrtail % 256))) 4 = b))) ∧
  (∀ (o : EOp) (s : State), s.guard o.grd = true →
  s.me.wait = none →
  let off := (s.G o.a).toNat
  let d := s.dispenser (dieOf s.cur.1)
  let w := fun (u : State) j => BitVec.ofNat 64 (u.rd (lsAddr s.cur.1 (off + 8 * j)) 8)
  off % 32 = 0 → off < 2 ^ 20 → s.lsLocked off 32 = false → ∀ tm, s.teamOf s.cur.1 = some tm →
  (8192 ≤ d.recs.length → o.nra = .set → Unready (.give o) s 4 1) ∧
  (d.recs.length < 8192 → ∃ t, exec (.give o) s = .next t ∧ Writes s t s.me (.ok false) 0 0 ∧
    (t.dispenser (dieOf s.cur.1)).recs = d.recs ++
      [⟨tm.grid, [w s 0, w s 1, w s 2, w s 3], s.myCore.rank, off, tm.number⟩] ∧ t.mem = s.mem) ∧
  (s.cur.2 ≤ 10 →
    ((∀ r ∈ d.recs, r.grid ≠ tm.grid) → o.nra = .set → Unready (.take o) s 2 2) ∧
    (∀ r rest w0 w1 w2 w3, d.recs = r :: rest → r.grid = tm.grid → r.ws = [w0, w1, w2, w3] →
      s.withheld (zoneOf s.cur.1) = none → d.grant = [] → ∃ t, exec (.take o) s = .next t ∧
        Writes s t s.me (.ok false) 0 0 ∧ (t.dispenser (dieOf s.cur.1)).recs = rest ∧
        w t 0 = w0 ∧ w t 1 = w1 ∧ w t 2 = w2 ∧ w t 3 = w3 ∧
        SameBytes s t (lsAddr s.cur.1 off) 32)) ∧
  (s.cur.2 ≤ 10 → ∀ r rest n, d.recs = r :: rest → r.grid = tm.grid → s.withheld (zoneOf s.cur.1) = some n →
    d.grant = [] → o.nra = .set → Unready (.take o) s 7 n) ∧
  (10 < s.cur.2 → Traps (.take o) s 5 (slotBits (.take o))))

/-! ### Sweeps and matrix work -/

/-- R310–R315, R463, R492, R493, R499, R503: a sweep is checked in the order tags, alignment, bounds, memory
side, where a VST into the weight-store window raises 11h; then the first condition of R313 that holds is its outcome; else it is accepted with OK: its
operands and its locks are recorded, and nothing else changes yet.
Clauses that follow the model's own choices rest on log entries 18, 19, 24, 25 and 38. -/
def Obligations.SweepsAreAccepted : Prop := ∀ (o : VOp) (s : State) (f : SweepForm), f ∈ sweepForms o s →
  s.guard o.grd = true →
  let c := s.myCore
  let p := f.plan
  let all := p.spans ++ (p.mem.map (·.1)).toList
  let regs := (p.regs.filter fun r => isV r.1).filterMap fun r => s.me.pool r.1
  (∀ info, s.badTag p.regs = some info → Traps f.i s 8 info) ∧
  (s.badTag p.regs = none →
    (∀ q, all.find? (fun q => !q.aligned) = some q → Traps f.i s 7 q.x0) ∧
    ((∀ q ∈ all, q.aligned = true) →
      (∀ q, p.spans.find? (fun q => !q.inside) = some q → Traps f.i s 6 q.x0) ∧
      ((∀ q ∈ p.spans, q.inside = true) →
        (∀ m a, p.mem = some m → s.memFault m.1 m.2 = some a →
          (m.2 = rW → (∃ d n, windowOf c.rank a = .weight d n) → Traps f.i s 0x11 a) ∧
          (m.2 ≠ rW ∨ (∀ d n, windowOf c.rank a ≠ .weight d n) → Traps f.i s 6 a)) ∧
        ((∀ m, p.mem = some m → s.memFault m.1 m.2 = none) →
          let stores := ∃ m e, p.mem = some m ∧ e ∈ c.sbuf ∧ e.ctx = s.cur.2 ∧ e.gen = s.me.gen.toNat ∧
            overlap (wordAddr e.va).toNat 8 m.1.lo.toNat m.1.len = true
          let named := ∃ r ∈ regs, ∃ w ∈ c.mats, r ∈ w.vregs
          let locked := ∃ l ∈ p.locks, c.lockedFor s.cur.2 l.1 l.2.1 l.2.2 = true
          (stores → Unready f.i s 4 11) ∧
          (¬ stores → named → Unready f.i s 4 2) ∧
          (¬ stores → ¬ named → locked → Unready f.i s 4 4) ∧
          (¬ stores → ¬ named → ¬ locked →
            (16 - c.locks.length < p.locks.length → Unready f.i s 4 10) ∧
            (p.locks.length ≤ 16 - c.locks.length →
              (4 ≤ c.sweeps.length → Unready f.i s 4 3) ∧
              (c.sweeps.length < 4 → ∃ (t : State) (w : Work), exec f.i s = .next t ∧
                Writes s t s.me (.ok false) 0 0 ∧ t.nextId = s.nextId + 1 ∧
                t.myCore.sweeps = c.sweeps ++ [w] ∧ TakenUp s w f.i ∧ w.d = s.G o.d ∧ w.a = s.G o.a ∧
                w.b = s.G o.b ∧ w.a2 = f.a2 ∧ w.vregs = regs ∧ w.dreg = s.me.pool o.d ∧ w.dtag = p.dtag ∧
                LocksTaken c t.myCore 0 s.cur.2 s.nextId p.locks ∧
                Alone ({ s.setMyCore { c with sweeps := t.myCore.sweeps, locks := t.myCore.locks } with
                  nextId := s.nextId + 1 }) t)))))))

/-- R336–R340, R351, R384, R493, R500, R503: a matrix instruction is checked in the order encoding of its
operands, tags, alignment, bounds; then the first condition of R339 that holds is its outcome, the
last of them the ramp limiter's for an MMA; else it is accepted with OK. MSTAT gives the number of
operations held, and bit 3 while the limiter withholds.
Clauses that follow the model's own choices rest on log entries 25, 44 and 94. -/
def Obligations.MatrixWorkIsAccepted : Prop := ∀ (x : XOp) (s : State), s.guard x.grd = true →
  let c := s.myCore
  (∃ t, exec (.mstat x) s = .next t ∧ Alone s t ∧ Writes s t s.me (.ok false) x.d
    (BitVec.ofNat 64 (c.mats.length + if (s.zone (zoneOf s.cur.1)).held then 8 else 0))) ∧
  ∀ (i : Instr) (p : XPlan), (i, p) ∈ matrixForms x s →
  (p.bad = true → Traps i s 1 (slotBits i)) ∧
  (p.bad = false →
    (∀ info, s.badTile p.tiles = some info → Traps i s 8 info) ∧
    (s.badTile p.tiles = none →
      (∀ a, p.aligns.find? (fun a => a.1.toNat % a.2 != 0) = some a → Traps i s 7 a.1) ∧
      ((∀ a ∈ p.aligns, a.1.toNat % a.2 = 0) →
        (∀ r, p.ranges.find? MRange.outside = some r → Traps i s 6 r.off) ∧
        ((∀ r ∈ p.ranges, r.off.toNat < 2 ^ 20 ∧ r.lo + r.len ≤ 2 ^ 20) →
          let regs := p.tiles.filterMap fun t => s.me.pool t.1
          let locks := p.ranges.filter fun r => r.lock
          let swept := ∃ v ∈ c.sweeps, ∃ r ∈ regs, r ∈ v.tregs
          let locked := ∃ l ∈ locks, ∃ e ∈ c.locks, e.2.kind ≠ 1 ∧ e.2.ls = true ∧
            overlap e.2.base e.2.len l.lo l.len = true ∧ ¬ (e.2.kind = 3 ∧ e.2.ctx = s.cur.2)
          let z := s.zone (zoneOf s.cur.1)
          let u := if i = .mma x then x.kcnt.toNat else 0
          let q := z.r + ((z.refused.filter fun r => r.reserved && r.pid != s.cur.1).map (·.units)).sum
          let withheld := 0 < u ∧ 0 < q ∧ z.act + z.rup.toNat < q + u
          (swept → Unready i s 4 3) ∧
          (¬ swept → locked → Unready i s 4 4) ∧
          (¬ swept → ¬ locked → 16 - c.locks.length < locks.length → Unready i s 4 10) ∧
          (¬ swept → ¬ locked → locks.length ≤ 16 - c.locks.length →
            (4 ≤ c.mats.length → Unready i s 4 2) ∧
            (c.mats.length < 4 →
              (withheld → Unready i s 7 0) ∧
              (¬ withheld → ∃ (t : State) (w : Work), exec i s = .next t ∧
                Writes s t s.me (.ok false) 0 0 ∧ t.nextId = s.nextId + 1 ∧
                t.myCore.mats = c.mats ++ [w] ∧ TakenUp s w i ∧ w.d = s.G x.d ∧ w.a = s.G x.a ∧
                w.b = s.G x.b ∧ w.e = s.G x.e ∧ w.a2 = s.G (x.a + 1) ∧ w.b2 = s.G (x.b + 1) ∧
                w.tregs = regs ∧ w.dreg = p.dreg.bind s.me.pool ∧ w.dtag = p.dtag ∧
                LocksTaken c t.myCore 1 s.cur.2 s.nextId (locks.map fun l => (true, l.lo, l.len)) ∧
                (t.zone (zoneOf s.cur.1)).r = z.r + u ∧
                (∀ y, y ≠ zoneOf s.cur.1 → t.zone y = s.zone y) ∧
                Alone ({ s.setMyCore { c with mats := t.myCore.mats, locks := t.myCore.locks } with
                  nextId := s.nextId + 1, zones := t.zones }) t)))))))

/-- R339, R340, R343–R351: a matrix instruction whose encoding, tags, alignment and bounds pass (R493, R500),
on a core that has no sweep, no lock and fewer than 4 matrix operations, completes with OK: the operation is
accepted, its registers and memory are as before. An MMA so completes when nothing of its zone's window is used or
asked for (R384). MSTAT completes always.
Clauses that follow the model's own choices rest on log entries 25, 44 and 94. -/
def Obligations.MatrixInstructionsComplete : Prop := ∀ (x : XOp) (s : State), s.guard x.grd = true →
  let c := s.myCore
  let z := s.zone (zoneOf s.cur.1)
  let free := c.sweeps = [] ∧ c.locks = [] ∧ c.mats.length < 4
  let ready := fun (i : Instr) => ∃ p : XPlan, (i, p) ∈ matrixForms x s ∧ p.bad = false ∧
    s.badTile p.tiles = none ∧ (∀ a ∈ p.aligns, a.1.toNat % a.2 = 0) ∧
    ∀ r ∈ p.ranges, r.off.toNat < 2 ^ 20 ∧ r.lo + r.len ≤ 2 ^ 20
  let completes := fun (i : Instr) => ∃ (t : State) (w : Work), exec i s = .next t ∧
    Writes s t s.me (.ok false) 0 0 ∧ t.myCore.mats = c.mats ++ [w] ∧ TakenUp s w i ∧ t.mem = s.mem ∧
    t.empties = s.empties ∧ t.poison = s.poison ∧ t.lines = s.lines
  (free → ready (.mld x) → completes (.mld x)) ∧
  (free → ready (.mst x) → completes (.mst x)) ∧
  (free → ready (.mma x) → z.r = 0 → z.refused = [] → completes (.mma x)) ∧
  (free → ready (.mzero x) → completes (.mzero x)) ∧
  (free → ready (.mtrn x) → completes (.mtrn x)) ∧
  (free → ready (.mcvt x) → completes (.mcvt x)) ∧
  (free → ready (.mscl x) → completes (.mscl x)) ∧
  (free → ready (.macc x) → completes (.macc x)) ∧
  ∃ t, exec (.mstat x) s = .next t ∧ Alone s t ∧ Writes s t s.me (.ok false) x.d
    (BitVec.ofNat 64 (c.mats.length + if z.held then 8 else 0))

/-! ### The copy engine's instructions -/

/-- R178, R364–R368, R491, R501: CAPP, CADV and CSEQ need a chain bound to their core; CAPP buffers the
record's eight words and appends it; CADV, once the stores are acknowledged and the locks fit, numbers
the records; CSEQ compares; CLCK enters a lock and CULK removes the context's own; EVPOP takes a record
of the event queue.
Clauses that follow the model's own choices rest on log entry 42. -/
def Obligations.EngineInstructions : Prop := ∀ (o : EOp) (s : State), s.guard o.grd = true →
  let a := s.G o.a
  let h := (s.G o.b).toNat % 2 ^ 13
  let c := s.myCore
  let ch := s.chain h
  let bound := ∃ e ∈ c.chn, e.2 = 2 ^ 13 + h
  let new := ch.recs.filter fun r => !r.advanced
  let ranges := new.flatMap fun r => recLocks c.rank r.ws
  let w := fun (off j : Nat) => BitVec.ofNat 64 (s.rd (lsAddr s.cur.1 (off + 8 * j)) 8)
  (¬ bound → Traps (.capp o) s 5 (slotBits (.capp o)) ∧ Traps (.cadv o) s 5 (slotBits (.cadv o)) ∧
    Traps (.cseq o) s 5 (slotBits (.cseq o))) ∧
  (bound →
    (a.toNat % 64 ≠ 0 → Traps (.capp o) s 7 a) ∧
    (a.toNat % 64 = 0 → 2 ^ 20 ≤ a.toNat → Traps (.capp o) s 6 a) ∧
    (a.toNat % 64 = 0 → a.toNat < 2 ^ 20 →
      (c.allowed ch.pend rW = false → Traps (.capp o) s 6 ch.pend) ∧
      (isDevice ch.pend = true → c.allowed ch.pend rW = true →
        (64 ≤ ch.recs.length → o.nra = .set → Unready (.capp o) s 4 1) ∧
        (ch.recs.length < 64 → s.lsLocked a.toNat 64 = true → o.nra = .set → Unready (.capp o) s 4 4) ∧
        (ch.recs.length < 64 → s.lsLocked a.toNat 64 = false → 56 < c.sbuf.length → o.nra = .set →
          Unready (.capp o) s 4 6) ∧
        (ch.recs.length < 64 → s.lsLocked a.toNat 64 = false → c.sbuf.length ≤ 56 → ∃ t es r,
          exec (.capp o) s = .next t ∧ Writes s t s.me (.ok false) 0 0 ∧ t.mem = s.mem ∧
          t.myCore.sbuf = c.sbuf ++ es ∧ es.length = 8 ∧ (t.chain h).recs = ch.recs ++ [r] ∧
          r.va = ch.pend ∧ r.advanced = false ∧ (t.chain h).pend.toNat = (w a.toNat 0).toNat / 64 * 64 ∧
          (∀ j, j < 8 → r.ws[j]? = some (w a.toNat j) ∧ ∃ e, es[j]? = some e ∧
            e.va = ch.pend + BitVec.ofNat 64 (8 * j) ∧ e.data = w a.toNat j ∧ e.bmask = 255 ∧ e.fe = 0 ∧
            e.state = 1 ∧ e.seq = (c.seq + j) % 2 ^ 32 ∧ e.ctx = s.cur.2) ∧
          (∀ g, g ≠ h → t.chain g = s.chain g) ∧
          Alone ({ s.setMyCore { c with sbuf := t.myCore.sbuf, seq := t.myCore.seq } with
            chains := t.chains }) t))) ∧
    (let due := (∃ e ∈ c.sbuf, ∃ r ∈ new, e.seq ∈ r.seqs) ∨ s.relMet s.cur.1 s.cur.2 = false
     (due → o.nra = .set → Unready (.cadv o) s 4 11) ∧
     (¬ due → 16 - c.locks.length < ranges.length → o.nra = .set → Unready (.cadv o) s 4 10) ∧
     (¬ due → ranges.length ≤ 16 - c.locks.length → ∃ t, exec (.cadv o) s = .next t ∧
       Writes s t s.me (.ok false) 0 0 ∧ (t.chain h).tail = ch.pend ∧ (t.chain h).stopped = false ∧
       (t.chain h).seq = ch.seq + new.length ∧ (t.chain h).recs.length = ch.recs.length ∧
       (∀ r ∈ (t.chain h).recs, r.advanced = true) ∧
       (∀ j : Nat, ((t.chain h).recs[j]?).map (fun (r : CRec) => (r.va, r.ws)) = (ch.recs[j]?).map fun r => (r.va, r.ws)) ∧
       (∀ e ∈ c.locks, e ∈ t.myCore.locks) ∧ t.myCore.locks.length = c.locks.length + ranges.length ∧
       (∀ l ∈ ranges, ∃ e ∈ t.myCore.locks, e.2.kind = 2 ∧ e.2.ctx = s.cur.2 ∧ e.2.ls = l.1 ∧
         e.2.base = l.2.1 ∧ e.2.len = l.2.2) ∧
       (∀ g, g ≠ h → t.chain g = s.chain g) ∧
       Alone ({ s.setMyCore { c with locks := t.myCore.locks } with chains := t.chains, nextId := t.nextId }) t)) ∧
    ((Instr.cseq o).WellFormed →
      (a.toNat ≤ ch.delivered → ∃ t, exec (.cseq o) s = .next t ∧ Writes s t s.me (.ok false) 0 0 ∧
        Alone (s.after o.ord) t) ∧
      (ch.delivered < a.toNat → o.nra = .set → Unready (.cseq o) s 6 2))) ∧
  (let n := 64 * o.imm.toNat
   (a.toNat % 64 ≠ 0 → Traps (.clck o) s 7 a) ∧
   (a.toNat % 64 = 0 → 2 ^ 20 < a.toNat + n → Traps (.clck o) s 6 a) ∧
   (a.toNat % 64 = 0 → a.toNat + n ≤ 2 ^ 20 →
     (s.lsLocked a.toNat n = true → o.nra = .set → Unready (.clck o) s 4 4) ∧
     (s.lsLocked a.toNat n = false → 16 ≤ c.locks.length → o.nra = .set → Unready (.clck o) s 4 10) ∧
     (s.lsLocked a.toNat n = false → c.locks.length < 16 → ∃ t v, exec (.clck o) s = .next t ∧
       Writes s t s.me (.ok false) o.d v ∧ v.toNat < 16 ∧ c.locks.find? v.toNat = none ∧
       t.myCore.locks.find? v.toNat = some ⟨3, s.cur.2, true, a.toNat, n, 0⟩ ∧
       (∀ j, j ≠ v.toNat → t.myCore.locks.find? j = c.locks.find? j) ∧
       Alone (s.setMyCore { c with locks := t.myCore.locks }) t))) ∧
  (s.me.wait = none →
    let own := ∃ l, c.locks.find? a.toNat = some l ∧ l.kind = 3 ∧ l.ctx = s.cur.2
    ∃ t, exec (.culk o) s = .next t ∧ Writes s t s.me .next 0 0 ∧ t.mem = s.mem ∧
      (own → t.myCore.locks.find? a.toNat = none ∧
        ∀ j, j ≠ a.toNat → t.myCore.locks.find? j = c.locks.find? j) ∧
      (¬ own → Alone s t) ∧
      Spared (s.setMyCore { c with locks := t.myCore.locks, allots := t.myCore.allots }) t) ∧
  ((Instr.evpop o).WellFormed →
    (c.evqhead = c.evqtail → o.nra = .set → Unready (.evpop o) s 2 3) ∧
    (c.evqhead ≠ c.evqtail → ∃ t, exec (.evpop o) s = .next t ∧ Ended s t (.ok false) ∧
      t.me.reg o.d = w (c.evqBase * 1024 + 16 * (c.evqhead % 64)) 0 ∧
      t.me.reg (o.d + 1) = w (c.evqBase * 1024 + 16 * (c.evqhead % 64)) 1 ∧
      (∀ r, r ≠ o.d → r ≠ o.d + 1 → t.me.reg r = s.me.reg r) ∧ t.me.rest = s.me.rest ∧
      Alone (s.setMyCore { c with evqhead := (c.evqhead + 1) % 128 }) t))

/-! ### System registers, traps, system instructions -/

/-- R393, R392, R491, R6: CSRR gives the register, and clears core.semsat when it reads it. CSRW, CSRS
and CSRC write the RW bits of the register and of no other. In user mode 05h where the User column
forbids it.
Clauses that follow the model's own choices rest on log entry 41. -/
def Obligations.SystemRegisters : Prop := ∀ (o : IOp) (s : State), s.guard o.grd = true →
  let n := o.imm.toNat
  let p := s.cur.1
  let k := s.cur.2
  let old := s.csr p k n
  let a := s.G o.a
  csrListed n = true →
  (s.me.mode = false → csrUser n = 0 → Traps (.csrr o) s 5 (slotBits (.csrr o))) ∧
  (s.me.mode = true ∨ csrUser n ≠ 0 → ∃ t, exec (.csrr o) s = .next t ∧
    Writes s t s.me .next o.d old ∧
    Alone (if n = 0x121 then s.setMyCore { s.myCore with semsat := 0 } else s) t) ∧
  (s.me.mode = false → csrUser n ≠ 2 → n ≠ 0x104 → Traps (.csrw o) s 5 (slotBits (.csrw o)) ∧
    Traps (.csrs o) s 5 (slotBits (.csrs o)) ∧ Traps (.csrc o) s 5 (slotBits (.csrc o))) ∧
  (s.me.mode = true ∨ csrUser n = 2 ∨ n = 0x104 → ∀ (i : Instr) (v : Word),
    (i, v) ∈ [(.csrw o, a), (.csrs o, old ||| a), (.csrc o, old &&& ~~~a)] →
    ∃ t, exec i s = .next t ∧ (∀ r, t.me.reg r = s.me.reg r) ∧
      (s.pair = none → t.me.ip = nextIp s.me.ip) ∧ t.mem = s.mem ∧
      (rwMask n ≠ 0 → t.csr p k n &&& rwMask n = v &&& rwMask n) ∧
      (n = 0x10 → t.me.ovf = BitVec.ofNat 16 (v.toNat / 256) ∧ t.me.cls = s.me.cls) ∧
      (rwMask n = 0 → n ≠ 0x10 → ¬ (0x410 ≤ n ∧ n ≤ 0x41F) → ¬ (0x450 ≤ n ∧ n ≤ 0x45F) →
        t.csr p k n = old) ∧
      (∀ m, csrListed m = true → m ≠ n → t.csr p k m = s.csr p k m) ∧
      ∀ q j m, (q, j) ≠ s.cur → m < 0x100 → t.csr q j m = s.csr q j m)

/-- R439–R441: a trap in user mode enters the handler; in system mode, without an entry, or without
room for the spill, the team fails with the cause.
R444, R445: the handler of a TRAP that ends in ERET goes on behind the TRAP, in user mode, with every
register as it was. R490, R491, R495: in user mode ERET raises 05h, to no IP 03h, without its window 12h.
Clauses that follow the model's own choices rest on log entries 4, 26 and 45. -/
def Obligations.ExceptionEntryAndReturn : Prop :=
  (∀ (s : State) (p k : Nat) (x : Trap) (tip : Word),
  ((s.core p).tvec ≠ 0 → (s.ctx p k).entryRoom →
    Entered s (s.deliver p k x tip) p k x tip ∧
    ((s.ctx p k).mode = false → Entered s (s.raise p k x tip) p k x (x.tip.getD tip))) ∧
  ((s.core p).tvec = 0 ∨ ¬ (s.ctx p k).entryRoom → s.deliver p k x tip = s.failCore p x.cause x tip false) ∧
  ((s.ctx p k).mode = true → s.raise p k x tip = s.failCore p x.cause x (x.tip.getD tip) false)) ∧
  (∀ (i : IOp) (o : ROp) (s : State), s.pair = none →
  (s.guard i.grd = true → s.guard o.grd = true → s.me.mode = false → s.myCore.tvec ≠ 0 → s.me.entryRoom →
    ∃ t u, exec (.trap i) s = .next t ∧
      Entered s t s.cur.1 s.cur.2 { cause := 0x17, info := BitVec.ofNat 64 (i.imm.toNat % 2 ^ 16) }
        (nextIp s.me.ip) ∧
      (ipOk (nextIp s.me.ip) = true → exec (.eret o) t = .next u ∧ u.me.ip = nextIp s.me.ip ∧
        u.me.mode = false ∧ u.me.depth = s.me.depth ∧ (∀ r, u.me.reg r = s.me.reg r) ∧ u.mem = s.mem)) ∧
  (s.guard o.grd = true →
    (s.me.mode = false → Traps (.eret o) s 5 (slotBits (.eret o))) ∧
    (s.me.mode = true → s.me.depth = s.me.tdepth →
      (ipOk s.me.tip = true → ∃ t, exec (.eret o) s = .next t ∧ Alone s t ∧ t.me.ip = s.me.tip ∧
        t.me.mode = false ∧ t.me.wbase = s.me.wbase - 1 ∧ t.me.depth = s.me.depth - 1 ∧
        t.me.win = s.me.win ∧ t.me.g = s.me.g ∧ t.me.p = s.me.p) ∧
      (ipOk s.me.tip = false → Traps (.eret o) s 3 s.me.tip)) ∧
    (s.me.mode = true → s.me.depth ≠ s.me.tdepth → ∃ info, exec (.eret o) s =
      .next (({ s with free := s.free + 1 }).raise s.cur.1 s.cur.2 { cause := 0x12, info := info } s.me.ip))))

/-- R280–R282, R427, R432, R433, R449, R491: INVL drops the translations of its pages and every copy of
a page that is not resident; WBK leaves their lines valid and clean; PERM clears rights of an entry of
its own domain; MARK and BKPT write a trace record; BKPT and DSTP bring the debug trap.
Clauses that follow the model's own choices rest on log entries 39 and 40. -/
def Obligations.SystemInstructions : Prop := ∀ (o : ROp) (i : IOp) (s : State), s.pair = none →
  let p := s.cur.1
  let k := s.cur.2
  let c := s.myCore
  let a := s.G o.a
  let n := (s.G o.b).toNat % 2 ^ 40
  (s.guard o.grd = true →
    (s.me.mode = false → Traps (.invl o) s 5 (slotBits (.invl o)) ∧ Traps (.wbk o) s 5 (slotBits (.wbk o)) ∧
      Traps (.perm o) s 5 (slotBits (.perm o))) ∧
    (s.me.mode = true → isDevice a = false → Traps (.invl o) s 6 a ∧ Traps (.wbk o) s 6 a) ∧
    (s.me.mode = true → isDevice a = true →
      (∃ t, exec (.invl o) s = .next t ∧ (∀ r, t.me.reg r = s.me.reg r) ∧ t.me.ip = nextIp s.me.ip ∧
        OthersStill s t p k ∧ (∀ e, e ∈ t.xlates ↔ e ∈ s.xlates ∧ inPages a n e.1 = false) ∧
        let gone := fun key => !keyHost key && inPages a n (devPage key) && !s.resident (devPage key)
        (∀ e ∈ s.lines, gone e.1 = false → e ∈ t.lines) ∧ (∀ e ∈ t.lines, e ∈ s.lines ∧ gone e.1 = false) ∧
        (∀ q, ∀ e ∈ (t.core q).dcache, gone (e.1 / 8) = false) ∧
        (∀ q, ∀ g ∈ (t.core q).holds, g.fault = none → gone g.line = false)) ∧
      (∃ t, exec (.wbk o) s = .next t ∧ Writes s t s.me .next 0 0 ∧ OthersStill s t p k ∧
        (∀ e ∈ t.lines, e ∈ s.lines ∨ ∃ l, (e.1, l) ∈ s.lines ∧ e.2 = { l with dirty := false }) ∧
        (∀ key, keyHost key = false → inPages a n (devPage key) = true →
          (t.lines.find? key).isSome = (s.lines.find? key).isSome ∧
          ∀ l, t.lines.find? key = some l → l.dirty = false) ∧
        t.xlates = s.xlates ∧ t.owners = s.owners)) ∧
    (s.me.mode = true → ∃ t, exec (.perm o) s = .next t ∧ Writes s t s.me .next 0 0 ∧
      Alone (s.setMyCore { c with perms := t.myCore.perms }) t ∧
      (∀ j, j ≠ a.toNat % 32 → t.myCore.perms.find? j = c.perms.find? j) ∧
      ∀ e, c.perms.find? (a.toNat % 32) = some e →
        (¬ (e.w1.getLsbD 0 = true ∧ e.w0.toNat / 32 % 2 ^ 16 = c.dom) →
          t.myCore.perms.find? (a.toNat % 32) = some e) ∧
        (e.w1.getLsbD 0 = true ∧ e.w0.toNat / 32 % 2 ^ 16 = c.dom → ∃ w0,
          t.myCore.perms.find? (a.toNat % 32) = some { e with w0 := w0 } ∧ ∀ j, j < 64 →
            w0.getLsbD j = (e.w0.getLsbD j && !(decide (j < 5) && (s.G o.b).getLsbD j)))) ∧
    (∃ t, exec (.dstp o) s = .next t ∧ (∀ r, t.me.reg r = s.me.reg r) ∧ t.me.ip = nextIp s.me.ip ∧
      t = { s with cores := t.cores } ∧ ∀ j, j < 16 → (t.ctx p j).stop =
        if (s.ctx p j).live ∧ (s.ctx p j).stop = none ∧
          (if a.toNat % 2 ^ 16 = 0 then j = k else a.getLsbD j = true) then some 1 else (s.ctx p j).stop)) ∧
  (s.guard i.grd = true →
    (∃ t, exec (.markI i) s = .next t ∧ Writes s t s.me .next 0 0 ∧
      Alone (s.setMyCore { c with trace := t.myCore.trace, made := t.myCore.made, loss := t.myCore.loss
                                  waitRec := t.myCore.waitRec, lastRec := c.cyc }) t ∧
      (k < 16 → c.trace.length < 127 → c.loss = 0 → c.waitRec = none → ∃ w, t.myCore.trace = c.trace ++ [w] ∧ fld w.toNat 56 8 = 1 ∧
        fld w.toNat 6 18 = i.imm.toNat % 2 ^ 18)) ∧
    (s.me.mode = false → s.me.live = true → c.finishing = none → k < 16 → c.trace.length < 127 → c.loss = 0 →
      c.waitRec = none →
      ∃ t x w, exec (.bkpt i) s = .next t ∧ t.me.held = s.me.held ++ [x] ∧ x.cause = 0x16 ∧
        x.tip = some (nextIp s.me.ip) ∧ x.info.toNat = i.imm.toNat % 2 ^ 16 ∧
        t.me.ip = nextIp s.me.ip ∧ (∀ r, t.me.reg r = s.me.reg r) ∧
        t.myCore.trace = c.trace ++ [w] ∧ fld w.toNat 56 8 = 3) ∧
    (s.me.mode = true → exec (.bkpt i) s = .next ((s.stopRecord p k).failCore p 0x16
      { cause := 0x16, tip := some (nextIp s.me.ip), info := BitVec.ofNat 64 (i.imm.toNat % 2 ^ 16) }
      (nextIp s.me.ip) false)))

/-! ### Events of a core: selector, fetch unit, line requests, ends of waits -/

/-- R11, R28, R32, R33, R394, R439, R442, R470: a selector cycle of a core. A gated core has none, nor has a number that
names no core; a stopped one issues
nothing. The cycle counter goes up at the end of the cycle: here where nothing issues. The first context in the rotation is chosen, unless context 0 is ready and has not issued for
16 cycles. A spill writes the oldest half to ctx.wsp and a fill brings one back; the registers read the
same. The held trap of the lowest cause is delivered before the next group of a context in user mode.
Clauses that follow the model's own choices rest on log entry 45. -/
def Obligations.SelectorEvents : Prop := ∀ (p k : Nat) (s : State), k < 16 →
  let c := s.core p
  let c1 := { c with cyc := c.cyc + 1 }
  let x := s.ctx p k
  let word := fun (u : State) (off j : Nat) => BitVec.ofNat 64 (u.rd (lsAddr p (off + 8 * j)) 8)
  (c.gated = true ∨ isCore p = false → exec (.issueSelection p) s = .next s) ∧
  (isCore p = true → c.gated = false → c.stopped = true → s.issue = false → (∀ j, (c.ctx j).live = true →
    (c.ctx j).spillDue = false ∧ (c.ctx j).fillDue = false) → exec (.issueSelection p) s = .next (s.setCore p c1)) ∧
  (isCore p = true → c.gated = false → c.stopped = false → c.finishing = none → c.migrate = none →
    (s.issue = false → (∀ j, c.inTurn j = false) → (∀ j, (c.ctx j).live = true → (c.ctx j).spillDue = false ∧
      (c.ctx j).fillDue = false) → exec (.issueSelection p) s = .next (s.setCore p c1)) ∧
    (c.ready k = true → x.held = [] → x.entryCheck = false →
      (k = 0 → c.inTurn (c.rot + 1) = true → 0 < c.rot → c.rot < 15 → c.last0 + 16 < c.cyc →
        ∃ t, exec (.issueSelection p) s = .next t ∧ t.issue = true ∧ t.cur = (p, 0) ∧ t.mem = s.mem ∧
          (t.core p).rot = c.rot ∧ (t.core p).last0 = c.cyc ∧ (t.core p).floor = some c.cyc) ∧
      (∀ i, i < 16 → k = (c.rot + 1 + i) % 16 → (∀ j, j < i → c.inTurn ((c.rot + 1 + j) % 16) = false) →
        c.floor = none → (k = 0 ∨ c.cyc ≤ c.last0 + 16) →
        ∃ t, exec (.issueSelection p) s = .next t ∧ t.issue = true ∧ t.cur = (p, k) ∧ t.mem = s.mem ∧
          (t.core p).rot = k ∧ (t.core p).cyc = c.cyc ∧ (∀ r, (t.ctx p k).reg r = x.reg r) ∧
          (t.ctx p k).ip = x.ip))) ∧
  (x.live = true → x.spillDue = true → x.wsp % 8 = 0 → x.wsp + 64 ≤ 2 ^ 20 →
    ∃ t, exec (.windowSpill p k) s = .next t ∧ (t.ctx p k).wlow = x.wlow + 1 ∧
      (t.ctx p k).wsp = x.wsp + 64 ∧ (∀ r, (t.ctx p k).reg r = x.reg r) ∧
      (∀ j, j < 8 → word t x.wsp j = x.win.get (8 * x.wlow + j) 0) ∧
      SameBytes s t (lsAddr p x.wsp) 64) ∧
  (x.live = true → x.fillDue = true → ∃ t, exec (.windowFill p k) s = .next t ∧
    (t.ctx p k).wlow = x.wlow - 1 ∧ (t.ctx p k).wsp = x.wsp - 64 ∧ t.mem = s.mem ∧
    (∀ j, j < 8 → (t.ctx p k).win.get (8 * (x.wlow - 1) + j) 0 = word s (x.wsp - 64) j) ∧
    ∀ h j, h ≠ x.wlow - 1 → j < 8 → (t.ctx p k).win.get (8 * h + j) 0 = x.win.get (8 * h + j) 0) ∧
  (x.spillDue = false → exec (.windowSpill p k) s = .next s) ∧
  (x.fillDue = false → exec (.windowFill p k) s = .next s) ∧
  (x.mode = true ∨ x.held = [] → exec (.trapDelivery p k) s = .next s) ∧
  (∀ d ∈ x.held, (∀ e ∈ x.held, e ≠ d → d.cause < e.cause) → d.cause ≠ 0x0C → d.cause ≠ 0x0D →
    x.live = true → x.mode = false → c.stopped = false → c.tvec ≠ 0 → x.entryRoom →
    let u := s.unpark p k
    ∃ t, exec (.trapDelivery p k) s = .next t ∧
      Entered (u.setCtx p k { u.ctx p k with held := x.held.erase d }) t p k d (d.tip.getD x.ip))

/-- R74, R75, R101, R163, R191, R263, R465, R468, R487: a fetched line enters the instruction cache with
its five slots, or fails for its context. A line request is answered by its home; its words enter the
cache, unless an ACQ came after it, and are held for the loads that wait. A held line goes past its 512
cycles.
Clauses that follow the model's own choices rest on log entries 15, 46, 47 and 50. -/
def Obligations.LineEvents : Prop := ∀ (p k line : Nat) (s : State), k < 16 →
  let c := s.core p
  let x := s.ctx p k
  let va := keyVa line
  (∀ a b, x.wait = some ⟨.fetch line, a, b⟩ →
    ((isHost va = false ∧ isDevice va = false) ∨ c.allowed va rX = false →
      ∃ t, exec (.lineFetch p k) s = .next t ∧ (t.ctx p k).fetchFail = some (va, 6) ∧
        (t.ctx p k).wait = none ∧ t.mem = s.mem) ∧
    (∀ pa l, (isHost va = true ∨ isDevice va = true) → c.allowed va rX = true →
      s.xlate c.dom va rX = (s, .ok pa) → s.lines.find? (lineKey c.dom va) = some l →
      let il := ILine.ofWords l.ws l.poison
      ∃ t, exec (.lineFetch p k) s = .next t ∧ t.mem = s.mem ∧ (t.ctx p k).wait = none ∧
        (il.sound = true → (t.core p).icache.find? line = some il) ∧
        (il.sound = false → (t.ctx p k).fetchFail = some (va, 2)))) ∧
  (∀ r, c.lineReqs = [r] → r.line = line →
    (r.fill = none →
      (∀ pa l, s.xlate r.dom r.va rR = (s, .ok pa) → s.lines.find? (lineKey r.dom r.va) = some l →
        ∃ t o, exec (.lineRequest p line) s = .next t ∧ t.mem = s.mem ∧
          (t.core p).lineReqs = [{ r with fill := some (.data l.ws 255 l.poison o) }] ∧
          ∀ i, i < 8 → (bitAt o i = true ↔ s.owners.find? (line * 8 + i) = some p)) ∧
      (∀ u, s.xlate r.dom r.va rR = (u, .absent) → u.cores = s.cores →
        ∃ t, exec (.lineRequest p line) s = .next t ∧
          (t.core p).lineReqs = [{ r with fill := some .absent }]) ∧
      (∀ u cause, s.xlate r.dom r.va rR = (u, .fail cause) → u.cores = s.cores →
        ∃ t, exec (.lineRequest p line) s = .next t ∧
          (t.core p).lineReqs = [{ r with fill := some (.fault cause) }])) ∧
    (r.waiters = [(k, .ld)] → ∀ a b, x.wait = some ⟨.line line, a, b⟩ → ∀ f, r.fill = some f →
      ∃ t, exec (.lineArrival p line) s = .next t ∧ (t.core p).lineReqs = [] ∧ (t.ctx p k).wait = none ∧
        (t.ctx p k).ip = x.ip ∧ t.mem = s.mem ∧
        (∀ ws v q o, f = .data ws v q o →
          (r.stale = false → ∀ i, i < 8 → bitAt v i = true → c.dcache.find? (line * 8 + i) = none →
            (t.core p).dcache.find? (line * 8 + i) = some ⟨(ws[i]?).getD 0, bitAt o i, bitAt q i⟩) ∧
          (r.stale = true → (t.core p).dcache = c.dcache) ∧
          ∃ g ∈ (t.core p).holds, g.ctx = k ∧ g.line = line ∧ g.data = ws ∧ g.valid = v ∧ g.fault = none) ∧
        (∀ cause, f = .fault cause → ∃ g ∈ (t.core p).holds, g.ctx = k ∧ g.line = line ∧ g.fault = some cause) ∧
        (f = .absent → s.pagePending (pageKey r.dom r.va) = true →
          ∃ e ∈ (t.core p).absents, e.ctx = k ∧ e.line = line ∧ e.page = pageKey r.dom r.va))) ∧
  (∀ g, c.holds = [g] → g.ctx = k → g.line = line → g.fault = none →
    (c.cyc < g.cyc + 512 → exec (.holdWindowEnd p k line) s = .next s) ∧
    (g.cyc + 512 ≤ c.cyc → ∃ t, exec (.holdWindowEnd p k line) s = .next t ∧ (t.core p).holds = [] ∧
      (∀ e ∈ (t.core p).dcache, e.1 / 8 = line → e.2.owned = true) ∧
      (∀ e ∈ c.dcache, e.1 / 8 ≠ line ∨ e.2.owned = true → e ∈ (t.core p).dcache) ∧ t.mem = s.mem))

/-- R65, R79, R95, R177, R253, R273, R448, R478: a wait that has lasted its time ends, and no other. The
instruction then executes again; PARK goes on behind itself, but at a home whose park heap is empty. R479: a watch that stands in no directory and in no local store is one of the
heap. The watchdog raises 15h with the outcome in
ctx.tinfo.
Clauses that follow the model's own choices rest on log entries 31 and 48. -/
def Obligations.WaitsEnd : Prop := ∀ (p k : Nat) (s : State) (a b : Nat), k < 16 →
  let c := s.core p
  let x := s.ctx p k
  let ends := fun (i : Instr) (ip : Word) => ∃ t, exec i s = .next t ∧ (t.ctx p k).wait = none ∧
    (t.ctx p k).ip = ip ∧ (∀ r, (t.ctx p k).reg r = x.reg r) ∧
    ∀ q j, (q, j) ≠ (p, k) → t.ctx q j = s.ctx q j
  let waits := fun (w : WaitOn) => x.wait = some ⟨w, a, b⟩
  (waits .monitor → (a + 65536 ≤ c.cyc → ends (.monitorTimeout p k) x.ip) ∧
    (c.cyc < a + 65536 → exec (.monitorTimeout p k) s = .next s)) ∧
  (∀ line T, waits (.parkWatch line T) →
    (T ≠ 0 → a + T ≤ c.cyc → ends (.parkTimeout p k) (nextIp x.ip)) ∧
    (T = 0 ∨ c.cyc < a + T → exec (.parkTimeout p k) s = .next s)) ∧
  (waits .timed → (b + 16 * 840000 ≤ s.ticks → ends (.timedReexecute p k) x.ip) ∧
    (s.ticks < b + 16 * 840000 → exec (.timedReexecute p k) s = .next s)) ∧
  (∀ line, waits (.parkTimed line) → b + 16 * 840000 ≤ s.ticks → ends (.timedReexecute p k) (nextIp x.ip)) ∧
  (waits .parkAgain → b + 16 * 840000 ≤ s.ticks → ends (.timedReexecute p k) x.ip) ∧
  (waits .word → (∀ e ∈ s.watches, ∀ w ∈ e.2, ¬ (w.pid = p ∧ w.ctx = k)) →
    (∀ e ∈ s.cores, ∀ w ∈ e.2.watches, ¬ (w.pid = p ∧ w.ctx = k)) →
    (a + 2 ^ 24 ≤ c.cyc → ends (.parkHeapTimeout p k) x.ip) ∧
    (c.cyc < a + 2 ^ 24 → exec (.parkHeapTimeout p k) s = .next s)) ∧
  (waits (.busy 0) → (a + 2 ^ 20 ≤ c.cyc → ends (.busyWakeTimeout p k) x.ip) ∧
    (c.cyc < a + 2 ^ 20 → exec (.busyWakeTimeout p k) s = .next s)) ∧
  (∀ w, waits w → w.parked = true →
    (a + 2 ^ 36 ≤ c.cyc → c.stopped = false → exec (.watchdog p k) s = .next
      ((s.cancelWait p k).raise p k { cause := 0x15, info := BitVec.ofNat 64 x.oc.toNat }
        (if w.byOutcome then x.nrip else x.ip))) ∧
    (c.cyc < a + 2 ^ 36 → exec (.watchdog p k) s = .next s)) ∧
  ∀ die bank, ∃ t, exec (.refreshWindowEnd die bank) s = .next t ∧ t.mem = s.mem ∧ ∀ q j, j < 16 →
    (t.ctx q j).reg = (s.ctx q j).reg ∧
    (bank < 32 → dieOf q = die → (∃ m n, (s.ctx q j).wait = some ⟨.busy 5, m, n⟩) → (t.ctx q j).wait = none) ∧
    (¬ (bank < 32 ∧ dieOf q = die ∧ ∃ m n, (s.ctx q j).wait = some ⟨.busy 5, m, n⟩) → t.ctx q j = s.ctx q j)

/-! ### Homes, replies and messages -/

/-- R67, R69, R93, R109, R110, R155, R162, R271, R274, R469: a home performs the oldest buffered
store of a word: the bytes or the full/empty bit change, the core owns the word, and the entry is freed.
A request is performed as one step of the word and answered; a PARK action leaves a watch. R275: RSTA adds into the
8-byte word for .i64 and .f64, into the 4-byte element for .f32, and leaves the full/empty bit. An entry whose
address no longer translates faults. A reply reaches the slot of its request; R455: one that matches no slot is dropped
and counted. R253, R478: the answer to the check of a PARK parks its context, or lets it go on; one that its context no
longer waits for does nothing.
Clauses that follow the model's own choices rest on log entries 16, 31, 49, 103 and 111. -/
def Obligations.HomeEvents : Prop := ∀ (p : Nat) (s : State),
  let c := s.core p
  (∀ (seq : Nat) (e : SEntry) (pa : Nat) (l : Line), c.sbuf.find? (fun e => e.seq == seq) = some e → e.state = 1 →
    s.storeBehind p e = false → isFabric e.va = false → e.nib = none → e.fe ≤ 2 →
    let need := if e.fe = 0 then rW else rF
    let key := lineKey e.dom e.va
    let j := e.va.toNat / 8 % 8
    let w := (l.ws[j]?).getD 0
    s.xlate e.dom e.va need = (s, .ok pa) → s.lines.find? key = some l → l.ws.length = 8 → Settled s e.va →
    ∃ t l', exec (.homeStorePerform p seq) s = .next t ∧ t.lines.find? key = some l' ∧
      l'.ws[j]? = some (if e.fe = 1 then e.data else if e.fe = 2 then w else mergeMask w e.data e.bmask) ∧
      (∀ n, n ≠ j → l'.ws[n]? = l.ws[n]?) ∧
      bitAt l'.fe j = (if e.fe = 1 then false else if e.fe = 2 then true else bitAt l.fe j) ∧
      (∀ n, n < 8 → n ≠ j → bitAt l'.fe n = bitAt l.fe n) ∧
      (∀ f ∈ (t.core p).sbuf, f.seq ≠ seq) ∧ t.owners.find? (wordKey e.dom e.va) = some p ∧
      ∃ x, (t.core p).dcache.find? (wordKey e.dom e.va) = some x ∧ x.owned = true ∧ l'.ws[j]? = some x.v) ∧
  (∀ (seq : Nat) (e : SEntry), c.sbuf.find? (fun e => e.seq == seq) = some e → e.state ≠ 3 →
    isFabric e.va = false →
    let need := if e.fe = 0 then rW else rF
    (∀ u pa, s.xlate e.dom e.va need = (u, .ok pa) → exec (.storeEntryFault p seq) s = .next s) ∧
    (∀ u cause, s.xlate e.dom e.va need = (u, .fail cause) → u.cores = s.cores → c.evqEn = false →
      (c.ctx e.ctx).live = true → (c.ctx e.ctx).gen.toNat = e.gen → c.finishing = none →
      ∃ t, exec (.storeEntryFault p seq) s = .next t ∧
        (t.core p).sbuf = c.sbuf.map (fun f => if f.seq = e.seq then
          { f with state := 3, cause := if cause = 0x0D then 0x0D else 0x0C } else f) ∧
        (t.ctx p e.ctx).held = (s.ctx p e.ctx).held ++ [{ cause := if cause = 0x0D then 0x0D else 0x0C
                                                          info := e.va, src := e.ip
                                                          srcx := BitVec.ofNat 64 (e.seq * 2 ^ 32) + e.cls }])) ∧
  (∀ (q : HomeReq) (i : Instr) (pa : Nat) (l : Line),
    (i = .homeFullEmptyStep q.id ∧ isAtomic q.op = false ∧ isRsta q.op = false) ∨
      (i = .homeAtomicStep q.id ∧ isAtomic q.op = true) ∨ (i = .nearCacheAdd q.id ∧ isRsta q.op = true) →
    s.homeReqs.find? (fun r => r.id == q.id) = some q → q.chain = none → s.requestBehind q = false →
    isFabric q.va = false → s.xlate q.dom q.va (opNeed q.op) = (s, .ok pa) →
    s.lines.find? (lineKey q.dom q.va) = some l → l.ws.length = 8 → Settled s q.va →
    let j := q.va.toNat / 8 % 8
    let w := (l.ws[j]?).getD 0
    let r := opEval q.op (q.va.toNat % 8) w (bitAt l.fe j) (bitAt l.poison j)
    let stands := s.sender q.pid q.ctx q.gen && (!isPark q.op || s.asks q.pid q.ctx q.gen q.id)
    ∃ t l' m, exec i s = .next t ∧ t.lines.find? (lineKey q.dom q.va) = some l' ∧
      l'.ws[j]? = some r.w ∧ bitAt l'.fe j = r.full ∧ (∀ n, n ≠ j → l'.ws[n]? = l.ws[n]?) ∧
      t.homeReqs = s.homeReqs.erase q ∧ t.replies = s.replies ++ [m] ∧ m.id = q.id ∧ m.pid = q.pid ∧
      m.ctx = q.ctx ∧ m.gen = q.gen ∧ m.addr = q.va ∧
      (m.ans = match r.res with
        | .ok v => .ok v
        | .poisoned => .trap 0x0E (BitVec.ofNat 64 (q.va.toNat / 8 * 8))
        | .unready => .unready (q.park && stands)) ∧
      (bitAt l.poison j = false →
        (∀ u, q.op = .rsta .i64 u → l'.ws[j]? = some (w + u) ∧ bitAt l'.fe j = bitAt l.fe j) ∧
        (∀ u, q.op = .rsta .f64 u → l'.ws[j]? = some (BitVec.ofNat 64 ((fmtD .f64).round .rne false
          (Val.add .rne ((fmtD .f64).val w.toNat) ((fmtD .f64).val u.toNat)))) ∧ bitAt l'.fe j = bitAt l.fe j) ∧
        (∀ u n, q.op = .rsta .f32 u → (n = 0 ∨ n = 1) → q.va.toNat % 8 = 4 * n → ∃ x, l'.ws[j]? = some x ∧
          fld x.toNat (32 * n) 32 = (fmtD .f32).round .rne false
            (Val.add .rne ((fmtD .f32).val (fld w.toNat (32 * n) 32)) ((fmtD .f32).val (u.toNat % 2 ^ 32))) ∧
          fld x.toNat (32 - 32 * n) 32 = fld w.toNat (32 - 32 * n) 32 ∧ bitAt l'.fe j = bitAt l.fe j)) ∧
      (r.res = .unready → q.park = true → stands = true → ∃ w, t.watches.get (wordKey q.dom q.va / 8) [] = [w] ∧
        w.word = wordKey q.dom q.va ∧ w.pid = q.pid ∧ w.ctx = q.ctx ∧ w.gen = q.gen)) ∧
  (∀ (m : ReplyMsg), s.replies.find? (fun r => r.id == m.id) = some m →
    let x := s.ctx m.pid m.ctx
    ∃ t, exec (.replyArrival m.id) s = .next t ∧
    (m.park = false → t.replies = s.replies.erase m ∧
      (∀ sl, x.slot = some sl → sl.id = m.id → sl.gen = m.gen → sl.ans = none →
        (t.ctx m.pid m.ctx).slot = some { sl with ans := some m.ans } ∧
        (∀ a b, x.wait = some ⟨.reply, a, b⟩ → (t.ctx m.pid m.ctx).wait = none) ∧
        (t.core m.pid).dropped = (s.core m.pid).dropped) ∧
      ((∀ sl, x.slot = some sl → ¬ (sl.id = m.id ∧ sl.gen = m.gen ∧ sl.ans = none)) →
        (t.core m.pid).dropped = min ((s.core m.pid).dropped + 1) 65535 ∧
        (t.core m.pid).dropAddr = m.addr ∧ t.ctx m.pid m.ctx = x)) ∧
    (m.park = true → ¬ (x.live = true ∧ x.gen.toNat = m.gen ∧ x.asked = some m.id ∧
      ∃ T a b, x.wait = some ⟨.parkAsk T, a, b⟩) → t = { s with replies := s.replies.erase m }) ∧
    (m.park = true → ∀ T a b, x.wait = some ⟨.parkAsk T, a, b⟩ → x.live = true → x.gen.toNat = m.gen →
      x.asked = some m.id →
      (∀ v, m.ans = .ok v → (t.ctx m.pid m.ctx).wait = none ∧ (t.ctx m.pid m.ctx).ip = nextIp x.ip) ∧
      (m.ans = .unready true → x.rung = none → ∃ d e, (t.ctx m.pid m.ctx).wait =
        some ⟨.parkWatch (lineKey (s.core m.pid).dom m.addr) T, d, e⟩) ∧
      (m.ans = .unready false → ∃ d e, (t.ctx m.pid m.ctx).wait = some ⟨
        (if isHost m.addr || isDevice m.addr then .parkAgain else .parkTimed (lineKey (s.core m.pid).dom m.addr)), d, e⟩)))

/-- R39, R81, R88, R158, R159, R253, R271, R274, R286, R296–R298: the owner performs the oldest message
of a sender to it as one step, and answers; a locked word holds it. R451, R452: a done core returns it with 0Fh. R475: a
poisoned word answers 0Eh. A signal adds,
a decrement counts down (R453, R498: to a record with a misplaced counter 10h with REASON 5 goes back), an arrival counts
for its phase, and the phase of the team reaches its cores.
Clauses that follow the model's own choices rest on log entries 49 and 51. -/
def Obligations.MessageEvents : Prop := ∀ (s : State) (id q : Nat) (m : Msg),
  s.nextMsg id = some m → s.msgCore m = some q →
  let c := s.core q
  (∀ (i : Instr) (op : HomeOp) (off : Nat) (park : Bool),
    ((m.kind = .access op off park ∧
        ((i = .loadMessage id ∧ isLoad op = true) ∨ (i = .storeMessage id ∧ isStore op = true) ∨
          (i = .atomicMessage id ∧ isAtomic op = true) ∨
          (i = .fullEmptyMessage id ∧ isLoad op = false ∧ isStore op = false ∧ isPark op = false ∧
            isAtomic op = false ∧ isRsta op = false))) ∨
      (∃ v, m.kind = .parkCheck off v ∧ op = .park v ∧ park = true ∧ i = .parkMessage id)) →
    let a := lsAddr q off / 8 * 8
    let r := opEval op (off % 8) (BitVec.ofNat 64 (s.rd a 8)) (s.isFull a) (s.isPoison a)
    (c.finishing ≠ none → ∃ t, exec i s = .next t ∧ t.mem = s.mem ∧
      t.msgs = s.msgs.map fun n => if n = m then { n with returned := some (0x0F, 0) } else n) ∧
    let n := match op with
      | .load y _ | .store y _ _ | .atomic _ y _ _ | .rsta y _ => elemBytes y
      | _ => 8
    (c.finishing = none → s.msgLocked q off n = true → exec i s = .next s) ∧
    (c.finishing = none → s.msgLocked q off n = false → c.watches = [] → ∃ t y,
      exec i s = .next t ∧ t.rd a 8 = r.w.toNat ∧ t.isFull a = r.full ∧ t.isPoison a = r.poison ∧
      SameBytes s t a 8 ∧ SameMarks s t a ∧ t.msgs = s.msgs.erase m ∧ t.replies = s.replies ++ [y] ∧
      y.id = m.id ∧ y.pid = m.pid ∧ y.ctx = m.ctx ∧ y.gen = m.gen ∧
      (y.ans = match r.res with
        | .ok v => .ok v
        | .poisoned => .trap 0x0E (BitVec.ofNat 64 ((m.va off).toNat / 8 * 8))
        | .unready => .unready (park && s.sender m.pid m.ctx m.gen &&
            (!isPark op || s.asks m.pid m.ctx m.gen m.id))))) ∧
  (c.finishing ≠ none → (∀ i, (i = .signalMessage id ∧ ∃ n inc, m.kind = .signal n inc) ∨
      (i = .decrementMessage id ∧ ∃ off, m.kind = .decrement off) ∨
      (i = .arrivalMessage id ∧ ∃ ph, m.kind = .arrival ph) →
    ∃ t, exec i s = .next t ∧ t.mem = s.mem ∧
      t.msgs = s.msgs.map fun n => if n = m then { n with returned := some (0x0F, 0) } else n)) ∧
  (∀ i inc, m.kind = .signal i inc → c.finishing = none → c.semWait.get i [] = [] →
    ∃ t, exec (.signalMessage id) s = .next t ∧ t.msgs = s.msgs.erase m ∧ t.mem = s.mem ∧
      (t.core q).sems.get i 0 = (if inc = 0 then c.sems.get i 0 else min (c.sems.get i 0 + inc) 65535) ∧
      (∀ j, j ≠ i → (t.core q).sems.get j 0 = c.sems.get j 0) ∧
      (t.core q).semsat = (if inc ≠ 0 ∧ 65535 < c.sems.get i 0 + inc then min (c.semsat + 1) 65535
        else c.semsat)) ∧
  (∀ off, m.kind = .decrement off → c.finishing = none →
    let dc := s.rd (lsAddr q (off + 16)) 8 % 2 ^ 20
    let v := BitVec.ofNat 64 (s.rd (lsAddr q dc) 8)
    (dc % 8 ≠ 0 → s.msgLocked q off 32 = false → s.msgLocked q dc 8 = false →
      ∃ t, exec (.decrementMessage id) s = .next t ∧ t.mem = s.mem ∧
        t.msgs = s.msgs.map fun n => if n = m then { n with returned := some (0x10, 5) } else n) ∧
    (dc % 8 = 0 → s.msgLocked q off 32 = false → s.msgLocked q dc 8 = false →
      s.isPoison (lsAddr q dc) = false → c.watches = [] → v ≠ 1 →
      ∃ t, exec (.decrementMessage id) s = .next t ∧ t.msgs = s.msgs.erase m ∧
        t.rd (lsAddr q dc) 8 = (v - 1).toNat ∧ SameBytes s t (lsAddr q dc) 8)) ∧
  (∀ phase tm, m.kind = .arrival phase → c.finishing = none → s.teams.find? m.team = some tm →
    ∃ t u, exec (.arrivalMessage id) s = .next t ∧ t.msgs = s.msgs.erase m ∧ t.mem = s.mem ∧
      t.teams.find? m.team = some u ∧
      (let n0 := if phase = tm.ph then tm.arr0 + 1 else tm.arr0
       let n1 := if phase = tm.ph then tm.arr1 else tm.arr1 + 1
       (n0 = tm.size → u = { tm with ph := (tm.ph + 1) % 65536, arr0 := n1, arr1 := 0 }) ∧
       (n0 ≠ tm.size → u = { tm with arr0 := n0, arr1 := n1 })))

/-- R27, R37, R293, R295, R297, R451–R453: a message without a handler entry is returned; else a free
handler context starts on it at its entry. A returned message gives its trap to the sender, in its slot
when it waits there, at once to a PARK; a sender whose contexts have all ended fails its team. The phase of a team reaches its cores and
wakes those who wait for it.
Clauses that follow the model's own choices rest on log entries 35 and 51. -/
def Obligations.HandlersAndReturns : Prop := ∀ (p k : Nat) (s : State), k < 16 →
  let c := s.core p
  let x := s.ctx p k
  (∀ m, s.queued p k = some m →
    let entry := c.mhent.get (k - 11) 0
    let back := fun (a b : Nat) => ∃ t, exec (.messageHandlingStart p k) s = .next t ∧ t.mem = s.mem ∧
      t.msgs = s.msgs.map fun n => if n = m then { n with returned := some (a, b) } else n
    (c.finishing ≠ none → back 0x0F 0) ∧
    (c.finishing = none → x.live = true ∨ c.stopped = true → exec (.messageHandlingStart p k) s = .next s) ∧
    (c.finishing = none → x.live = false → c.stopped = false →
      (entry = 0 → back 0x10 6) ∧
      (entry ≠ 0 → x.wait = none → ∃ t, exec (.messageHandlingStart p k) s = .next t ∧
        t.msgs = s.msgs.erase m ∧ t.mem = s.mem ∧ (t.ctx p k).live = true ∧ (t.ctx p k).ip = entry ∧
        (t.ctx p k).msg = some m ∧ (t.ctx p k).gen = x.gen + 1 ∧ (t.ctx p k).depth = 0 ∧
        (t.ctx p k).wsp = x.wsb ∧ (t.ctx p k).mode = x.mode ∧ ∀ r, (t.ctx p k).reg r = x.reg r))) ∧
  (∀ m cause reason, s.msgs.find? (fun n => n.id == m.id) = some m → m.returned = some (cause, reason) →
    let y := s.ctx m.pid m.ctx
    ∃ t, exec (.messageReturn m.id) s = .next t ∧
      (∀ op off park sl, m.kind = .access op off park → (s.core m.pid).finishing = none → y.slot = some sl → sl.id = m.id →
        sl.gen = m.gen → sl.ans = none → t.mem = s.mem ∧ t.msgs = s.msgs.erase m ∧
        (t.ctx m.pid m.ctx).slot = some { sl with ans := some (.trap cause (m.info reason)) }) ∧
      ((∀ op off park, m.kind ≠ .access op off park) → (∀ off v, m.kind ≠ .parkCheck off v) →
        y.live = true → y.gen.toNat = m.gen → (s.core m.pid).finishing = none → t.msgs = s.msgs.erase m ∧
        (t.ctx m.pid m.ctx).held = y.held ++
          [{ cause := cause, info := m.info reason, src := m.ip, srcx := m.cls }]) ∧
      (∀ off v T a b, m.kind = .parkCheck off v → (s.core m.pid).finishing = none → y.live = true →
        y.gen.toNat = m.gen → y.asked = some m.id → y.wait = some ⟨.parkAsk T, a, b⟩ → ∃ u : State,
        t = u.raise m.pid m.ctx { cause := cause, info := m.info reason } y.ip ∧ u.mem = s.mem ∧
        u.msgs = s.msgs.erase m ∧ (u.ctx m.pid m.ctx).wait = none) ∧
      (∀ tid tm, (s.core m.pid).finishing ≠ none → (∀ e ∈ (s.core m.pid).ctxs, e.2.live = false) →
        (s.core m.pid).team = some tid → s.teams.find? tid = some tm → s.root.parts = [] →
        t.teams.find? tid = none)) ∧
  (∀ tm, s.teamOf p = some tm → tm.swapped = false →
    (tm.ph = c.ph → exec (.barrierPhaseArrival p) s = .next s) ∧
    (tm.ph ≠ c.ph → ∃ t, exec (.barrierPhaseArrival p) s = .next t ∧ (t.core p).ph = tm.ph ∧ t.mem = s.mem ∧
      (∀ a b, x.wait = some ⟨.barrier, a, b⟩ ∨ x.wait = some ⟨.busy 14, a, b⟩ → (t.ctx p k).wait = none) ∧
      ∀ r, (t.ctx p k).reg r = x.reg r))

/-! ### Accepted work, copy records -/

/-- R127, R186, R310, R317, R320–R334: the oldest sweep is performed once, a VST after what its context did before
it. The segments of a sweep are performed in ascending order, each reading its operands before it writes: where `t0`
is the end of the sweep with `n` segments, segment `n` of the sweep with n + 1 reads what stands there. The clauses
give what each sweep writes: lane by lane (one operand, two or three, a conversion, a permutation, a gather, a search
in a sorted run); VRED and VSCAN, their sums exact before the one rounding; VSCAT, where the later lane stands; VQNT
and VDQ block by block; VLD and VST word by word at the homes; VMRG, a stable merge.
Clauses that follow the model's own choices rest on log entries 9, 105, 115 and 120. -/
def Obligations.SweepsPerform : Prop := ∀ (p : Nat) (s : State) (w : Work),
  (∀ rest, (s.core p).sweeps = w :: rest →
    (w.performed = true ∨ w.fault ≠ none ∨ s.workBehind p w = true → exec (.sweepPerform p) s = .next s) ∧
    (w.performed = false → w.fault = none → s.workBehind p w = false → ∀ u f, s.runSweep p w = (u, f) → ∃ t,
      exec (.sweepPerform p) s = .next t ∧ t.mem = u.mem ∧ (t.core p).vregs = (u.core p).vregs ∧
      (t.core p).sweeps = { w with performed := f.isNone, fault := f } :: (u.core p).sweeps.tail)) ∧
  (∀ (n : Nat) (t0 : State) (o : VOp), n + 1 < 2 ^ 12 → o.ty.width ∣ 512 → 0 < o.ty.width →
    let o0 := { o with cnt := BitVec.ofNat 12 n }
    let o1 := { o with cnt := BitVec.ofNat 12 (n + 1) }
    let wd := o.ty.width
    let L := 512 / wd
    let e := wd / 8
    let u := tsOf o
    let A := t0.segment p w o.a o.aS w.a o.sa o.ty n
    let B := t0.segment p w o.b o.bS w.b o.sb o.ty n
    let okA := t0.usable p o.a o.aS w.a o.sa n
    let okB := t0.usable p o.b o.bS w.b o.sb n
    let lanes := fun (g : Nat → Nat) => packLanes wd ((List.range L).map g)
    let after := fun (i : Instr) => s.runSweep p { w with instr := i } = (t0, none)
    (Lands w o 64 n →
      (∀ j i0 i1 f0 f, (laneForms o0)[j]? = some (i0, f0) → (laneForms o1)[j]? = some (i1, f) → after i0 → okA → okB →
        (j = 3 ∨ j = 7 → t0.usable p o.d false w.d o.sd n) →
        Segment s t0 p w o i1 64 n w.dtag (laneMap wd f A B (t0.segment p w o.d false w.d o.sd o.ty n))) ∧
      (∀ j i0 i1 g0 g, (unaryForms o0)[j]? = some (i0, g0) → (unaryForms o1)[j]? = some (i1, g) → after i0 → okA →
        Segment s t0 p w o i1 64 n (if j = 5 then s.movTag p w o else w.dtag)
          (lanes fun j => g (fld A (wd * j) wd))) ∧
      (after (.vperm o0) → okA → okB → Segment s t0 p w o (.vperm o1) 64 n w.dtag
        (lanes fun j => laneWritten o.ty (fld A (wd * (fld B (8 * j) 8 % L)) wd))) ∧
      (after (.vgath o0) → okB → 8 ∣ wd →
        let at_ := fun (j : Nat) => (((w.a.toNat : Int) + n * sextInt o.sa.toNat 10 + fld B (wd * j) wd * e) % 2 ^ 20).toNat
        (∀ j, j < L → t0.sound p (at_ j) e) → Segment s t0 p w o (.vgath o1) 64 n w.dtag
          (lanes fun j => laneWritten o.ty (t0.rd (lsAddr p (at_ j)) e))) ∧
      (after (.vbsr o0) → okB → w.a2.toNat ≤ 2 ^ 20 → t0.sound p w.a.toNat (w.a2.toNat * e) → 8 ∣ wd →
        let el := fun (i : Nat) => t0.rd (lsAddr p (w.a.toNat + i * e)) e
        (∀ i k, i ≤ k → k < w.a2.toNat → o.ty.int (el i) ≤ o.ty.int (el k)) →
        Segment s t0 p w o (.vbsr o1) 64 n w.dtag (lanes fun j =>
          let key := o.ty.int (fld B (wd * j) wd)
          ((List.range w.a2.toNat).filter fun i =>
            decide (o.ty.int (el i) < key ∨ (o.var = true ∧ o.ty.int (el i) = key))).length)) ∧
      (after (.vld o0) → ∀ v ws, memGet w.dom (ofInt ((w.a.toNat : Int) + n * sextInt o.sa.toNat 10)).toNat 8 t0 =
          (v, .ok ws) →
        Segment s v p w o (.vld o1) 64 n w.dtag (packLanes 64 (ws.map (·.toNat)))) ∧
      (after (.vmrg o0) → 8 ∣ wd → isV o.a = false → isV o.b = false →
        let el := fun (base : Word) (i : Nat) => s.rd (lsAddr p (base.toNat + i * e)) e
        let hull := 64 * (n + 1) + e
        s.sound p w.a.toNat hull → s.sound p w.b.toNat hull →
        (isV o.d = true ∨ ∀ i, i ≤ n → ∀ x ∈ [w.a.toNat, w.b.toNat],
          segOff w.d o.sd i + 64 ≤ 2 ^ 20 ∧ (segOff w.d o.sd i + 64 ≤ x ∨ x + hull ≤ segOff w.d o.sd i)) →
        Segment s t0 p w o (.vmrg o1) 64 n w.dtag (lanes fun j =>
          let m := merged o.ty (el w.a) (el w.b) (n * L + j)
          if o.ty.int (el w.a m.1) ≤ o.ty.int (el w.b m.2) then el w.a m.1 else el w.b m.2)) ∧
      (after (.vscan o0) → (∀ i, i ≤ n → s.usable p o.a o.aS w.a o.sa i) →
        (n = 0 ∨ isV o.d ≠ isV o.a ∨ isV o.d = false ∧ ∀ i k, i ≤ n → k ≤ n → segOff w.d o.sd i + 64 ≤ 2 ^ 20 ∧
          (segOff w.d o.sd i + 64 ≤ segOff w.a o.sa k ∨ segOff w.a o.sa k + 64 ≤ segOff w.d o.sd i)) →
        let el := fun (k : Nat) => fld (s.segment p w o.a o.aS w.a o.sa o.ty (k / L)) (wd * (k % L)) wd
        Segment s t0 p w o (.vscan o1) 64 n w.dtag (lanes fun j =>
          let k := n * L + j
          if o.var then (if k = 0 then unitOf o else redOf o ((List.range k).map el))
          else redOf o ((List.range (k + 1)).map el)))) ∧
    (0 < u.width → u.width ∣ 512 → after (.vcvt o0) → Lands w o (cvtBytes o.ty u) n →
      t0.usable p o.a o.aS w.a o.sa n (cvtBytes u o.ty) →
      let x := t0.segment p w o.a o.aS w.a o.sa u n (cvtBytes u o.ty)
      Segment s t0 p w o (.vcvt o1) (cvtBytes o.ty u) n w.dtag
        (packLanes wd ((List.range (512 / max wd u.width)).map fun j =>
          convert o.ty u (Rm.ofCode (o.low.toNat % 8)) (decide (8 ≤ o.low.toNat)) (fld x (u.width * j) u.width)))) ∧
    (after (.vst o0) → ∀ v, isV o.a = true ∨ segOff w.a o.sa n + 64 ≤ 2 ^ 20 →
      memPut p w.dom ((List.range 8).map fun j =>
        ((ofInt ((w.d.toNat : Int) + n * sextInt o.sd.toNat 10)).toNat + 8 * j, BitVec.ofNat 64 (fld A (64 * j) 64),
          !isV o.a && (t0.isPoison (lsAddr p (segOff w.a o.sa n + 8 * j)) ||
            t0.isPoison (lsAddr p (segOff w.a o.sa n + 8 * j) + 7)))) t0 = (v, none) →
      o.aS = false → s.runSweep p { w with instr := .vst o1 } = (v, none)) ∧
    (after (.vscat o0) → okA → okB → 8 ∣ wd → ((w.d.toNat : Int) + n * sextInt o.sd.toNat 10) % e = 0 →
      let at_ := fun (j : Nat) => (((w.d.toNat : Int) + n * sextInt o.sd.toNat 10 + fld B (wd * j) wd * e) % 2 ^ 20).toNat
      ∃ t, s.runSweep p { w with instr := .vscat o1 } = (t, none) ∧ (t.core p).vregs = (t0.core p).vregs ∧
        (∀ b, t.isFull b = t0.isFull b) ∧
        (∀ j, j < L → (∀ k, j < k → k < L → at_ k ≠ at_ j) →
          t.rd (lsAddr p (at_ j)) e = laneWritten o.ty (fld A (wd * j) wd)) ∧
        ∀ b, (∀ j, j < L → b < lsAddr p (at_ j) ∨ lsAddr p (at_ j) + e ≤ b) →
          Memory.read t.mem b = Memory.read t0.mem b) ∧
    (0 < o.cnt.toNat → (∀ i, i < o.cnt.toNat → s.usable p o.a o.aS w.a o.sa i) → Lands w o 64 0 →
      let el := fun (i j : Nat) => fld (s.segment p w o.a o.aS w.a o.sa o.ty i) (wd * j) wd
      Segment s s p w o (.vred o) 64 0 w.dtag (lanes fun j =>
        if o.var then
          (if j = 0 then redOf o ((List.range (o.cnt.toNat * L)).map fun k => el (k / L) (k % L)) else 0)
        else redOf o ((List.range o.cnt.toNat).map fun i => el i j)))) ∧
  (∀ (o : VOp), (o.ty = .e2m1 ∨ o.ty = .e4m3 ∨ o.ty = .e5m2) → (tsOf o = .f32 ∨ tsOf o = .bf16) →
    let n := o.cnt.toNat
    let u := tsOf o
    let wide := 32 * u.width
    let eb := 32 * o.ty.width
    let wb := o.ty.width
    let apart := fun (d dn a an : Nat) => d + dn ≤ 2 ^ 20 ∧ (d + dn ≤ a ∨ a + an ≤ d)
    let D := w.d.toNat
    let A := w.a.toNat
    (s.sound p A (n * wide) → apart D (n * eb + 2 * n) A (n * wide) → (o.var = true → o.ty = .e2m1) →
      ∃ t, s.runSweep p { w with instr := .vqnt o } = (t, none) ∧ (t.core p).vregs = (s.core p).vregs ∧
        (∀ b, t.isFull b = s.isFull b) ∧ SameBytes s t (lsAddr p D) (n * eb + 2 * n) ∧
        ∀ j, j < n →
          let q := vqntBlock o.ty ((List.range 256).map fun k =>
            u.val (fld (s.rd (lsAddr p (A + j * wide)) wide) (u.width * k) u.width))
          t.rd (lsAddr p (D + n * eb + 2 * j)) 2 = q.1 + 256 * (if o.var then 1 else 0) ∧
          ∀ k, k < 256 → fld (t.rd (lsAddr p (D + j * eb)) eb) (wb * layoutPos (if o.var then 1 else 0) k) wb =
            (q.2.getD k 0) % 2 ^ wb) ∧
    (s.sound p A (n * eb + 2 * n) → apart D (n * wide) A (n * eb + 2 * n) →
      let sc := fun (j : Nat) => s.rd (lsAddr p (A + n * eb + 2 * j)) 2
      (∀ j, j < n → sc j / 256 = 0 ∨ sc j / 256 = 1 ∧ o.ty = .e2m1) →
      ∃ t, s.runSweep p { w with instr := .vdq o } = (t, none) ∧ (t.core p).vregs = (s.core p).vregs ∧
        (∀ b, t.isFull b = s.isFull b) ∧ SameBytes s t (lsAddr p D) (n * wide) ∧
        ∀ j k, j < n → k < 256 → fld (t.rd (lsAddr p (D + j * wide)) wide) (u.width * k) u.width =
          dequant u o.ty (fld (s.rd (lsAddr p (A + j * eb)) eb) (wb * layoutPos (sc j / 256) k) wb) (sc j % 256))) ∧
  ∀ (f : Fmt) (M : Rm) (sat : Bool),
    exp2Round f M sat .nan = f.nan ∧ log2Round f M sat .nan = f.nan ∧
    exp2Round f M sat (.inf true) = 0 ∧ exp2Round f M sat (.inf false) = f.round M sat (.inf false) ∧
    log2Round f M sat (.inf true) = f.nan ∧ log2Round f M sat (.inf false) = f.round M sat (.inf false) ∧
    (∀ k : Int, -4096 < k → k < 4096 →
      exp2Round f M sat (.fin (decide (k < 0)) k.natAbs 0) = f.round M sat (.fin false 1 k) ∧
      log2Round f M sat (.fin false 1 k) = f.round M sat (.fin (decide (k < 0)) k.natAbs 0)) ∧
    ∀ sg e m, log2Round f M sat (.fin sg 0 e) = f.round M sat (.inf true) ∧
      (0 < m → log2Round f M sat (.fin true m e) = f.nan)

/-- R136, R138, R139, R159, R316, R318, R335–R340, R341, R343, R344, R346–R350, R450: performed work leaves its unit: its
locks go, then its semaphore is signalled by its increment. MZERO of a tile writes zeros with its tag; an MMA of two
8-bit integer tiles adds the exact products and saturates once; MLD fills tiles from the rows of a scratchpad pair,
widened, scaled and in natural order as it says; MST stores the rows and the scale columns; MTRN transposes each block
of 16 × 16 elements; MCVT converts an accumulator, MSCL multiplies it by one factor or by one for each row, and MACC
adds a matrix to it. Work that met a fault leaves without its
signal, and its trap is held by the context that issued it.
Clauses that follow the model's own choices rest on log entries 35 and 105. -/
def Obligations.WorkCompletes : Prop := ∀ (p : Nat) (s : State) (w : Work) (rest : List Work),
  let c := s.core p
  (c.sweeps = w :: rest →
    (w.performed = false → exec (.sweepComplete p) s = .next s) ∧
    (w.performed = true → c.semWait.get (signalOf w.instr).1 [] = [] → ∃ t, exec (.sweepComplete p) s = .next t ∧
      (t.core p).sweeps = rest ∧ t.mem = s.mem ∧
      (∀ l, l ∈ (t.core p).locks ↔ l ∈ c.locks ∧ ¬ (l.2.kind = 0 ∧ l.2.owner = w.id)) ∧
      Signalled s t p (signalOf w.instr).1 (signalOf w.instr).2) ∧
    (∀ fa, w.performed = false → w.fault = some fa → c.finishing = none → (c.ctx w.ctx).live = true →
      (c.ctx w.ctx).gen.toNat = w.gen → w.chain = none → ∃ t, exec (.workFault (.sweep p)) s = .next t ∧
        (t.core p).sweeps = rest ∧ (t.core p).sems = c.sems ∧
        (∀ l ∈ (t.core p).locks, ¬ (l.2.kind = 0 ∧ l.2.owner = w.id)) ∧
        (t.ctx p w.ctx).held = (s.ctx p w.ctx).held ++ [{ cause := fa.1, info := fa.2.1, src := w.ip
                                                          srcx := BitVec.ofNat 64 (fa.2.2 * 2 ^ 32) + w.cls }])) ∧
  (c.mats = w :: rest → ∀ x : XOp, c.semWait.get x.sem.toNat [] = [] → w.performed = false → w.fault = none →
    let reg := fun (d : Spec) => w.tbase + (d.toNat - 48)
    let tile := fun (q : Nat) => c.tregs.get q {}
    let r := reg x.d
    let tileA := tile (reg x.a)
    let tileB := tile (reg x.b)
    let accf := x.accf.toNat
    let n := if accf = 1 then 8 else 4
    let M := Rm.ofCode x.rnd.toNat
    let lm := x.mode.toNat % 2
    let K := x.kcnt.toNat
    let T := tyOf x.fmt.toNat
    let h := if x.fmt = 7 then 1 else 2
    let left := fun (t : State) => (t.core p).mats = rest ∧
      (∀ l, l ∈ (t.core p).locks ↔ l ∈ c.locks ∧ ¬ (l.2.kind = 1 ∧ l.2.owner = w.id)) ∧
      Signalled s t p x.sem.toNat x.inc.toNat
    let done := fun (q k : Nat) (t : State) => left t ∧ t.mem = s.mem ∧
      ∀ j, j < q ∨ q + k ≤ j → (t.core p).tregs.get j {} = tile j
    let acc := s.accElem p w x n
    let okAcc := (accf = 1 ∨ accf = 2 ∨ accf = 12 ∨ accf = 13) ∧
      (x.mode.getLsbD 0 = true ∨ s.sound p w.d.toNat (256 * n))
    (w.instr = .mzero x → x.mode.getLsbD 0 = true → ∃ t, exec (.matrixComplete p) s = .next t ∧ done r 1 t ∧
      ((t.core p).tregs.get r {}).v = 0 ∧ ((t.core p).tregs.get r {}).unscaled ∧
      ((t.core p).tregs.get r {}).tag = (if x.accf = 12 then 13 else x.accf.toNat)) ∧
    (w.instr = .mma x → x.mode.getLsbD 0 = true → x.accf = 13 → x.ak = false → x.bk = false → x.kcnt = 1 →
      (tileA.tag = 8 ∨ tileA.tag = 9) → (tileB.tag = 8 ∨ tileB.tag = 9) →
      ∃ t, exec (.matrixComplete p) s = .next t ∧ done r 1 t ∧ ∀ i k, i < 16 → k < 16 →
        let el := fun (sg : Bool) (m : PReg) (row e : Nat) =>
          if sg then sextInt (fld m.v (1024 * row + 8 * e) 8) 8 else (fld m.v (1024 * row + 8 * e) 8 : Int)
        let old := sextInt (fld (c.tregs.get r {}).v (32 * (16 * i + k)) 32) 32
        let sum := old + ((List.range 128).map fun e => el x.sa tileA i e * el x.sb tileB k e).sum
        sextInt (fld ((t.core p).tregs.get r {}).v (32 * (16 * i + k)) 32) 32 =
          max (-2147483648) (min 2147483647 sum)) ∧
    (w.instr = .mtrn x → 1 ≤ tileA.tag → tileA.tag ≤ 14 → tileA.tag ≠ 7 →
      ∃ t, exec (.matrixComplete p) s = .next t ∧ done r 1 t ∧
        let m := (t.core p).tregs.get r {}
        let u := tyOf tileA.tag
        m.tag = tileA.tag ∧ m.unscaled ∧ ∀ i b k, i < 16 → k < 16 → 16 * b < 1024 / u.width →
          fld m.v (1024 * i + u.width * (16 * b + k)) u.width =
            laneWritten u (fld tileA.v (1024 * k + u.width * (16 * b + i)) u.width)) ∧
    (w.instr = .mcvt x → okAcc → 1 ≤ x.fmt.toNat → x.fmt.toNat ≤ 14 → x.fmt.toNat ≠ 7 →
      ∃ t, exec (.matrixComplete p) s = .next t ∧ done (reg x.e) 1 t ∧
        let m := (t.core p).tregs.get (reg x.e) {}
        m.tag = x.fmt.toNat ∧ m.unscaled ∧
        (∀ i k, i < 16 → 16 ≤ k → k < 1024 / T.width → fld m.v (1024 * i + T.width * k) T.width = 0) ∧
        ∀ i k, i < 16 → k < 16 →
          let y := acc (16 * i + k)
          fld m.v (1024 * i + T.width * k) T.width =
            (if T.integer then (if accf = 13 then T.wrapInt (x.mode.getLsbD 1) (sextInt y 32)
              else toBits (roundInt M T.lo T.hi (accVal accf y)) T.width)
            else if T = .l6 then roundL6 M (accVal accf y)
            else (fmtD T).round M (x.mode.getLsbD 1) (accVal accf y))) ∧
    (w.instr = .mscl x → okAcc → accf = 1 ∨ accf = 2 →
      (x.mode.getLsbD 1 = true → s.sound p w.b.toNat (16 * n)) →
      ∃ t, exec (.matrixComplete p) s = .next t ∧ left t ∧ Accumulated s t p w x n fun i =>
        let f := fmtD (tyOf accf)
        let factor := if x.mode.getLsbD 1 then s.rd (lsAddr p (w.b.toNat + n * (i / 16))) n
          else w.b.toNat % 2 ^ (8 * n)
        f.round M false (Val.mul (f.val (acc i)) (f.val factor))) ∧
    (w.instr = .macc x → okAcc →
      (x.ak = true → ∀ i j, i < 16 → 64 * j < 16 * n → s.sound p (padLine w.a w.a2 0 i j) 64) →
      ∃ t, exec (.matrixComplete p) s = .next t ∧ left t ∧ Accumulated s t p w x n fun i =>
        let e := if x.ak then
            s.rd (lsAddr p (padLine w.a w.a2 0 (i / 16) (i % 16 * n / 64) + i % 16 * n % 64)) n
          else fld tileA.v (8 * n * i) (8 * n)
        let f := fmtD (tyOf accf)
        if accf = 12 ∨ accf = 13 then
          toBits (max (-2147483648) (min 2147483647 (sextInt (acc i) 32 + sextInt e 32))) 32
        else f.round M false (Val.add M (f.val (acc i)) (f.val e))) ∧
    (w.instr = .mld x →
      let q := if x.var.getLsbD 0 then (if x.fmt = 5 then 2 else 4) else 1
      let line := fun (k i j : Nat) => s.rd (lsAddr p (padLine w.a w.a2 k i j)) 64
      let entry := fun (k i : Nat) => if x.sc then s.rd (lsAddr p (w.e.toNat + 32 * (k / h) + 2 * i)) 2 else 0x7F
      let u := if x.fmt = 10 ∧ x.sa = false then .n4 else T
      let el := fun (k i e : Nat) =>
        let e := if lm = 1 then e % 16 * 16 + e / 16 else e
        fld (line k i 0 + 2 ^ 512 * line k i 1) (u.width * e) u.width
      1 ≤ x.fmt.toNat → x.fmt.toNat ≤ 14 → K % q = 0 → (lm = 1 → x.fmt = 7) →
      (x.var.getLsbD 0 = true → x.fmt = 5 ∨ x.fmt = 7 ∨ x.fmt = 10) →
      (∀ k i, k < K / q → i < 16 → (∀ j, j < 2 → s.sound p (padLine w.a w.a2 k i j) 64) ∧
        (x.sc = true → s.sound p (w.e.toNat + 32 * (k / h)) 32 ∧ entry k i / 256 = lm)) →
      ∃ t, exec (.matrixComplete p) s = .next t ∧ done r K t ∧ ∀ k i, k < K → i < 16 →
        let m := (t.core p).tregs.get (r + k) {}
        (x.var.getLsbD 0 = false → m.tag = x.fmt.toNat ∧ fld m.sc (16 * i) 16 = entry k i ∧
          ∀ e, e < 1024 / u.width → fld m.v (1024 * i + u.width * e) u.width = el k i e) ∧
        (x.var.getLsbD 0 = true → m.tag = 4 ∧ m.unscaled ∧ ∀ e, e < 64 →
          fld m.v (1024 * i + 16 * e) 16 = dequant .bf16 u (el (k / q) i (64 * (k % q) + e)) (entry (k / q) i % 256))) ∧
    (w.instr = .mst x →
      let line := padLine w.b w.b2
      let cols := if x.sc then 32 * ((K - 1) / h + 1) else 0
      (∀ k i j, k < K → i < 16 → j < 2 → line k i j % 64 = 0 ∧ line k i j + 64 ≤ 2 ^ 20 ∧
        (line k i j + 64 ≤ w.e.toNat ∨ w.e.toNat + cols ≤ line k i j) ∧
        ∀ k' i' j', k' < K → i' < 16 → j' < 2 → line k i j = line k' i' j' → (k, i, j) = (k', i', j')) →
      w.e.toNat + cols ≤ 2 ^ 20 → ∃ t, exec (.matrixComplete p) s = .next t ∧ left t ∧
        (t.core p).tregs = c.tregs ∧ (∀ b, t.isFull b = s.isFull b) ∧
        (∀ k i j, k < K → i < 16 → j < 2 →
          t.rd (lsAddr p (line k i j)) 64 = fld (tile (reg x.a + k)).v (1024 * i + 512 * j) 512) ∧
        (x.sc = true → ∀ k i, k < K → i < 16 → k + 1 = K ∨ (k + 1) / h ≠ k / h →
          t.rd (lsAddr p (w.e.toNat + 32 * (k / h) + 2 * i)) 2 = fld (tile (reg x.a + k)).sc (16 * i) 16) ∧
        ∀ b, (∀ k i j, k < K → i < 16 → j < 2 → b < lsAddr p (line k i j) ∨ lsAddr p (line k i j) + 64 ≤ b) →
          (cols = 0 ∨ b < lsAddr p w.e.toNat ∨ lsAddr p w.e.toNat + cols ≤ b) →
          Memory.read t.mem b = Memory.read s.mem b))

/-- R179, R182, R183, R355, R354, R360, R502: a record starts when it is advanced, its chain is free, its team is resident
(R54) and nothing keeps it out; one with an unknown KIND stops with 01h. A row of a copy moves its bytes, once no other work has them locked (R159), and a row
of FILL takes the pattern by address; every other byte keeps its value. COW keeps a block with one
reference in place, and else copies it.
Clauses that follow the model's own choices rest on log entries 52, 53, 54 and 93. -/
def Obligations.RecordsRun : Prop := ∀ (h : Nat) (s : State),
  let ch := s.chain h
  ((ch.run ≠ none ∨ ch.stopped = true ∨ s.chainAway h = true ∨ (∀ rc ∈ ch.recs.head?, rc.advanced = false)) →
    exec (.copyRecordStart h) s = .next s) ∧
  (∀ rc l u ws, s.chainAway h = false → ch.run = none → ch.stopped = false → ch.recs = rc :: l → rc.advanced = true →
    s.readRecord rc.dom rc.va 8 = (u, .ok ws) → rWthr ws = 0 →
    (u.namedCores h ws).any (fun q => (u.core q).stopped) = false →
    (rKind ws = 0 ∨ 10 ≤ rKind ws → ∃ t r, exec (.copyRecordStart h) s = .next t ∧ (t.chain h).run = some r ∧
      r.fault = some (1, rc.va)) ∧
    (∀ cause, u.recordFault h ws (ch.team.isNone) = some cause → u.chain h = ch → ∃ t r,
      exec (.copyRecordStart h) s = .next t ∧ (t.chain h).run = some r ∧ r.fault = some (cause, rc.va)) ∧
    (u.recordFault h ws (ch.team.isNone) = none → u.chain h = ch → u.recordLocked h rc ws = false →
      u.lockCores h rc ws = [] → ∃ t r, exec (.copyRecordStart h) s = .next t ∧ (t.chain h).run = some r ∧
        r.ws = ws ∧ r.row = 0 ∧ r.plane = 0 ∧ r.ended = false ∧ r.fault = none ∧ t.mem = u.mem)) ∧
  (∀ r, ch.run = some r →
    (r.ended = true ∨ r.fault ≠ none ∨ r.waiting ≠ none → exec (.copyRecordRow h) s = .next s) ∧
    (r.ended = false → r.fault = none → r.waiting = none → r.got = [] → rSfe r.ws = 0 → rDfe r.ws = 0 →
      rMcast r.ws = 0 → rSidecar r.ws = false → r.row < rRows r.ws →
      s.rowLocked h r.rc (rowOf r.ws r.row r.plane 0) = false →
      let n := rRow r.ws
      let at_ := fun (base : Nat) (rp pp : Int) => ofInt ((base : Int) + r.plane * pp + r.row * rp)
      ∀ dr pd od, windowOf ch.rank (at_ (rDst r.ws) (rDrp r.ws) (rDpp r.ws)) = .rank dr od →
        s.engCore h dr = some pd → od + n ≤ 2 ^ 20 →
      (∀ sr ps os, rKind r.ws = 1 → windowOf ch.rank (at_ (rSrc r.ws) (rSrp r.ws) (rSpp r.ws)) = .rank sr os →
        s.engCore h sr = some ps → os + n ≤ 2 ^ 20 → ∃ t r', exec (.copyRecordRow h) s = .next t ∧
          (t.chain h).run = some r' ∧ r'.row = r.row + 1 ∧ r'.plane = r.plane ∧ r'.fault = none ∧
          SameBytes s t (lsAddr pd od) n ∧ (∀ b, t.isFull b = s.isFull b) ∧
          ∀ i, i < n → Memory.read t.mem (lsAddr pd od + i) = Memory.read s.mem (lsAddr ps os + i)) ∧
      (rKind r.ws = 5 → ∃ t r', exec (.copyRecordRow h) s = .next t ∧
          (t.chain h).run = some r' ∧ r'.row = r.row + 1 ∧ r'.fault = none ∧
          SameBytes s t (lsAddr pd od) n ∧ (∀ b, t.isFull b = s.isFull b) ∧
          ∀ i, i < n → Memory.read t.mem (lsAddr pd od + i) =
            BitVec.ofNat 8 (rSrc r.ws / 2 ^ (8 * ((od + i) % 8))))) ∧
    (rKind r.ws ≠ 6 ∨ r.ended = true → exec (.cowStep h) s = .next s) ∧
    (rKind r.ws = 6 → r.ended = false → r.fault = none → rFo r.ws = false →
      let b := rRow r.ws
      let src := BitVec.ofNat 64 (rSrc r.ws)
      let dst := BitVec.ofNat 64 (rDst r.ws)
      ∀ qs ps os qe pe oe, windowOf ch.rank src = .rank qs os → s.engCore h qs = some ps → os % 8 = 0 →
        let e := BitVec.ofNat 64 (s.rd (lsAddr ps os) 8)
        windowOf ch.rank e = .rank qe oe → s.engCore h qe = some pe → (oe + b) % 8 = 0 →
        oe + b + 8 ≤ 2 ^ 20 → s.isPoison (lsAddr pe (oe + b)) = false → (s.core pe).locks = [] →
        let cnt := s.rd (lsAddr pe (oe + b)) 8
        (cnt ≤ 1 → ∃ t r', exec (.cowStep h) s = .next t ∧ t.mem = s.mem ∧
          (t.chain h).run = some r' ∧ r'.ended = true ∧ r'.res = 1) ∧
        (1 < cnt → ∀ qd pd od, windowOf ch.rank dst = .rank qd od → s.engCore h qd = some pd →
          od + b + 8 ≤ 2 ^ 20 →
          (lsAddr pd od + b + 8 ≤ lsAddr pe oe ∨ lsAddr pe oe + b + 8 ≤ lsAddr pd od) →
          (lsAddr ps os + 8 ≤ lsAddr pe oe ∨ lsAddr pe oe + b + 8 ≤ lsAddr ps os) →
          (lsAddr ps os + 8 ≤ lsAddr pd od ∨ lsAddr pd od + b + 8 ≤ lsAddr ps os) →
          ∃ t r', exec (.cowStep h) s = .next t ∧ (t.chain h).run = some r' ∧ r'.ended = true ∧ r'.res = 2 ∧
            t.rd (lsAddr pe (oe + b)) 8 = cnt - 1 ∧ t.rd (lsAddr pd (od + b)) 8 = 1 ∧
            t.rd (lsAddr ps os) 8 = rDst r.ws ∧
            ∀ i, i < b → Memory.read t.mem (lsAddr pd od + i) = Memory.read s.mem (lsAddr pe oe + i))))

/-- R184, R185, R361, R366, R368, R381, R450: a record that has ended loses its locks on every core,
delivers its number and signals; its chain is then free for the next. A follow-on image is accepted as an
MMA on the words of the core's follow-on block, on a stopped core too (R456). A waiting event record enters the queue when it has room.
A record that stopped at a fault stops its chain and holds its trap.
Clauses that follow the model's own choices rest on log entries 43, 55 and 57. -/
def Obligations.RecordsComplete : Prop := ∀ (h : Nat) (s : State),
  let ch := s.chain h
  (∀ r, ch.run = some r →
    (r.ended = false ∨ r.fault ≠ none ∨ r.acks ≠ [] → exec (.copyRecordComplete h) s = .next s) ∧
    (r.ended = true → r.fault = none → r.acks = [] → ch.team = none →
      exec (.copyRecordComplete h) s = .next (s.setChain h
        { ch with run := none, recs := r.rc.follow ++ ch.recs.tail, delivered := r.rc.num }) ∧
      (r.rc.more = 0 → r.rc.follow = []) ∧
      (0 < r.rc.more → ∃ rc, r.rc.follow = [rc] ∧ rc.va.toNat = recW r.rc.ws 0 / 64 * 64 % 2 ^ 64 ∧
        rc.num = r.rc.num + 1 ∧ rc.more = r.rc.more - 1 ∧ rc.advanced = r.rc.advanced)) ∧
    (∀ tm p, r.ended = true → r.fault = none → r.acks = [] → ch.team = some tm → s.chainCore h = some p →
      r.posting = false → rEvq r.ws = false → s.offers = [] → ch.seqVa.toNat % 8 = 0 →
      (∀ u, s.xlate r.rc.dom ch.seqVa rW ≠ (u, .absent)) → ∃ t, exec (.copyRecordComplete h) s = .next t ∧ (t.chain h).run = none ∧
        (t.chain h).recs = ch.recs.tail ∧ (t.chain h).delivered = r.rc.num ∧
        (∀ q, ∀ l ∈ (t.core q).locks, ¬ (l.2.kind = 2 ∧ l.2.owner = recKey h r.rc.num)) ∧
        (rSidecar r.ws = true ∨ rSinc r.ws = 0 → (t.core p).sems = (s.core p).sems) ∧
        (rSidecar r.ws = false → rSinc r.ws ≠ 0 → rSigd r.ws = false →
          (s.core p).semWait.get (rSsem r.ws) [] = [] → Signalled s t p (rSsem r.ws) (rSinc r.ws))) ∧
    (∀ tm p fa, r.fault = some fa → ch.team = some tm → s.chainCore h = some p →
      (s.core p).finishing = none → (s.ctx p r.rc.ctx).live = true → (s.ctx p r.rc.ctx).gen.toNat = r.rc.gen →
      ∃ t, exec (.workFault (.chain h)) s = .next t ∧ (t.chain h).run = none ∧ (t.chain h).stopped = true ∧
        (t.chain h).recs = ch.recs.tail ∧ (t.chain h).delivered = ch.delivered ∧
        (∀ q, ∀ l ∈ (t.core q).locks, ¬ (l.2.kind = 2 ∧ l.2.owner = recKey h r.rc.num)) ∧
        ∃ x, (t.ctx p r.rc.ctx).held = (s.ctx p r.rc.ctx).held ++ [x] ∧ x.cause = fa.1 ∧ x.info = fa.2 ∧
          x.src = r.rc.ip)) ∧
  (∀ (o : Offer) (x : XOp), s.offers = [o] → followOn [0, 0, 0, 0, 0, 0, BitVec.ofNat 64 o.image,
      BitVec.ofNat 64 (o.image / 2 ^ 64)] = some x →
    let c := s.core o.pid
    let z := s.zone (zoneOf o.pid)
    let word := fun (d : Spec) => BitVec.ofNat 64 (s.rd (lsAddr o.pid (c.fobase + 8 * d.toNat)) 8)
    (c.locks = [] → c.sweeps = [] → c.mats = [] → z.r = 0 → z.refused = [] →
      imageFault o (mmaPlan (s.imageReg o.pid) x) = none → ∃ t w, exec (.followOnOffer o.id) s = .next t ∧
        t.offers = [] ∧ (t.core o.pid).mats = [w] ∧ w.instr = .mma x ∧ w.chain = some o.chain ∧
        w.d = word x.d ∧ w.a = word x.a ∧ w.a2 = word (x.a + 1) ∧ w.b = word x.b ∧ w.b2 = word (x.b + 1) ∧
        t.mem = s.mem)) ∧
  ∀ p, let c := s.core p
    let off := c.evqBase * 1024 + 16 * (c.evqtail % 64)
    s.chains = [] →
    (c.posts = [] → c.dropped = 0 → exec (.eventRecordPost p) s = .next s) ∧
    (∀ e, c.posts = [e] → e.trap = none → c.dropped = 0 →
      (c.evqEn = false ∨ ringCount c.evqhead c.evqtail 64 = 64 → exec (.eventRecordPost p) s = .next s) ∧
      (c.evqEn = true → ringCount c.evqhead c.evqtail 64 < 64 → c.evqBase < 1024 →
        ∃ t, exec (.eventRecordPost p) s = .next t ∧ (t.core p).posts = [] ∧
          (t.core p).evqtail = (c.evqtail + 1) % 128 ∧ t.rd (lsAddr p off) 8 = e.w0.toNat ∧
          t.rd (lsAddr p (off + 8)) 8 = e.w1.toNat ∧ SameBytes s t (lsAddr p off) 16))

/-! ### The host, the fabric, the command processors -/

/-- R81, R116, R173, R174, R177, R407, R408, R467, R469, R475, R483, R520: an invalidation of the host ends the translations of
its range and takes every copy of its lines. A page answer ends the page's request and wakes those who
wait for the page; after a Response Failure none is raised. An access from another device needs an import
entry, and then is one step at its home here; it tells the generation of its context, whose older watches go. A watch
stands behind the others of its line, or before them when its context was woken and lost the word. An answer of another
device reaches its request, poison as a trap; one that
does not come within 1 ms counts as refused, that of a buffered store too.
Clauses that follow the model's own choices rest on log entries 20, 47, 56, 76 and 84. -/
def Obligations.HostAndFabricEvents : Prop := ∀ s : State,
  (∀ pasid va size, let f := s.atsPage pasid va size;
    ∃ t, exec (.atsInvalidation pasid va size) s = .next t ∧
      t.xlates = s.xlates.filter (fun (e : Nat × Xlate) => !f e.1) ∧
      (∀ key, keyHost key = true → f (linePage key) = true → t.lines.find? key = none ∧
        ∀ p, (t.core p).icache.find? key = none ∧ ∀ j, j < 8 → (t.core p).dcache.find? (8 * key + j) = none) ∧
      (∀ key, ¬ (keyHost key = true ∧ f (linePage key) = true) → t.lines.find? key = s.lines.find? key) ∧
      ∀ p k, t.ctx p k = s.ctx p k) ∧
  (∀ pasid page r, let key := pasid * 2 ^ 44 + page;
    let mine := fun (m : Nat) => ∃ dom ∈ s.domsOf pasid, m = 2 ^ 64 + dom * 2 ^ 44 + page
    (key ∉ s.pri → exec (.priResponse pasid page r) s = .next s) ∧
    (key ∈ s.pri → ∃ t, exec (.priResponse pasid page r) s = .next t ∧ t.mem = s.mem ∧
      t.pri = setDel s.pri key ∧ (t.priOn = if r = .responseFailure then false else s.priOn) ∧
      (∀ p k m, k < 16 → mine m → (∃ a b, (s.ctx p k).wait = some ⟨.page m, a, b⟩) → (t.ctx p k).wait = none) ∧
      (∀ p k, (∀ m a b, (s.ctx p k).wait ≠ some ⟨.page m, a, b⟩ ∧ (s.ctx p k).wait ≠ some ⟨.parkPage m, a, b⟩ ∧
        (s.ctx p k).wait ≠ some ⟨.fetchPage m, a, b⟩) → (t.ctx p k).reg = (s.ctx p k).reg ∧
        (t.ctx p k).ip = (s.ctx p k).ip ∧ (t.ctx p k).wait = (s.ctx p k).wait) ∧
      (r = .success → ∀ h, s.hostPages.find? key = some h →
        t.hostPages.find? key = some { h with resident := true }) ∧
      (r ≠ .success → t.hostPages = s.hostPages ∧
        ∀ p, ∀ e ∈ (t.core p).absents, mine e.page → e.failed = true))) ∧
  (∀ src dom off op park p k g front, let i := Instr.fabricAccess (.inbound src dom off op park p k g front);
    let u := s.remoteGen src p k g
    exec (.fabricAccess (.generation src p k g)) s = .next u ∧
    (Unwatched s → u = { s with remoteGens := s.remoteGens.put (remoteKey src p k) g }) ∧
    (∀ w, w.chain = none → w.dev = some src → w.pid = p → w.ctx = k → (s.watchLive w = true ↔
      s.remoteGens.get (remoteKey src p k) w.gen = w.gen)) ∧
    (u.imported src dom (opNeed op) = false → exec i s = .next u) ∧
    (∀ pa l, u.imported src dom (opNeed op) = true → u.xlate dom (fabricVa off) (opNeed op) = (u, .ok pa) →
      u.lines.find? (lineKey dom (fabricVa off)) = some l → l.ws.length = 8 → Settled u (fabricVa off) →
      let j := (fabricVa off).toNat / 8 % 8;
      let r := opEval op ((fabricVa off).toNat % 8) ((l.ws[j]?).getD 0) (bitAt l.fe j) (bitAt l.poison j);
      ∃ t l', exec i s = .next t ∧ t.lines.find? (lineKey dom (fabricVa off)) = some l' ∧
        l'.ws[j]? = some r.w ∧ bitAt l'.fe j = r.full ∧ (∀ n, n ≠ j → l'.ws[n]? = l.ws[n]?) ∧
        t.homeReqs = s.homeReqs ∧ t.replies = s.replies ∧ t.remoteGens = u.remoteGens ∧
        (r.res = .unready → park = true → ∃ w, t.watches.get (wordKey dom (fabricVa off) / 8) [] = [w] ∧
          w.word = wordKey dom (fabricVa off) ∧ w.dev = some src ∧ w.pid = p ∧ w.ctx = k ∧ w.gen = g))) ∧
  (∀ w front, let key := w.word / 8;
    let old := s.watches.get key [];
    let r := s.addWatch w false front;
    s.heapOn = false → s.dirUsed (s.sliceOf key) < 64 → r.2 = true ∧
      r.1 = { s with watches := s.watches.put key (if front then w :: old else old ++ [w]) }) ∧
  (exec (.fabricAccess .depart) s = .next { s with outbox := s.outbox.tail }) ∧
  (∀ p k g changing a b, let x := s.ctx p k;
    x.wait = some ⟨.word, a, b⟩ ∨ x.wait = some ⟨.far, a, b⟩ → x.live = true → x.gen.toNat = g →
      ∃ t, exec (.fabricAccess (.wake p k g changing)) s = .next t ∧ (t.ctx p k).wait = none ∧
        (t.ctx p k).ip = x.ip ∧ t.mem = s.mem ∧ (changing = true → (t.ctx p k).front = true)) ∧
  (∀ id r, let i := Instr.fabricAccess (.answer id r);
    (s.fabricReq id = none → exec i s = .next s ∧ (id < 2 ^ 64 → exec (.fabricTimeout id) s = .next s)) ∧
    (∀ q, s.fabricReq id = some q → q.chain = none →
      let answered := fun (i : Instr) (ans : Answer) => ∃ t m, exec i s = .next t ∧ t.mem = s.mem ∧
        t.homeReqs = s.homeReqs.erase q ∧ t.replies = s.replies ++ [m] ∧ m.id = q.id ∧ m.pid = q.pid ∧
        m.ctx = q.ctx ∧ m.gen = q.gen ∧ m.addr = q.va ∧ m.ans = ans
      answered i (match r with
        | .done v => .ok (answerValue q.op v)
        | .unready w => .unready (w && q.park)
        | .refused => .trap 6 q.va
        | .poisoned => .trap 0x0E q.va
        | .both v _ _ => .ok (answerValue q.op v)) ∧
      (q.ticks + 840000000 ≤ s.ticks → answered (.fabricTimeout id) (.trap 6 q.va)) ∧
      (s.ticks < q.ticks + 840000000 → exec (.fabricTimeout id) s = .next s)) ∧
    (∀ q h run, s.fabricReq id = some q → q.chain = some h → (s.chain h).run = some run →
      (r = .refused → ∃ t u, exec i s = .next t ∧ (t.chain h).run = some u ∧ u.fault = some (6, q.va)) ∧
      (∀ v a m f p, r = .done v → q.op = .put a m f p → ∃ t u, exec i s = .next t ∧
        (t.chain h).run = some u ∧ u.fault = run.fault ∧ ∀ n, n ∈ u.acks ↔ n ∈ run.acks ∧ n ≠ q.id))) ∧
  ∀ p seq e, let c := s.core p;
    c.sbuf.find? (fun e => e.seq == seq) = some e → e.state = 1 → isFabric e.va = true →
    s.loopback e.va = none → s.storeBehind p e = false →
    let late := Instr.fabricTimeout (2 ^ 64 + p * 2 ^ 32 + seq)
    (seq < 2 ^ 32 → s.fabricReq (2 ^ 64 + p * 2 ^ 32 + seq) = none →
      (s.ticks < e.ticks + 840000000 → exec late s = .next s) ∧
      (e.ticks + 840000000 ≤ s.ticks → exec late s = exec (.fabricAccess (.storeAnswer p seq false)) s)) ∧
    (∃ t, exec (.fabricAccess (.storeAnswer p seq true)) s = .next t ∧ t.mem = s.mem ∧
      (t.core p).sbuf = c.sbuf.filter fun f => f.seq != seq) ∧
    (c.evqEn = false → (c.ctx e.ctx).live = true → (c.ctx e.ctx).gen.toNat = e.gen → c.finishing = none →
      ∃ t, exec (.fabricAccess (.storeAnswer p seq false)) s = .next t ∧
        (t.core p).sbuf = c.sbuf.map (fun f => if f.seq = e.seq then { f with state := 3, cause := 0x0C } else f) ∧
        (t.ctx p e.ctx).held = (s.ctx p e.ctx).held ++ [e.trap 0x0C])

/-- R369–R376, R381–R383, R405, R410, R411, R435, R475, R510, R511, R520: a doorbell puts TAIL into the descriptor, and
leaves a poisoned word poisoned; a TAIL
past a full ring stops the queue. The head packet of the queue whose turn it is starts when its checks
pass: HEAD advances, and the packet does what its kind says. A packet that breaks a
rule stops the queue with its code, as does a damaged slot whose sound words break one; else its code is 04h, and HEAD
advances. A checkpoint streams flits with their poison, and ends once its length is written. A packet completes with
its signal once its work is done.
Clauses that follow the model's own choices rest on log entries 57, 59, 68, 77, 104 and 116. -/
def Obligations.QueueEvents : Prop := ∀ (q : Nat) (s : State),
  let kinds : List (Instr × Nat) := [(.launchPacket q, 1), (.copyPacket q, 2), (.signalPacket q, 3),
    (.waitPacket q, 4), (.wfillPacket q, 5), (.markerPacket q, 6), (.ckptPacket q, 7)]
  let head := s.qHead q;
  (∀ tail, (64 ≤ q → exec (.doorbellWrite q tail) s = .next s) ∧
    (q < 64 → Unwatched s → Noted s (s.descVa q 4) → ∃ t, exec (.doorbellWrite q tail) s = .next t ∧
      t.mem = s.mem ∧ Stored s t (s.descVa q 4) (setFld (s.desc q 4) 0 32 tail) ∧
      ∀ pa, s.rawAddr (s.descVa q 4) = some pa → ∃ l, t.lines.find? (lineKey 0 (s.descVa q 4)) = some l ∧ ∀ j, j < 8 →
        bitAt l.poison j = bitAt (s.lineOrMem (lineKey 0 (s.descVa q 4)) (pa / 64 * 64)).poison j)) ∧
  (s.qState q = 1 → s.qSize q < (s.qTail q + 2 ^ 32 - head) % 2 ^ 32 →
    exec (.tailCheck q) s = .next (s.queueFault q 5 head 0 0 0 0 0 0 0 2)) ∧
  (s.qState q ≠ 1 ∨ (s.qTail q + 2 ^ 32 - head) % 2 ^ 32 ≤ s.qSize q →
    exec (.tailCheck q) s = .next (s.touch (s.descVa q 4) false)) ∧
  (∀ e ∈ kinds, (∀ p ∈ s.cp.packets, p.q ≠ q) →
    (s.cp.reloading = true ∨ s.root.health = 3 → exec e.1 s = .next s) ∧
    (s.nextQueue ≠ some q → s.cp.reloading = false → s.root.health ≠ 3 → exec e.1 s = .next (s.look q).1 ∧
      (s.look q).1.cp = s.cp ∧ (s.look q).1.grids = s.grids ∧ (s.look q).1.chains = s.chains) ∧
    (s.nextQueue = some q → s.cp.reloading = false → s.root.health ≠ 3 →
      ∀ u ws bad, s.readSlot (s.qDom q) (s.slotVa q) = (u, .poisoned ws bad) →
        (bitAt bad 0 = true → u.damagedCode q ws bad = .done u 4) ∧
        (bitAt bad 0 = false → pkKind ws = 0 ∨ 8 ≤ pkKind ws → u.damagedCode q ws bad = .done u 1) ∧
        (∀ v, u.damagedCode q ws bad = .wait v → exec e.1 s = .next v) ∧
        (∀ v, u.damagedCode q ws bad = .done v 4 → exec e.1 s = .next
          ((v.putDesc q 3 (setFld (v.desc q 3) 0 32 (head + 1))).queueFault q 4 head 0 0 0 0 0 0 0 3)) ∧
        ∀ v code, u.damagedCode q ws bad = .done v code → code ≠ 4 →
          exec e.1 s = .next (v.queueFault q code head 0 0 0 0 0 0 0 2)) ∧
    ∀ ws u, Turn s u q ws →
      (∀ v code, u.pkCode q ws = .done v (some code) →
        exec e.1 s = .next (v.queueFault q code head 0 0 0 0 0 0 0 2)) ∧
      (∀ v, u.pkCode q ws = .wait v → exec e.1 s = .next v) ∧
      (∀ v, u.pkCode q ws = .done v none → pkKind ws ≠ e.2 → exec e.1 s = .next s)) ∧
  (∀ ws r u, Turn s r q ws → r.pkCode q ws = .done u none → Unwatched u → Noted u (u.descVa q 3) →
    let head := u.qHead q
    let advances := fun (u t : State) (ended : Bool) =>
      PacketTaken u t q ws ended ∧ Stored u t (u.descVa q 3) (setFld (u.desc q 3) 0 32 (u.qHead q + 1))
    (pkKind ws = 1 →
      (∀ v x, (∀ n, n < 8 → u.bpMatches q ws n = false) → u.launchTables (u.qDom q) ws = .done v x →
        (∀ e ∈ v.lines, keyHost e.1 = false) → Unwatched v → Noted v (v.descVa q 3) →
        ∃ t g, exec (.launchPacket q) s = .next t ∧
        advances v t false ∧ t.grids.find? v.nextId = some g ∧ t.nextId = v.nextId + 1 ∧ g.queue = q ∧
        g.types = x.1 ∧ g.binds = x.2 ∧
        g.pkt = v.qHead q ∧ g.dom = u.qDom q ∧ g.prio = v.qPrio q ∧ g.entry = BitVec.ofNat 64 (recW ws 1) ∧
        g.arg = BitVec.ofNat 64 (recW ws 2) ∧ g.size = recF ws 0 16 8 + 1 ∧ g.teams = recF ws 0 24 24 + 1 ∧
        g.dies = recF ws 0 8 8 ∧ g.next = 0 ∧ g.stopAtStart = false) ∧
      (∀ n, n < 8 → u.bpMatches q ws n = true → u.bpAct n = 0 → (q, head) ∉ u.cp.released →
        ∃ t, exec (.launchPacket q) s = .next t ∧ t.grids = u.grids ∧ t.cp.packets = u.cp.packets ∧
          (t.bpc.get n 0).getLsbD 60 = true ∧ (q, head) ∈ t.cp.released)) ∧
    (pkKind ws = 2 → let h := recF ws 2 16 8 * 64 + 63;
      ∃ t r, exec (.copyPacket q) s = .next t ∧ advances u t false ∧
        (t.chain h).recs = (u.chain h).recs ++ [r] ∧ r.ctx = q ∧ r.gen = head ∧ r.dom = u.qDom q ∧
        r.va = BitVec.ofNat 64 (recW ws 1) ∧ r.more = recF ws 2 0 16 ∧ r.advanced = true ∧
        r.num = (u.chain h).seq + 1 ∧ (t.chain h).seq = (u.chain h).seq + r.more + 1 ∧
        (t.chain h).stopped = false) ∧
    (pkKind ws = 3 → ∃ t, exec (.signalPacket q) s = .next t ∧ advances u t true ∧ t.mem = u.mem) ∧
    (pkKind ws = 4 → (∀ e ∈ u.lines, keyHost e.1 = false) → ∃ t, exec (.waitPacket q) s = .next t ∧
      advances u t true ∧ t.mem = u.mem ∧ ∀ p key, keyHost key = true → keyDom key = u.qDom q →
        (t.core p).icache.find? key = none ∧ ∀ j, j < 8 → (t.core p).dcache.find? (8 * key + j) = none) ∧
    (pkKind ws = 5 → let d := recF ws 2 0 3;
      ∃ t, exec (.wfillPacket q) s = .next t ∧ advances u t false ∧
        (t.die d).filling = (u.die d).filling ++ [q * 2 ^ 32 + head] ∧ t.mem = u.mem) ∧
    (pkKind ws = 6 → ∃ t r l, exec (.markerPacket q) s = .next t ∧ t.cp.packets = u.cp.packets ++ [r] ∧
      r.q = q ∧ r.ws = ws ∧ r.ended = true ∧
      (t.msix = if bitAt (recW ws 0) 6 then setAdd u.msix q else u.msix) ∧
      (∀ pa, u.rawAddr (u.descVa q 6) = some pa → Noted u (u.descVa q 6) → (u.descVa q 0).toNat % 64 = 0 →
        (u.lineOrMem (lineKey 0 (u.descVa q 6)) (pa / 64 * 64)).ws.length = 8 →
        t.lines.find? (lineKey 0 (u.descVa q 6)) = some l ∧ l.ws[6]? = some (BitVec.ofNat 64 (recW ws 1)))) ∧
    (pkKind ws = 7 → ∃ t, exec (.ckptPacket q) s = .next t ∧ advances u t false ∧ t.mem = u.mem ∧
      ∀ e ∈ u.root.parts, bitAt (recW ws 2) e.1 = true → ∀ p ∈ e.2.cores, (t.core p).stopped = true ∧
        ((u.core p).stopped = false → (t.core p).stopReason = 3))) ∧
  (∀ p, s.cp.packets = [p] → p.q = q → p.ended = false →
    (∀ l, let d := recF p.ws 2 0 3;
      let key := q * 2 ^ 32 + p.idx;
      let fill := s.fillStore (s.qDom q) d (BitVec.ofNat 64 (recW p.ws 1)) (recW p.ws 3) (recW p.ws 4 / 8);
      let waits := ∃ t, exec (.wfillPacket q) s = .next t ∧ t.cp.packets.head? = some p ∧
        (t.die d).filling.head? = some key;
      pkKind p.ws = 5 → (s.die d).filling = key :: l →
      ((∃ e ∈ s.teams, e.2.die = d ∧ e.2.swapped = false) → waits) ∧
      ((∀ e ∈ s.teams, e.2.die = d → e.2.swapped = true) →
        (∀ u, fill = .wait u → waits) ∧
        ∀ u, fill = .done u () → u.cp = s.cp → u.die d = s.die d →
          ∃ t, exec (.wfillPacket q) s = .next t ∧ t.mem = u.mem ∧ (t.die d).filling = l ∧
            t.cp.packets = [{ p with ended := true }])) ∧
    (pkKind p.ws = 7 → let cs := (s.partsOf (recW p.ws 2)).flatMap (fun e => e.2.cores);
      (recF p.ws 1 12 16 &&& s.pup.toNat ≠ 0 → s.coresDrained cs = false →
        exec (.ckptPacket q) s = .next s) ∧
      let doneVa := BitVec.ofNat 64 (recW p.ws 5);
      let u := s.writeBackAll fun key => !keyHost key;
      let fs := u.ckptFrames (s.partsOf (recW p.ws 2));
      let fl := u.streamFlits (recW p.ws 2) fs;
      let ends := fun (v : State) (len : Nat) =>
        (∀ x, v.writePiece (v.qDom q) doneVa (BitVec.ofNat 64 len) false = (x, false) →
          exec (.ckptPacket q) s = .next (s.asked x)) ∧
        (∀ x, v.writePiece (v.qDom q) doneVa (BitVec.ofNat 64 len) false = (x, true) → x.cp = s.cp →
          ∃ t, exec (.ckptPacket q) s = .next t ∧ t.cp.packets = [{ p with ended := true }] ∧ t.mem = x.mem ∧
            t.lines = x.lines ∧ t.outbox = x.outbox ∧
            ∀ c ∈ cs, (x.core c).stopReason = 3 → (t.core c).stopped = false);
      (recF p.ws 1 12 16 &&& s.pup.toNat = 0 → ends s (2 ^ 64 - 1)) ∧
      (recF p.ws 1 12 16 &&& s.pup.toNat ≠ 0 → s.coresDrained cs = true →
        (∀ v, u.writeStream p fl = .wait v → exec (.ckptPacket q) s = .next (s.asked v)) ∧
        (∀ v, u.writeStream p fl = .done v () → ends v (64 * fl.length))) ∧
      fl.head? = some ([1 + s.fabn.toNat * 2 ^ 16 + fs.length % 2 ^ 32 * 2 ^ 32, recW p.ws 2, 0, 0, 0, 0, 0, 0], 0) ∧
      (recF p.ws 1 0 12 ≠ u.fabn.toNat → 64 * fl.length ≤ recW p.ws 4 →
        u.writeStream p fl = .done { u with outbox := u.outbox ++ fl.zipIdx.map fun e =>
          { dev := recF p.ws 1 0 12, off := some (recF p.ws 3 0 44 + 64 * e.2)
            ws := e.1.1.map (BitVec.ofNat 64), poison := e.1.2 } } ()))) ∧
  ∀ idx, (s.cp.packets.find? (fun p => p.q == q && p.idx == idx) = none →
      exec (.packetCompletion q idx) s = .next s) ∧
    ∀ p, s.cp.packets.find? (fun p => p.q == q && p.idx == idx) = some p →
      (p.ended = false → s.copyDone p = false → exec (.packetCompletion q idx) s = .next s) ∧
      (p.ended = true ∨ s.copyDone p = true →
        let va := BitVec.ofNat 64 (s.desc q 2 + 8 * recF p.ws 7 0 13);
        let key := lineKey (s.qDom q) va;
        (pkSig p.ws = false → ∃ t, exec (.packetCompletion q idx) s = .next t ∧
          t = { s with cp := t.cp } ∧ t.cp.packets = s.cp.packets.erase p) ∧
        (∀ u, pkSig p.ws = true → s.xlate (s.qDom q) va rA = (u, .absent) →
          exec (.packetCompletion q idx) s = .next u) ∧
        (∀ pa l, pkSig p.ws = true → va.toNat % 8 = 0 →
          s.xlate (s.qDom q) va rA = (s, .ok pa) → s.lines.find? key = some l → l.ws.length = 8 →
          Settled s va → bitAt l.poison (va.toNat / 8 % 8) = false →
          ∃ t l', exec (.packetCompletion q idx) s = .next t ∧ t.cp.packets = s.cp.packets.erase p ∧
            t.lines.find? key = some l' ∧ l'.ws[va.toNat / 8 % 8]? =
              some ((l.ws[va.toNat / 8 % 8]?).getD 0 + BitVec.ofNat 64 (recF p.ws 7 32 32))))

/-! ### Dispatch, swap, moves, failure -/

/-- R43, R46, R51–R57, R282, R376, R377, R379, R380, R382, R440, R458–R460, R512, R526, R527: a round places the head
whose turn it is, and context 0 of every rank of a new team stands at its entry. At a quantum end a head
that does not fit is counted, and makes the swappable team of lowest PRIO, longest resident, stop for its
swap; the first end after a WFILL began makes every swappable team of its die stop, and later ones none. A stopped and
drained team leaves its cores; at the head of its queue it comes back. A move stops
its core and reserves the target, and then the rank's registers and permission entries stand there; where no core can
take the rank, its whole team stops for a swap. A failed team is gone. The
dispenser grants records at its floor rate, and a lost record is gone and told.
Clauses that follow the model's own choices rest on log entries 63, 64, 65, 66 and 67. -/
def Obligations.DispatchEvents : Prop := ∀ (die : Nat) (s : State),
  let placed := fun (die : Nat) (h : Head) (q : Nat) (u : State) => u.setDie die { u.die die with
    lastQ := (u.die die).lastQ.put (s.headPrio h) q, misfits := (u.die die).misfits.del q }
  (8 ≤ die ∨ s.nextHead die = none → exec (.dispatchRound die) s = .next s) ∧
  (∀ q h u, die < 8 → s.nextHead die = some q → s.headOf die q = some h →
    (s.startHead die q = .placed u → exec (.dispatchRound die) s = .next (placed die h q u)) ∧
    (s.startHead die q = .wait u → exec (.dispatchRound die) s = .next u)) ∧
  (∀ gid g u, s.grids.find? gid = some g → s.startTeam die gid = .placed u → Unwatched s →
    ∃ tm, u.teams.find? s.nextId = some tm ∧ u.nextId = s.nextId + 1 ∧ tm.grid = gid ∧ tm.number = g.next ∧
      tm.die = die ∧ tm.size = g.size ∧ tm.map.length = g.size ∧ tm.swapped = false ∧
      u.grids.find? gid = some { g with next := g.next + 1, lastDie := some die } ∧
      (tm.map.Nodup → ∀ r p, tm.map[r]? = some p → (u.core p).team = some s.nextId ∧ (u.core p).rank = r ∧
        (u.core p).dom = g.dom ∧ (u.core p).tvec = s.cp.tvecs.get g.dom 0 ∧ (u.core p).sems = [] ∧ (∀ off, u.isFull (lsAddr p off) = true) ∧ (u.ctx p 0).live = true ∧ (u.ctx p 0).ip = g.entry ∧
        (u.ctx p 0).reg 1 = g.arg ∧ (u.ctx p 0).mode = false ∧
        (u.ctx p 0).stop = if g.stopAtStart then some 2 else none)) ∧
  (8 ≤ die ∨ s.cp.reloading = true ∨ s.quantumOver die = false → exec (.quantumEnd die) s = .next s) ∧
  (∀ q h v tm k, die < 8 → s.cp.reloading = false → s.quantumOver die = true → q < 64 →
    s.headOf die q = some h → (∀ j, j ≠ q → s.headOf die j = none) → (s.placeHead die h).fits = false →
    (s.die die).filling = [] → s.victim die (s.headPrio h) = some v → s.teams.find? v = some tm →
    s.swappable tm = some k →
    ∃ t, exec (.quantumEnd die) s = .next t ∧ t.mem = s.mem ∧ (t.die die).since = s.ticks ∧
      (t.die die).misfits.find? q = some (s.headKey h, s.misses die q + 1) ∧
      t.teams.find? v = some { tm with slot := some k } ∧
      (∀ p ∈ tm.map, (t.core p).stopped = true ∧ (t.core p).stopReason = 1) ∧
      ∀ p, p ∉ tm.map → (t.core p).stopped = (s.core p).stopped) ∧
  (die < 8 → s.cp.reloading = false → s.quantumOver die = true → (s.die die).filling ≠ [] →
    ((s.die die).emptied = true → ∃ t, exec (.quantumEnd die) s = .next t ∧ t.cores = s.cores ∧ t.teams = s.teams) ∧
    (∀ v tm k, (s.die die).emptied = false → s.residents die = [(v, tm)] → s.teams.find? v = some tm →
      s.swappable tm = some k → ∃ t, exec (.quantumEnd die) s = .next t ∧ (t.die die).emptied = true ∧
        t.teams.find? v = some { tm with slot := some k } ∧
        ∀ p ∈ tm.map, (t.core p).stopped = true ∧ (t.core p).stopReason = 1)) ∧
  (∀ pr v, s.victim die pr = some v → ∃ tm, (v, tm) ∈ s.residents die ∧ s.teamPrio tm ≤ pr ∧
    ∀ e ∈ s.residents die, s.swappable e.2 ≠ none → s.teamPrio e.2 ≤ pr →
      s.teamPrio tm < s.teamPrio e.2 ∨ s.teamPrio tm = s.teamPrio e.2 ∧ tm.since ≤ e.2.since) ∧
  (∀ tid tm g k, s.teams.find? tid = some tm → s.grids.find? tm.grid = some g → tm.slot = some k →
    (tm.swapped = true ∨ s.ranksDrained tm.map = false ∨
      (∃ p ∈ tm.map, (s.core p).stopped = false ∨ (s.core p).stopReason ≠ 1) →
      exec (.wholeTeamSwap tid) s = .next s) ∧
    (tm.swapped = false → s.ranksDrained tm.map = true →
      (∀ p ∈ tm.map, (s.core p).stopped = true ∧ (s.core p).stopReason = 1) →
      let saved := (tm.map.foldl State.cancelHomes (s.queueAll tm.map)).saveAll tid g k tm.map.zipIdx
      (∀ u, saved = .done u () → ∃ t sv, exec (.wholeTeamSwap tid) s = .next t ∧ t.mem = u.mem ∧
        (∀ p ∈ tm.map, (t.core p).team = none ∧ (t.core p).stopped = false) ∧ sv.length = tm.map.length ∧
        t.teams.find? tid = some { tm with swapped := true, saved := sv, outAt := u.nextId }) ∧
      (∀ u, saved = .wait u → exec (.wholeTeamSwap tid) s = .next ((s.queueAll tm.map).asked u)) ∧
      (∀ u, saved = .fail u → exec (.wholeTeamSwap tid) s = .next u)) ∧
    (s.headOf tm.die g.queue ≠ some (.back tid) ∨ s.nextHead tm.die ≠ some g.queue →
      exec (.swapIn tid) s = .next s) ∧
    (∀ u, s.headOf tm.die g.queue = some (.back tid) → s.nextHead tm.die = some g.queue →
      (s.startHead tm.die g.queue = .placed u →
        exec (.swapIn tid) s = .next (placed tm.die (.back tid) g.queue u)) ∧
      (s.startHead tm.die g.queue = .wait u → exec (.swapIn tid) s = .next u)) ∧
    (∀ p old sv b, Unwatched s → tm.map = [old] → tm.saved = [sv] → let u := s.restoreTeam tid tm [p] [b];
      u.teams.find? tid = some { tm with
        map := [p], swapped := false, saved := [], slot := none, since := s.ticks } ∧
      (u.core p).team = some tid ∧ (u.core p).rank = sv.core.rank ∧ (u.core p).sems = b.sems ∧
      (u.core p).cyc = (s.core p).cyc ∧ (u.core p).clk = (s.core p).clk ∧ (u.core p).perms = (s.core p).perms ∧
      ∀ j r, (u.ctx p j).reg r = (sv.core.ctx j).reg r ∧ (u.ctx p j).ip = (sv.core.ctx j).ip)) ∧
  (∀ p, let c := s.core p;
    (c.team = none ∨ (∃ tm, s.teamOf p = some tm ∧ tm.slot ≠ none) ∨ c.migrate ≠ none ∨ s.moveOf p ≠ none →
      exec (.migrationRequest p) s = .next s) ∧
    (c.team ≠ none → (∀ tm, s.teamOf p = some tm → tm.slot = none) → c.migrate = none → s.moveOf p = none →
      exec (.migrationRequest p) s = .next (s.setCore p { c with migrate := some s.ticks })) ∧
    (∀ tid tm g, c.team = some tid → s.teams.find? tid = some tm → s.grids.find? tm.grid = some g →
      (∀ target k, s.moveOf p = none → c.stopped = false → dieOf target = dieOf p → g.freeSlot = some k →
        target ∈ s.candidates p → ∃ t, exec (.spatialPreEmption p target) s = .next t ∧ t.mem = s.mem ∧
          (t.core p).stopped = true ∧ (t.core p).stopReason = 2 ∧ (t.core target).reserved = some (p, k) ∧
          (t.core target).watts = c.watts) ∧
      (∀ target k, (∀ q, (s.core q).reserved = none) → c.stopped = false → dieOf target = dieOf p →
        s.candidates p = [] → s.swappable tm = some k →
        ∃ t, exec (.spatialPreEmption p target) s = .next t ∧ t.mem = s.mem ∧
          t.teams.find? tid = some { tm with slot := some k } ∧
          ∀ r ∈ tm.map, (t.core r).stopped = true ∧ (t.core r).stopReason = 1) ∧
      (∀ target at_ k, s.moveOf p = some (at_, k) →
        (c.stopped = false ∨ c.stopReason ≠ 2 ∨ s.ranksDrained [p] = false →
          exec (.spatialPreEmption p target) s = .next s) ∧
        (∀ u v b, c.stopped = true → c.stopReason = 2 → s.ranksDrained [p] = true → at_ ≠ p → Unwatched s →
          ((s.queueAll [p]).cancelHomes p).saveRank g k c.rank p = .done u () →
          u.loadRank g k c.rank (u.poisonedWords p) = .done v b →
          ∃ t, exec (.spatialPreEmption p target) s = .next t ∧ (t.core p).team = none ∧
            (t.core at_).team = some tid ∧ (t.core at_).rank = c.rank ∧ (t.core at_).perms = c.perms ∧
            t.teams.find? tid = some { tm with map := tm.map.set c.rank at_ } ∧
            ∀ j r, (t.ctx at_ j).reg r = (c.ctx j).reg r ∧ (t.ctx at_ j).ip = (c.ctx j).ip)) ∧
      (s.root.parts = [] → ∃ t g', exec (.teamFailure p) s = .next t ∧ t.teams.find? tid = none ∧
        t.grids.find? tm.grid = some g' ∧ g'.failed = true ∧ g.queue ∈ t.msix ∧
        (tm.swapped = false → ∀ r ∈ tm.map, (t.core r).team = none))) ∧
    (c.team = none → exec (.teamFailure p) s = .next s)) ∧
  (let d := s.dispenser die;
    (∃ t, exec (.dispenserFloor die) s = .next t ∧ (t.dispenser die).recs = d.recs ∧ t.mem = s.mem ∧
      ∀ e ∈ s.grids, (∃ r ∈ d.recs, r.grid = e.1) → s.allWithheld e.1 = true → e.1 ∉ d.grant →
        (∀ n, d.floor.find? e.1 = some n → n + 64 * 840000 ≤ s.ticks) →
        e.1 ∈ (t.dispenser die).grant ∧ (t.dispenser die).floor = d.floor) ∧
    ∀ idx lost, (d.recs[idx]? = none → exec (.dispenserEntryError die idx lost) s = .next s) ∧
      ∀ r, d.recs[idx]? = some r → (∀ p, (s.core p).posts = []) → ∃ t,
        exec (.dispenserEntryError die idx lost) s = .next t ∧
        (t.dispenser die).recs = d.recs.eraseIdx idx ∧
        (∀ g, s.grids.find? r.grid = some g → g.queue ∈ t.msix) ∧
        ∀ p k, k < 16 → dieOf p = die → (∃ a b, (s.ctx p k).wait = some ⟨.busy 1, a, b⟩) →
          (t.ctx p k).wait = none)

/-! ### Power -/

/-- R384, R385, R412–R420, R422, R424, R484, R513, R519, R521: a window boundary lowers ACT and gives the reservations. A
GRANT that raises takes effect at once, one that lowers at its time T, and a change of it is recorded in the ring;
leases move tokens both ways and
end at theirs; when the budgets pass A each is scaled. A zone whose draw passes its budget is spent, and
its clocks fall, as they do above its threshold; with room they rise. Energy and cache counts are added at their words,
the energy of an interval to the domain that a core or job worked for then.
Clauses that follow the model's own choices rest on log entries 69, 70, 72 and 95. -/
def Obligations.PowerEvents : Prop := ∀ s : State,
  let w := s.power;
  let sent := fun (t : State) (kind dst tok : Nat) (T : Word) (id : Nat) => t.outbox = s.outbox ++ [{
    dev := dst, off := none
    ws := [BitVec.ofNat 64 (tok % 65536 * 2 ^ 28 + dst % 4096 * 2 ^ 16 + s.fabn.toNat * 16 + kind), T,
      BitVec.ofNat 64 id, 0, 0, 0, 0, 0] }]
  let scaled := fun (t : State) => ∀ z, z < 128 → (t.zone z).budget =
    if (s.budgets : Int) ≤ t.power.avail then (s.zone z).budget
    else BitVec.ofNat 16 (if t.power.avail < 0 then 0
      else (s.zone z).budget.toNat * t.power.avail.toNat / s.budgets)
  let told := fun (u : State) (tok : Nat) => if tok = w.grant then u else u.event 3 none none (some tok)
  (s.ticks < (s.window + 1) * 840000 → exec .rampWindowBoundary s = .next s) ∧
  ((s.window + 1) * 840000 ≤ s.ticks → ∃ t, exec .rampWindowBoundary s = .next t ∧ t.mem = s.mem ∧
    t.window = s.window + 1 ∧
    (∀ z x, s.zones.find? z = some x → ∃ y, t.zones.find? z = some y ∧
      y.act = max x.r (x.act - (if x.rdn = 0 then 65536 else x.rdn.toNat)) ∧ y.r = 0 ∧ y.held = false ∧
      y.refused.map (·.units) = x.refused.map (·.units) ∧
      (∀ r l, x.refused = r :: l → (y.refused.head?.map (·.reserved)) = some true ∧
        (y.refused.filter (·.reserved) = [{ r with reserved := true }] ∨
          ((y.refused.filter (·.reserved)).map (·.units)).sum ≤ y.act + x.rup.toNat))) ∧
    ∀ p k, k < 16 → (∃ a b, (s.ctx p k).wait = some ⟨.withheld 0, a, b⟩) → (t.ctx p k).wait = none) ∧
  (∀ (w0 w1 : Word) (now : Nat), let i := Instr.grant w0 w1 now
    let tok := fld w0.toNat 28 16
    let T := w1.toNat;
    (fld w0.toNat 0 4 ≠ 1 ∨ fld w0.toNat 16 12 ≠ s.fabn.toNat → exec i s = .next s) ∧
    (fld w0.toNat 0 4 = 1 → fld w0.toNat 16 12 = s.fabn.toNat →
      (w.grant ≤ tok →
        exec i s = .next (told { s with power := { w with lastGrant := s.ticks, grant := tok } } tok)) ∧
      (tok < w.grant → now < T → exec i s = .next { s with power := { w with
        lastGrant := s.ticks
        pending := w.pending ++ [⟨tok, s.ticks + 840000 * (T - now), decide (T < now + 10000)⟩] } }) ∧
      (tok < w.grant → T ≤ now → ∃ t, exec i s = .next t ∧ t.power.grant = tok ∧
        t.power.pending = w.pending ∧ scaled t))) ∧
  ((∀ p ∈ w.pending, s.ticks < p.due) → exec .grantEffective s = .next s) ∧
  (∀ p l, w.pending = p :: l → p.due ≤ s.ticks → p.tok < w.grant → ∃ t, exec .grantEffective s = .next t ∧
    t.power.grant = p.tok ∧ t.power.pending = l ∧ scaled t) ∧
  (∀ (w0 w1 w2 rest : Word) (now : Nat), let i := Instr.lend w0 w1 w2 rest now
    let src := fld w0.toNat 4 12
    let dst := fld w0.toNat 16 12
    let tok := fld w0.toNat 28 16
    let id := w2.toNat % 2 ^ 32
    let T := w1.toNat
    let due := s.ticks + 840000 * (T - now);
    (fld w0.toNat 0 4 ≠ 2 ∨ rest ≠ 0 ∨ src ≠ s.fabn.toNat ∧ dst ≠ s.fabn.toNat → exec i s = .next s) ∧
    (fld w0.toNat 0 4 = 2 → rest = 0 →
      (src = s.fabn.toNat →
        let fits := w.lent + tok ≤ w.lmax.toNat ∧ (s.budgets : Int) + tok ≤ w.avail ∧ w.lentLeases.length < 15 ∧
          now < T ∧ T ≤ now + 1000 * w.lease.toNat
        (fits → ∃ t l, exec i s = .next t ∧ t = { s with power := t.power, outbox := t.outbox } ∧
          t.power.lent = w.lent + tok ∧ t.power.lentLeases = w.lentLeases ++ [l] ∧ l.tok = tok ∧ l.due = due ∧
          l.id ≠ 0 ∧ (∀ m ∈ w.lentLeases, m.id ≠ l.id) ∧ sent t 2 dst tok w1 l.id) ∧
        (¬ fits → exec i s = .next s)) ∧
      (src ≠ s.fabn.toNat → dst = s.fabn.toNat →
        (now < T → w.borrowed + tok ≤ w.bmax.toNat → exec i s = .next { s with power := { w with
          borrowed := w.borrowed + tok, heldLeases := w.heldLeases ++ [⟨src, id, tok, due, w1, src⟩] } }) ∧
        (T ≤ now ∨ w.bmax.toNat < w.borrowed + tok → ∃ t, exec i s = .next t ∧
          t = { s with outbox := t.outbox } ∧ sent t 3 src tok w1 id)))) ∧
  (let gone := fun (i : Instr) (l : Lease) (t : State) => exec i s = .next t ∧
      t.power.borrowed = w.borrowed - l.tok ∧
      t.power.heldLeases = w.heldLeases.erase l ∧ t.power.grant = w.grant ∧ t.power.lent = w.lent ∧ scaled t
    let closed := fun (l : Lease) => { s with power := { w with
      lent := w.lent - l.tok, lentLeases := w.lentLeases.erase l } }
    (∀ w0 w2 : Word, let i := Instr.returnLease w0 w2
      let src := fld w0.toNat 4 12
      let dst := fld w0.toNat 16 12
      let id := w2.toNat % 2 ^ 32;
      (fld w0.toNat 0 4 ≠ 3 ∨ src ≠ s.fabn.toNat ∧ dst ≠ s.fabn.toNat → exec i s = .next s) ∧
      (∀ l, fld w0.toNat 0 4 = 3 → src ≠ s.fabn.toNat → dst = s.fabn.toNat →
        w.lentLeases.find? (fun l => l.id == id) = some l → exec i s = .next (closed l)) ∧
      (∀ l, fld w0.toNat 0 4 = 3 → src = s.fabn.toNat →
        w.heldLeases.find? (fun l => l.src == dst && l.id == id) = some l →
        ∃ t, gone i l t ∧ sent t 3 l.src l.tok l.t l.id)) ∧
    ∀ src id,
    (∀ l, w.heldLeases = [l] → l.src = src → l.id = id →
      (l.due ≤ s.ticks → ∃ t, gone (.leaseExpiry src id) l t ∧ t.outbox = s.outbox) ∧
      (s.ticks < l.due → exec (.leaseExpiry src id) s = .next s)) ∧
    (∀ l, w.lentLeases = [l] → l.id = id →
      (l.due + 840000000 ≤ s.ticks → exec (.leaseRegain id) s = .next (closed l)) ∧
      (s.ticks < l.due + 840000000 → exec (.leaseRegain id) s = .next s))) ∧
  (s.ticks < w.lastGrant + 840000000000 → exec .grantTimeout s = .next s) ∧
  (w.lastGrant + 840000000000 ≤ s.ticks → ∃ t, exec .grantTimeout s = .next t ∧
    t.power.grant = min w.grant 3600 ∧ (3600 < w.grant → scaled t) ∧ (w.grant ≤ 3600 → t = s)) ∧
  (∀ zone watts, 128 ≤ zone → exec (.zoneDrawUpdate zone watts) s = .next s) ∧
  (∀ zone watts, zone < 128 → let z := s.zone zone;
    ∃ t, exec (.zoneDrawUpdate zone watts) s = .next t ∧ t.mem = s.mem ∧ (t.zone zone).draw = watts ∧
      (t.zone zone).budget = z.budget ∧
      (z.budget.toNat < watts → (t.zone zone).spent = true ∧
        (t.zone zone).spentAt = if z.spent then z.spentAt else s.ticks) ∧
      (16 * watts ≤ 15 * z.budget.toNat → watts ≤ z.budget.toNat → (t.zone zone).spent = false) ∧
      (watts ≤ z.budget.toNat → 15 * z.budget.toNat < 16 * watts → (t.zone zone).spent = z.spent) ∧
      ∀ y, y ≠ zone → t.zone y = s.zone y) ∧
  (∀ zone, let z := s.zone zone;
    let lower := sextInt z.wthr.toNat 16 < s.zoneTemp zone ∨ z.spent = true ∧ z.spentAt + 840000000 ≤ s.ticks ∨
      z.urgent = true ∧ z.budget.toNat < z.draw
    (128 ≤ zone → exec (.clockAdjust zone) s = .next s) ∧
    (zone < 128 → ∃ t, exec (.clockAdjust zone) s = .next t ∧ ∀ p, let c := s.core p
      { t.core p with clk := c.clk } = c ∧
      (p ∈ zoneTiles zone → lower → (t.core p).clk = if z.nmin.toNat < c.clk then c.clk - 1 else c.clk) ∧
      (p ∈ zoneTiles zone → ¬ lower → 4 * z.draw ≤ 3 * z.budget.toNat →
        (t.core p).clk = if c.clk < z.nmax.toNat ∧ c.clkHeld = false then c.clk + 1 else c.clk) ∧
      (p ∉ zoneTiles zone ∨ ¬ lower ∧ 3 * z.budget.toNat < 4 * z.draw → t.core p = c))) ∧
  (∀ p n, let c := s.core p;
    (isCore p = true → 1 ≤ n → n ≤ 8 → c.clkHeld = false →
      exec (.clockChange p n) s = .next (s.setCore p { c with clk := n })) ∧
    (isCore p = false ∨ n = 0 ∨ 8 < n ∨ c.clkHeld = true → exec (.clockChange p n) s = .next s)) ∧
  (∀ (zone : Nat) (v : Word), zone < 128 → let z := s.zone zone;
    let lo := fld v.toNat 32 4;
    let hi := fld v.toNat 36 4;
    (∃ t, exec (.zoneBudgetWrite zone v) s = .next t ∧ (∀ y, y ≠ zone → t.zone y = s.zone y) ∧
      (t.zone zone).nmin.toNat = (if 1 ≤ lo ∧ lo ≤ hi ∧ hi ≤ 8 then lo else z.nmin.toNat) ∧
      (t.zone zone).nmax.toNat = (if 1 ≤ lo ∧ lo ≤ hi ∧ hi ≤ 8 then hi else z.nmax.toNat) ∧
      (t.zone zone).budget = (if ((s.budgets - z.budget.toNat + v.toNat % 65536 : Nat) : Int) ≤ w.avail
        then v.setWidth 16 else z.budget)) ∧
    let x := { z with share := v.setWidth 8, floor := (v >>> 24).setWidth 8 }
    let e := fun (z : Zone) => ({ z with need := s.needHeld zone } : Zone).share'
    exec (.flowShareWrite zone v) s =
      .next (if s.shares - e z + e x ≤ 256 then s.setZone zone x else s)) ∧
  (∀ cores jobs ballast base upkeep, let i := Instr.energyBooking cores jobs ballast base upkeep
    let idle := ((cores.filter fun e => (s.core e.1).team.isNone).map (·.2)).sum
    let spare := ((jobs.filter fun e => (s.jobDom e.1).isNone).map (·.2)).sum
    let reserve := fun (idle spare : Nat) (t : State) => t.power.idle = (w.idle + idle) % 2 ^ 64 ∧
      t.power.hke = (w.hke + (upkeep + spare)) % 2 ^ 64 ∧ t.power.ran = [] ∧ t.cacheCnt = s.cacheCnt;
    (w.ebase = 0 → w.ran = [] → ∃ t, exec i s = .next t ∧ t.power.booked = [] ∧ reserve idle spare t ∧
      t.lines = s.lines) ∧
    (∀ p e, w.ebase = 0 → cores = [(p, e)] → jobs = [] → w.ran = [(ranCore p, none)] →
      ∃ t, exec i s = .next t ∧ reserve e 0 t) ∧
    (∀ h e, w.ebase = 0 → cores = [] → jobs = [(.copy h, e)] → w.ran = [(ranChain h, none)] →
      ∃ t, exec i s = .next t ∧ reserve 0 e t) ∧
    ∀ dom uj pa l, let va := w.ebase + BitVec.ofNat 64 (8 * dom);
      ((∃ p e, cores = [(p, e)] ∧ jobs = [] ∧ 0 < e ∧ uj = e + base ∧
          (w.ran = [] ∧ (s.core p).team ≠ none ∧ (s.core p).dom = dom ∨ w.ran = [(ranCore p, some dom)])) ∨
        (∃ j, cores = [] ∧ jobs = [(j, uj)] ∧ (w.ran = [] ∧ s.jobDom j = some dom ∨
          ∃ k, jobKey j = some k ∧ w.ran = [(k, some dom)]))) → ballast = [] →
      w.booked = [] → w.ebase ≠ 0 → va.toNat % 8 = 0 → s.xlate 0 va rA = (s, .ok pa) →
      s.lines.find? (lineKey 0 va) = some l → l.ws.length = 8 → Settled s va →
      bitAt l.poison (va.toNat / 8 % 8) = false → ∃ t l', exec i s = .next t ∧ t.power.booked = [] ∧ reserve 0 0 t ∧
        t.lines.find? (lineKey 0 va) = some l' ∧
        l'.ws[va.toNat / 8 % 8]? = some ((l.ws[va.toNat / 8 % 8]?).getD 0 + BitVec.ofNat 64 uj)) ∧
  ∀ die slice,
    (w.ebase = 0 ∨ (∀ e ∈ s.cacheCnt, e.1 / 65536 ≠ die * 64 + slice) →
      exec (.cacheCounterFlush die slice) s = .next s) ∧
    ∀ dom c x l, s.cacheCnt = [((die * 64 + slice) * 65536 + dom, c)] → dom < 65536 → w.ebase ≠ 0 →
      w.ebase.toNat % 64 = 0 →
      let va := w.ebase + BitVec.ofNat 64 (512 * 1024 + 64 * dom)
      isDevice va = true → s.xlates.find? (pageKey 0 va) = some x → hasRights x.rights rA = true → x.d = true →
      s.lines.find? (lineKey 0 va) = some l → l.ws.length = 8 → l.poison = 0 → Unwatched s →
      ∃ t l', exec (.cacheCounterFlush die slice) s = .next t ∧ t.cacheCnt = [] ∧
        t.lines.find? (lineKey 0 va) = some l' ∧
        ∀ (j n : Nat), [c.hit, c.miss, c.evown, c.dispo, c.wbk][j]? = some n →
          l'.ws[j]? = some ((l.ws[j]?).getD 0 + BitVec.ofNat 64 n)

/-! ### Coolant, spares, scrubbing, firmware, links, logs -/

/-- R13, R98, R404, R421, R422, R424, R513–R518, R520, R525: readings are kept, and a core at its
threshold holds 13h; a second reading above a zone's threshold brings 14h, three dry ones start the
evacuation of the channel, whose steps follow one another. The valve moves one step towards its flow. A
vacant cluster gives its number to a spare. A scrub marks uncorrectable words. Firmware is reloaded, ports
train and are lost, and the health word keeps its worst state. A core that has logged nothing for 2^18 − 1
cycles repeats its state; the drain writes a line of eight records, pads in the places that are left, and
counts it. The lifetime records are counted, by temperature every minute, and committed (R425, R426, R429,
R430, R436).
Clauses that follow the model's own choices rest on log entries 71, 73, 74, 75, 76, 80, 96 and 99. -/
def Obligations.CoolantAndPlatformEvents : Prop := ∀ (zone p : Nat) (s : State),
  let z := s.zone zone
  let live := fun (p : Nat) => (s.ctx p 0).live = true ∧ (s.core p).finishing = none
  let told := fun (t : State) (code : Nat) => ∀ p ∈ zoneTiles zone, (s.core p).team ≠ none → live p →
    ∃ x ∈ (t.ctx p 0).held, x.cause = 0x14 ∧ x.info = BitVec.ofNat 64 (code * 256 + zone)
  (∀ r, 128 ≤ zone → exec (.sensorReading zone r) s = .next s) ∧
  (∀ r, zone < 128 → ∃ t, exec (.sensorReading zone r) s = .next t ∧ (t.zone zone).flow = r.flow ∧
    (t.zone zone).valve = r.valve ∧ (t.zone zone).want = z.want ∧
    (t.zone zone).nGood = (if 45 * z.share' ≤ 4 * r.flow then z.nGood + 1 else 0) ∧
    (t.zone zone).offSince = (if 16 < r.valve - z.want ∨ 16 < z.want - r.valve then some (z.offSince.getD s.ticks)
      else none) ∧
    (t.zone zone).int = BitVec.ofInt 16 r.inT ∧ (t.zone zone).outt = BitVec.ofInt 16 r.outT ∧
    (∀ e ∈ (zoneTiles zone).zip r.cores, let c := s.core e.1
      let thr := sextInt c.tthr.toNat 16;
      (t.core e.1).temp = e.2 ∧ (thr + 160 ≤ e.2 → (t.core e.1).clk = 1) ∧
      (thr ≤ e.2 → c.hot = false → (1, e.1) ∈ t.cp.told) ∧
      (thr ≤ e.2 → (t.core e.1).hot = true ∧ (c.hot = false → live e.1 →
        ∃ x ∈ (t.ctx e.1 0).held, x.cause = 0x13 ∧ x.info = BitVec.ofNat 64 (toBits e.2 16)))) ∧
    (z.nIn = 1 → sextInt z.itrap.toNat 16 < r.inT → told t 1) ∧
    (r.inT ≤ sextInt z.itrap.toNat 16 → (t.zone zone).nIn = 0) ∧
    (z.nOut = 1 → sextInt z.otrap.toNat 16 < r.outT → told t 2) ∧
    (4 * r.flow < 5 * z.share' → 64 ≤ r.valve → z.nDry = 2 → z.step = 0 → z.retired = false →
      (t.zone zone).step = 1 ∧ told t 3) ∧
    (5 * z.share' ≤ 4 * r.flow ∨ r.valve < 64 → (t.zone zone).nDry = 0 ∧ (t.zone zone).step = z.step)) ∧
  (128 ≤ zone ∨ 3 ≤ z.step → exec (.valveStep zone) s = .next s) ∧
  (zone < 128 → z.step < 3 →
    let low := if ∀ p ∈ zoneTiles zone, (s.core p).gated = true then 0 else z.vmin
    let v := if 2 * z.flow < 25 * z.share' then max low (min 255 (z.want + 1))
      else if 25 * z.share' < 2 * z.flow then max low (z.want - 1) else max low z.want
    exec (.valveStep zone) s = .next (s.setZone zone { z with want := v, valve := v })) ∧
  (let due := zone < 128 ∧ z.offTold = false ∧ ∃ since, z.offSince = some since ∧ since + 8400000000 ≤ s.ticks;
    (¬ due → exec (.valveFault zone) s = .next s) ∧
    (due → ∃ t, exec (.valveFault zone) s = .next t ∧ told t 6 ∧ (t.zone zone).offTold = true ∧
      t.root.events = s.root.events + 1)) ∧
  (∀ more, let i := Instr.dryChannelEvacuation zone more
    let here := zoneTiles zone;
    (z.step = 0 ∨ 7 ≤ z.step → exec i s = .next s) ∧
    (z.step = 1 → ∃ t, exec i s = .next t ∧ (t.zone zone).evac = true ∧ (t.zone zone).step = 2) ∧
    (z.step = 2 → s.vacant here = true → ∃ t, exec i s = .next t ∧ (t.zone zone).valve = 0 ∧
      (t.zone zone).want = 0 ∧ (t.zone zone).step = 3 ∧ ∀ p ∈ here, (t.core p).gated = true) ∧
    (z.step = 3 → exec i s = .next (s.setZone zone { z with purge := true, step := 4 })) ∧
    (z.step = 4 → exec i s = .next (s.setZone zone { z with step := 5 })) ∧
    (z.step = 5 → exec i s = .next (s.setZone zone { z with
      purge := false, want := 255, valve := 255, step := 6, nGood := 0 })) ∧
    (z.step = 6 → 10 ≤ z.nGood → ∃ t, exec i s = .next t ∧ (t.zone zone).evac = false ∧
      (t.zone zone).step = 0 ∧ (∀ p ∈ here, (t.core p).gated = false) ∧ told t 4) ∧
    (z.step = 6 → z.nGood < 10 → more = true → exec i s = .next s) ∧
    (z.step = 6 → z.nGood < 10 → more = false → z.fails < 2 →
      exec i s = .next (s.setZone zone { z with want := 0, valve := 0, step := 3, fails := z.fails + 1 })) ∧
    (z.step = 6 → z.nGood < 10 → more = false → 2 ≤ z.fails → ∃ t, exec i s = .next t ∧ (t.zone zone).retired = true ∧
      (t.zone zone).step = 0)) ∧
  (∀ die c, let d := s.die die
    let ps := s.clusterCores die c;
    (8 ≤ die ∨ 64 ≤ c ∨ c ∈ d.withdrawn → exec (.clusterRetire die c) s = .next s) ∧
    (die < 8 → c < 64 → c ∉ d.withdrawn →
      (s.vacant ps = false → exec (.clusterRetire die c) s = .next (s.vacate ps ps.contains)) ∧
      (s.vacant ps = true → ∃ t, exec (.clusterRetire die c) s = .next t ∧
        (∀ p l, d.spares = p :: l → (t.die die).cmap.get c c = p ∧ (t.die die).spares = l) ∧
        (d.spares = [] → c ∈ (t.die die).withdrawn ∧ bitAt t.root.why 1 = true)))) ∧
  (∀ frame line words, let a := frame * 65536 + line % 1024 * 64;
    (hbmEnd ≤ a → exec (.patrolScrub frame line words) s = .next s) ∧
    (a < hbmEnd → words < 256 → ∃ t, exec (.patrolScrub frame line words) s = .next t ∧ t.mem = s.mem ∧
      (∀ i, i < 8 → t.isPoison (a + 8 * i) = (bitAt words i || s.isPoison (a + 8 * i))) ∧
      ∀ b, b < a ∨ a + 64 ≤ b → t.isPoison b = s.isPoison b) ∧
    (∀ i, i < 8 → words = 2 ^ (8 + i) → a < hbmEnd → let off := 0x1000 + 4 * hbmChannel a
      ∃ t, exec (.patrolScrub frame line words) s = .next t ∧
        t.root.fields.get off 0 = min (s.root.fields.get off 0 + 1) (2 ^ 32 - 1))) ∧
  (∀ verified, let i := Instr.firmwareReload verified
    let cp := s.cp;
    (cp.reloading = true → exec i s = .next { s with cp := { cp with reloading := false } }) ∧
    (cp.reloading = false → verified = false → exec i s = .next (s.condition 7 3)) ∧
    (cp.reloading = false → verified = true → ∃ t, exec i s = .next t ∧ t.cp.reloading = true ∧
      t.cp.packets = cp.packets ∧ (∀ a b l, s.root.reloads = a :: b :: l → s.ticks < a + 3024000000000000 →
        s.ticks < b + 3024000000000000 → 2 ≤ t.root.health))) ∧
  (exec .ioDieUncorrectableError s = .next (s.condition 7 3)) ∧
  (∀ n least, (s.condition n least).root.health = max s.root.health least ∧
    bitAt (s.condition n least).root.why n = true ∧ (s.condition n least).root.alerts =
      (if least ≤ s.root.health then s.root.alerts else s.root.alerts + 1)) ∧
  (∀ port, let up := s.pup.getLsbD port;
    (port < 16 → exec (.portTraining port) s =
      .next { s with pup := s.pup ||| BitVec.ofNat 16 (2 ^ port)
                     root := { s.root with portLost := s.root.portLost.del port } }) ∧
    (16 ≤ port → exec (.portTraining port) s = .next s) ∧
    (16 ≤ port ∨ up = false → exec (.portTrainingLoss port) s = .next s) ∧
    (port < 16 → up = true → ∃ t, exec (.portTrainingLoss port) s = .next t ∧
      t.pup.getLsbD port = false ∧ t.root.portLost.find? port = some s.ticks ∧ (∀ j, j ≠ port → t.pup.getLsbD j = s.pup.getLsbD j) ∧
      (Unwatched s → (∀ e ∈ s.cores, e.2.watches = []) → ∀ p k, k < 16 →
        (∃ a b, (s.ctx p k).wait = some ⟨.far, a, b⟩) → (t.ctx p k).wait = none)) ∧
    (let long := ∃ at_, s.root.portLost.find? port = some at_ ∧ at_ + 840000000000 < s.ticks;
      (long → exec (.portTrainingLostFor1S port) s = .next (s.condition 2 1)) ∧
      (¬ long → exec (.portTrainingLostFor1S port) s = .next s))) ∧
  let c := s.core p
  let sz := s.traceSz
  let counts := fun (t : State) (off bytes : Nat) =>
    t.root.fields.get off 0 = min (s.root.fields.get off 0 + 1) (2 ^ (8 * bytes) - 1)
  (isCore p = false ∨ c.cyc - c.lastRec < 0x3FFFF → exec (.traceTimeRecord p) s = .next s) ∧
  (isCore p = true → 0x3FFFF ≤ c.cyc - c.lastRec → c.tstate < 4 → sz ≠ 0 → c.trace.length < 128 →
    ∃ t w, exec (.traceTimeRecord p) s = .next t ∧ t.mem = s.mem ∧ (t.core p).trace = c.trace ++ [w] ∧
      fld w.toNat 56 8 = 0 ∧ fld w.toNat 6 18 = 0x3FFFF ∧ fld w.toNat 0 2 = c.tstate ∧
      (t.core p).lastRec = c.cyc) ∧
  (sz = 0 ∨ c.trace = [] ∨ s.drainDue c = false → exec (.traceDrain p) s = .next s) ∧
  (let ring := BitVec.ofNat 64 (fld s.trbase.toNat 16 48 * 65536 + p * 2 ^ (sz + 6))
    let va := ring + BitVec.ofNat 64 (64 * (1 + c.lines % (2 ^ sz - 1)))
    ∀ x y l m, sz ≠ 0 → p < 4096 → c.trace ≠ [] → s.drainDue c = true → isDevice ring = true → isDevice va = true →
      s.xlates.find? (pageKey 0 ring) = some x → s.xlates.find? (pageKey 0 va) = some y →
      hasRights x.rights rW = true → hasRights y.rights rW = true → x.d = true → y.d = true →
      s.lines.find? (lineKey 0 ring) = some l → s.lines.find? (lineKey 0 va) = some m →
      l.ws.length = 8 → m.ws.length = 8 → Unwatched s →
      ∃ t l' m', exec (.traceDrain p) s = .next t ∧
        (c.waitRec = none → (t.core p).trace = c.trace.drop 8) ∧
        (∀ made r, c.waitRec = some (made, r) → c.trace.length ≤ 128 → (t.core p).waitRec = none ∧
          (t.core p).loss = 0 ∧ ∃ loss : Word, (t.core p).trace = c.trace.drop 8 ++ [loss, r] ∧
            fld loss.toNat 56 8 = 4 ∧ fld loss.toNat 24 32 = fld r.toNat 24 32 ∧
            fld loss.toNat 6 18 = min c.loss 0x3FFFF ∧ fld loss.toNat 2 4 = fld r.toNat 2 4 ∧
            fld loss.toNat 0 2 = 0) ∧
        (t.core p).lines = c.lines + 1 ∧ t.lines.find? (lineKey 0 ring) = some l' ∧
        t.lines.find? (lineKey 0 va) = some m' ∧ l'.ws[0]? = some (BitVec.ofNat 64 (c.lines + 1)) ∧
        ∀ i, i < 8 → m'.ws[i]? = some ((c.trace[i]?).getD 0xFF00000000000000)) ∧
  (isCore p = true → ∃ t, exec (.regulatorDroop p) s = .next t ∧ counts t (0x1920 + 4 * dieOf p) 4 ∧
    t = { s with root := t.root }) ∧
  (isCore p = false → exec (.regulatorDroop p) s = .next s) ∧
  (exec .fieldRecordCommit s = .next { s with root := { s.root with committed := s.root.fields } }) ∧
  ∃ t, exec .zoneMinuteTick s = .next t ∧ t.mem = s.mem ∧ t.cores = s.cores ∧ ∀ i, i < 128 →
    (t.zone i).peak = s.zoneTemp i ∧ ∀ b, b < 8 →
      if tempBin (max (s.zone i).peak (s.zoneTemp i)) = b then counts t (4 * (8 * i + b)) 4
      else t.root.fields.get (4 * (8 * i + b)) 0 = s.root.fields.get (4 * (8 * i + b)) 0

/-! ### Root, reset -/

/-- R92, R95, R103, R107, R369, R403, R404, R406, R408, R429, R434, R461, R522–R524: the commands of the
mailbox act and give their RESULT, 02h for a bad argument and 01h for a busy one. A write from outside
reaches its register. Device reset leaves the reset state, with the host's memory.
Clauses that follow the model's own choices rest on log entries 62, 78, 79 and 82. -/
def Obligations.RootEvents : Prop := ∀ s : State,
  let given := fun (op : Nat) (args : List Word) => s.root.mbBusy = true ∧ s.root.mbOp = op ∧
    ∀ (j : Nat) (v : Word), args[j]? = some v → s.root.mbArg.get j 0 = v
  let ends := fun (i : Instr) (res : Nat) (u : State) =>
    exec i s = .next { u with root := { u.root with mbBusy := false, mbResult := res } }
  let commands := fun (i : Instr) (op : Nat) (args : List Word) =>
    (¬ given op args → exec i s = .next s) ∧ (given op args → s.root.mbPriv = false → ends i 1 s)
  let may := fun (op : Nat) (args : List Word) => given op args ∧ s.root.mbPriv = true
  let done := fun (t : State) => t.root.mbBusy = false ∧ t.root.mbResult = 0
  (∀ (frame : Nat) (v : Word), frame < 2 ^ 64 → let i := Instr.setFrameOwner frame v
    let a := [BitVec.ofNat 64 frame, v];
    commands i 1 a ∧
    (may 1 a → (12582912 ≤ frame → ends i 2 s) ∧
      (frame < 12582912 → (s.frames.get frame 0).getLsbD 0 = true → ends i 1 s) ∧
      (frame < 12582912 → (s.frames.get frame 0).getLsbD 0 = false → ∃ t, exec i s = .next t ∧ done t ∧
        t.frames = s.frames.put frame (v &&& 0xFFFFFFFFFF0007) ∧ t.mem = s.mem ∧
        (v.getLsbD 0 = false → t.empties = s.empties) ∧
        (∀ n, n / 8192 ≠ frame → (n ∈ t.empties ↔ n ∈ s.empties)) ∧
        (∀ pa e sh, v.getLsbD 0 = true → s.walk (v &&& 0xFFFFFFFFFF0000) = .leaf pa e sh →
          if bitAt e 2 || fld e 10 30 != 0 then t.empties = s.empties
          else ∀ n, n / 8192 = frame → n ∉ t.empties)))) ∧
  (∀ frame : Nat, frame < 2 ^ 64 → let i := Instr.clearFrameOwner frame
    let a := [BitVec.ofNat 64 frame];
    commands i 2 a ∧ (may 2 a → (12582912 ≤ frame → ends i 2 s) ∧
      (frame < 12582912 → ends i 0 { s with frames := s.frames.del frame }))) ∧
  (∀ a0 a1 a2 : Word, let p := a0.toNat % 4096
    let i := Instr.writePermissionEntry a0 a1 a2
    let bad := a0 &&& 0xFFFFFFFFFFE0F000 ≠ 0 ∨ p ∉ s.dieCores (dieOf p)
    let c := s.core p;
    commands i 3 [a0, a1, a2] ∧ (may 3 [a0, a1, a2] → (bad → ends i 2 s) ∧
      (¬ bad → ends i 0 (s.setCore p { c with
        perms := c.perms.put (fld a0.toNat 16 5) ⟨a1, a2 &&& 0xFFFFFFFFFFE00001⟩ })))) ∧
  (∀ a0 a1 : Word, let q := a0.toNat
    let i := Instr.setQueueState a0 a1;
    commands i 4 [a0, a1] ∧ (may 4 [a0, a1] → (64 ≤ q ∨ 4 ≤ a1.toNat → ends i 2 s) ∧
      (q < 64 → a1.toNat < 4 →
        (s.qState q = 0 → a1 ≠ 0 → s.pasidClash q = true → ends i 2 s) ∧
        (s.qState q ≠ 0 ∨ a1.toNat = 0 ∨ a1.toNat ≠ 1 ∧ s.pasidClash q = false → Unwatched s → Noted s (s.descVa q 5) →
          ∃ t, exec i s = .next t ∧ done t ∧ Stored s t (s.descVa q 5) a1.toNat ∧ t.mem = s.mem) ∧
        (let va := s.platVa (0x1000 + 64 * q);
          ∀ pa, s.qState q = 0 → a1.toNat = 1 → s.pasidClash q = false → Unwatched s → Noted s (s.descVa q 5) → Noted s va →
          (s.lines.find? (lineKey 0 va)).isSome = true → s.rawAddr va = some pa →
          (s.lineOrMem (lineKey 0 va) (pa / 64 * 64)).ws.length = 8 →
          ∃ t l, exec i s = .next t ∧ done t ∧ Stored s t (s.descVa q 5) 1 ∧ t.mem = s.mem ∧
            t.lines.find? (lineKey 0 va) = some l ∧ l.ws[va.toNat / 8 % 8]? =
              some (BitVec.ofNat 64 (setFld ((s.rawRead va).getD 0) 0 8 0)))))) ∧
  (∀ a0 a1 : Word, let i := Instr.writeHomeGroupEntry a0 a1;
    commands i 5 [a0, a1] ∧ (may 5 [a0, a1] → (2048 ≤ a0.toNat → ends i 2 s) ∧
      (a0.toNat < 2048 → s.groupCached a0.toNat = true → ends i 1 s) ∧
      (a0.toNat < 2048 → s.groupCached a0.toNat = false →
        ends i 0 { s with hgt := s.hgt.put a0.toNat (a1.toNat % 32) }))) ∧
  (∀ a0 : Word, let i := Instr.partitionReset a0;
    commands i 6 [a0] ∧ (may 6 [a0] → (64 ≤ a0.toNat ∨ s.root.parts.find? a0.toNat = none → ends i 2 s) ∧
      (∀ x, a0.toNat < 64 → s.root.parts.find? a0.toNat = some x → ∃ t, exec i s = .next t ∧ done t ∧
        (∀ p ∈ x.cores, (t.core p).team = none ∧ (t.core p).ctxs = [] ∧ (t.core p).stopped = false ∧
          ∀ off, t.isFull (lsAddr p off) = true) ∧
        (s.teams = [] → Unwatched s → ∀ e ∈ t.lines, s.sliceOf e.1 ∉ x.slices)))) ∧
  (∀ a0 : Word, let i := Instr.attest a0;
    commands i 7 [a0] ∧ (may 7 [a0] →
      (∀ u, s.readBytes a0 32 = .fail u → ends i 2 s) ∧
      (∀ v nonce, s.readBytes a0 32 = .done v nonce →
        let report := v.attestation nonce
        let r := State.writeBytes { v with free := v.free + 448 } (a0 + 0x40) report;
        (nonce.length = 32 ∧ report.take 32 = nonce ∧ fld (ofBytes ((report.drop 32).take 8)) 0 16 = 1 ∧
          fld (ofBytes ((report.drop 32).take 8)) 16 2 = v.root.health % 4 ∧
          ofBytes ((report.drop 40).take 8) = v.fabn.toNat ∧
          (report.drop 256).take 64 = shake256 v.root.image) ∧
        (∀ u, r = .fail u → ends i 2 v) ∧ (∀ u, r = .done u () → ends i 0 u)))) ∧
  (∀ a0 a1 : Word, let i := Instr.setPartitionResetPolicy a0 a1;
    commands i 8 [a0, a1] ∧ (may 8 [a0, a1] → (64 ≤ a0.toNat ∨ 3 ≤ a1.toNat → ends i 2 s) ∧
      (a0.toNat < 64 → a1.toNat < 3 → ends i 0
        { s with root := { s.root with policy := s.root.policy.put a0.toNat a1.toNat } }))) ∧
  (∀ op, (1 ≤ op → op ≤ 8 → exec (.mailboxBadOp op) s = .next s) ∧
    (op = 0 ∨ 8 < op → commands (.mailboxBadOp op) op [] ∧ (may op [] → ends (.mailboxBadOp op) 2 s))) ∧
  (∀ (p n : Nat) (v : Word), let w := fun (r : RegPlace) (t : State) => exec (.registerWrite r v) s = .next t;
    (isCore p = true → 0x100 ≤ n → n < 0x300 → w (.core p n) (s.setCore p ((s.core p).csrPut n v))) ∧
    (w (.dev 0) { s with parkbase := v }) ∧ (w (.dev 1) { s with parkrsz := v.toNat % 32 }) ∧
    (w (.dev 2) { s with qdbase := v }) ∧ (w (.bar0 0) { s with fabn := v.setWidth 12 }) ∧
    (n < 64 → w (.bar0 (0x2000 + 8 * n)) { s with imports := s.imports.put n (v &&& 0x80000FFF001FFFFF) }) ∧
    (n < 4 → w (.bar0 (0x1008 + 8 * n)) { s with root := { s.root with mbArg := s.root.mbArg.put n v } }) ∧
    (n < 8 → w (.bpa n) { s with bpa := s.bpa.put n v } ∧
      ∃ t, w (.bpc n) t ∧ ((t.bpc.get n 0).getLsbD 60 =
        ((s.bpc.get n 0).getLsbD 60 && !v.getLsbD 60)) ∧
        (t.bpc.get n 0) &&& 0xEC3F0000FFFF0000 = v &&& 0xEC3F0000FFFF0000) ∧
    (let started := fun (priv : Bool) => if s.root.mbBusy then s else { s with root := { s.root with
        mbBusy := true, mbPriv := priv, mbOp := v.toNat % 256 } };
      w (.bar0 0x1000) (started true) ∧ w .mbcmdDenied (started false)) ∧
    (s.root.mbOp < 256 → s.root.mbResult < 256 → (s.bar0Read 0x1000).getLsbD 63 = s.root.mbBusy ∧ fld (s.bar0Read 0x1000).toNat 0 8 = s.root.mbOp ∧
      fld (s.bar0Read 0x1000).toNat 48 8 = s.root.mbResult) ∧
    fld (s.bar0Read 0).toNat 0 12 = s.fabn.toNat ∧ fld (s.bar0Read 0).toNat 16 16 = s.pup.toNat ∧
    (8 ≤ p → w (.die p n) s) ∧
    (∀ e, s.activeCore p = true → n < 32 → (s.core p).perms.find? n = some e → e.w1.getLsbD 0 = true →
      fld e.w0.toNat 5 16 = (s.core p).dom → w (.perm p n) (s.setCore p { s.core p with
        perms := (s.core p).perms.put n { e with w0 := e.w0 &&& ~~~(v &&& 0x1F) } })) ∧
    (w (.tvec p) { s with cp := { s.cp with tvecs := s.cp.tvecs.put p v } }) ∧ (w .pri { s with priOn := v.getLsbD 0 }) ∧
    (p < 2 ^ 20 → n < 2 ^ 44 →
      let page : HostPage := ⟨fld v.toNat 12 48 * 4096, v.getLsbD 0, v.getLsbD 1, v.getLsbD 2, v.getLsbD 3⟩
      w (.hostPage p n) { s with hostPages := s.hostPages.put (p * 2 ^ 44 + n) page }) ∧
    (n % 8 = 0 → n < 2 ^ 60 → ∃ t, w (.hostMem n) t ∧ t.rd (hostBase + n) 8 = v.toNat ∧ SameBytes s t (hostBase + n) 8) ∧
    (v.getLsbD 1 = false → ¬ (hostBase ≤ n ∧ n < wsBase) → n % 8 = 0 → ∃ t, w (.struck (.mem n)) t ∧ t.mem = s.mem ∧
      t.isPoison n = true ∧ (∀ b, b / 8 ≠ n / 8 → t.isPoison b = s.isPoison b ∧ t.isFull b = s.isFull b) ∧
      (v.getLsbD 0 = false → t.isFull n = s.isFull n) ∧
      (v.getLsbD 0 = true → n < hbmEnd ∨ lsBase ≤ n → t.isFull n = true)) ∧
    (w .trbase { s with trbase := v &&& 0xFFFFFFFFFFFF001F }) ∧ (w .root { s with rootTable := v.toNat })) ∧
  ∃ t, exec .deviceReset s = .next t ∧ t.cores = [] ∧ t.teams = [] ∧ t.grids = [] ∧ t.chains = [] ∧
    t.lines = [] ∧ t.xlates = [] ∧ t.watches = [] ∧ t.msgs = [] ∧ t.cp = State.reset.cp ∧
    t.power = State.reset.power ∧ t.fabn = State.reset.fabn ∧ t.imports = [] ∧ t.frames = [] ∧
    t.root.health = 0 ∧ t.root.policy = [] ∧ t.root.fields = s.root.committed ∧ t.root.parts = s.root.parts ∧
    (∀ a, hostBase ≤ a → a < wsBase → Memory.read t.mem a = Memory.read s.mem a) ∧
    (∀ a, t.isFull a = true ∧ t.isPoison a = false) ∧ ∀ d, (t.die d).cmap = (s.die d).cmap

/-! ### Reset, the step, memory -/

/-- R92, R95, R106, R374, R380, R384, R397, R403, R404, R412, R414–R416, R421–R424, R429, R434, R509, R524: after
device reset no team is resident and no context lives, every word is full and none is poisoned, memory
lists nothing, and the registers hold the reset values of their tables.
Clauses that follow the model's own choices rest on log entries 5 and 8. -/
def Obligations.ResetState : Prop := let s := State.reset
  Memory.wf s.mem ∧ s.mem = [] ∧ (∀ a, s.isFull a = true ∧ s.isPoison a = false) ∧
  s.teams = [] ∧ s.grids = [] ∧ s.msgs = [] ∧ s.cp.packets = [] ∧ s.pup = 0 ∧ s.fabn = 0 ∧ s.trbase = 0 ∧
  (∀ p, let c := s.core p
    c.team = none ∧ (∀ k, (c.ctx k).live = false) ∧ c.tthr = 0x5F0 ∧ c.cyc = 0 ∧ c.evqEn = false ∧
    c.chn = [] ∧ c.sems = [] ∧ c.perms = [] ∧ c.stopped = false) ∧
  (∀ d, (s.die d).qnt = 4000) ∧
  (∀ z, let x := s.zone z
    x.budget = 25 ∧ x.nmin = 1 ∧ x.nmax = 8 ∧ x.spent = false ∧ x.rup = 250 ∧ x.rdn = 250 ∧ x.act = 0 ∧
    x.share = 2 ∧ x.floor = 2 ∧ x.otrap = 0x460 ∧ x.itrap = 0x2D0 ∧ x.wthr = 0x5A0 ∧ x.evac = false) ∧
  (s.power.grant = 4800 ∧ s.power.unc = 1250 ∧ s.power.lease = 100 ∧ s.power.lent = 0 ∧ s.power.borrowed = 0 ∧
    s.power.ebase = 0 ∧ s.power.ccls0 = 0x0202020202020202 ∧ s.power.ccls1 = 0x0202020202020202) ∧
  (∀ i, s.hgt.get i 0x18 = 0x18) ∧ (∀ n, s.imports.get n 0 = 0 ∧ s.bpa.get n 0 = 0 ∧ s.bpc.get n 0 = 0) ∧
  (∀ p, s.root.policy.get p 0 = 0) ∧ s.root.health = 0 ∧ s.root.events = 0 ∧ s.ticks = 0 ∧ s.window = 0

/-- R28, R190, R192, R196, R198, R394, R426, R443, R475, R485: the agent that is due acts on the state at its time, and
the slot that a selector has chosen in it issues in the same step, at whose end the core's cycle counter goes up. Where
the slot at the IP decodes to instruction
`i`, the step is exec of `i`, and the cores whose state it changed log that; of a pair, the first member
on the state before the group, then the second, then the end of the group; a member that holds a poisoned word takes
its part as damaged. A slot that holds no instruction raises 01h. R195, R282: the right to execute is checked as a
context enters a line.
Clauses that follow the model's own choices rest on log entries 1, 14, 36, 87 and 88. -/
def Obligations.StepRunsTheDecodedInstruction : Prop :=
  (∀ (s s0 u : State) (e : Instr),
    (s.agenda = [] ∧ e = .issueSelection s.turn ∧
        s0 = { s with ticks := s.ticks + (s.core s.turn).cycleTicks }) ∨
      (∃ d rest, s.agenda = d :: rest ∧ e = d.event ∧ (opcFields e).isSome = false ∧
        s0 = { s with agenda := rest, ticks := s.ticks + d.wait }) →
    exec e s0 = .next u →
    (u.issue = false → step s = .next (s0.traceStep u)) ∧
    (u.issue = true → let g := { u with issue := false }
      let ends := fun (t : State) => step s = .next (s0.traceStep (t.tick u.cur.1));
      (∀ u1, g.fetchGroup = .stop u1 → ends u1) ∧
      (∀ u1 w i t, g.fetchGroup = .one u1 w → decodeSlot w = some i → exec i u1 = .next t → ends t) ∧
      (∀ u1 w i f, g.fetchGroup = .one u1 w → decodeSlot w = some i → exec i u1 = .fault f →
        step s = .fault f) ∧
      (∀ u1 w, g.fetchGroup = .one u1 w → decodeSlot w = none → ends (u1.illegal w)) ∧
      (∀ u1 a b i j v t, g.fetchGroup = .two u1 a b → decodeSlot a = some i → decodeSlot b = some j →
        exec i u1.openPair = .next v → exec j v = .next t → ends (u1.finishPair t)) ∧
      (∀ u1 b j t, g.fetchGroup = .half u1 true b → decodeSlot b = some j →
        exec j u1.openPair.damagedSlot = .next t → ends (u1.finishPair t)) ∧
      (∀ u1 a i v, g.fetchGroup = .half u1 false a → decodeSlot a = some i →
        exec i u1.openPair = .next v → ends (u1.finishPair v.damagedSlot)))) ∧
  (∀ (t : State) (q : Nat), t.tick q =
    t.setCore q { t.core q with cyc := (t.core q).cyc + 1 }) ∧
  ∀ (s : State) (l : ILine), let x := s.me
    let n := x.ip.toNat % 8
    let w := (l.slots[n]?).getD 0
    let w' := (l.slots[n + 1]?).getD 0
    let u := s.setMe { x with entryCheck := false, line := some (lineOf x.ip) }
    (ipOk x.ip = true → x.line ≠ some (lineOf x.ip) → s.myCore.allowed (lineOf x.ip) rX = false → s.fetchGroup =
      .stop (s.raise s.cur.1 s.cur.2 { cause := 6, info := lineOf x.ip } x.ip)) ∧
    (ipOk x.ip = true → s.myCore.icache.find? (lineKey s.myCore.dom x.ip) = some l →
      x.line = some (lineOf x.ip) ∨ s.myCore.allowed (lineOf x.ip) rX = true → x.entryCheck = false ∨ l.landAt n = true →
      l.pairFault = false → l.slotPoison n = false →
      (l.pairAt n = false → s.fetchGroup = .one u w) ∧
      (l.pairAt n = true → pairBad w w' = false → l.slotPoison (n + 1) = false → s.fetchGroup = .two u w w'))

/-- R82, R85, R97: every step keeps the canonical form of memory: addresses strictly rising, and no entry
equal to what an unlisted address reads as.
Clauses that follow the model's own choices rest on log entry 5. -/
def Obligations.MemoryStaysCanonical : Prop := ∀ s s' : State,
  Memory.wf s.mem → step s = .next s' → Memory.wf s'.mem
end

