-- ==== Sys2Proof/Laws/KMap.lean ====
section
/-! SUPPORT. The laws of the sparse tables: what a lookup gives after each update, and that the
updates keep the keys strictly rising. -/

namespace Sys2Proof.KMap

variable {α : Type}

@[simp] theorem find?_put_self (m : KMap α) (k : Nat) (x : α) : find? (put m k x) k = some x := by
  induction m with
  | nil => simp [put, find?]
  | cons e m ih =>
    obtain ⟨j, y⟩ := e
    unfold put
    split_ifs with h1 h2
    · simp [find?]
    · simp [find?]
    · simp [find?, ih, Ne.symm h2]

@[simp] theorem find?_put_ne (m : KMap α) {k j : Nat} (x : α) (h : j ≠ k) :
    find? (put m k x) j = find? m j := by
  induction m with
  | nil => simp [put, find?, Ne.symm h]
  | cons e m ih =>
    obtain ⟨i, y⟩ := e
    unfold put
    split_ifs with h1 h2
    · simp [find?, Ne.symm h]
    · subst h2; simp [find?, Ne.symm h]
    · simp [find?, ih]

@[simp] theorem put_put (m : KMap α) (k : Nat) (x y : α) : put (put m k x) k y = put m k y := by
  induction m with
  | nil => simp [put]
  | cons e m ih =>
    obtain ⟨j, z⟩ := e
    by_cases h1 : k < j
    · simp [put, h1]
    by_cases h2 : k = j
    · simp [put, h2]
    · simp [put, h1, h2, ih]

@[simp] theorem get_put_self (m : KMap α) (k : Nat) (x d : α) : get (put m k x) k d = x := by
  simp [get]

@[simp] theorem get_put_ne (m : KMap α) {k j : Nat} (x d : α) (h : j ≠ k) :
    get (put m k x) j d = get m j d := by
  simp [get, h]

theorem find?_eq_none_of_lt (m : KMap α) (k : Nat) (h : ∀ e ∈ m, k < e.1) : find? m k = none := by
  induction m with
  | nil => rfl
  | cons e m ih =>
    have := h e (by simp)
    simp only [find?]
    rw [if_neg (by omega)]
    exact ih fun e he => h e (by simp [he])

@[simp] theorem find?_del_self (m : KMap α) (k : Nat) : find? (del m k) k = none := by
  induction m with
  | nil => rfl
  | cons e m ih =>
    simp only [del, List.filter_cons] at ih ⊢
    split_ifs with h
    · simp only [find?]
      rw [if_neg (by simpa using h)]
      exact ih
    · exact ih

@[simp] theorem find?_del_ne (m : KMap α) {k j : Nat} (h : j ≠ k) : find? (del m k) j = find? m j := by
  induction m with
  | nil => rfl
  | cons e m ih =>
    simp only [del, List.filter_cons] at ih ⊢
    split_ifs with h1
    · simp only [find?, ih]
    · have h2 : e.1 = k := by simpa using h1
      simp only [find?]
      rw [if_neg (by omega)]
      exact ih

@[simp] theorem find?_mapVals (m : KMap α) (f : α → α) (k : Nat) :
    find? (mapVals m f) k = (find? m k).map f := by
  induction m with
  | nil => rfl
  | cons e m ih =>
    simp only [mapVals, List.map_cons, find?] at ih ⊢
    split_ifs
    · rfl
    · exact ih

/-- Every key of the table after a put is the new one or an old one. -/
theorem mem_put {m : KMap α} {k : Nat} {x : α} {e : Nat × α} (h : e ∈ put m k x) :
    e = (k, x) ∨ e ∈ m := by
  induction m with
  | nil => simpa [put] using h
  | cons a m ih =>
    unfold put at h
    split_ifs at h with h1 h2
    · simpa using h
    · rcases List.mem_cons.1 h with h | h
      · exact .inl h
      · exact .inr (by simp [h])
    · rcases List.mem_cons.1 h with h | h
      · exact .inr (by simp [h])
      · rcases ih h with h | h
        · exact .inl h
        · exact .inr (by simp [h])

/-- The keys rise strictly. -/
abbrev Rising (m : KMap α) : Prop := m.Pairwise (fun a b => a.1 < b.1)

theorem rising_put {m : KMap α} (h : Rising m) (k : Nat) (x : α) : Rising (put m k x) := by
  induction m with
  | nil => simp [put, Rising]
  | cons a m ih =>
    obtain ⟨ha, hm⟩ := List.pairwise_cons.1 h
    unfold put
    split_ifs with h1 h2
    · refine List.pairwise_cons.2 ⟨fun e he => ?_, h⟩
      rcases List.mem_cons.1 he with he | he
      · subst he; exact h1
      · exact Nat.lt_trans h1 (ha e he)
    · subst h2
      exact List.pairwise_cons.2 ⟨fun e he => ha e he, hm⟩
    · refine List.pairwise_cons.2 ⟨fun e he => ?_, ih hm⟩
      rcases mem_put he with he | he
      · subst he; simp only; omega
      · exact ha e he

theorem rising_del {m : KMap α} (h : Rising m) (k : Nat) : Rising (del m k) := h.filter _

theorem rising_mapVals {m : KMap α} (h : Rising m) (f : α → α) : Rising (mapVals m f) :=
  List.pairwise_map.2 h

end Sys2Proof.KMap
end

