-- ==== Sys2Proof/Laws/State.lean ====
section
/-! SUPPORT. One lemma per field per update of the state, a core, a context: what each update leaves. -/


namespace Sys2Proof.Machine
open Sys2Proof

/-! ### A core is replaced -/

@[simp] theorem State.setCore_ticks (s : State) (p : Nat) (c : Core) : (s.setCore p c).ticks = s.ticks := rfl
@[simp] theorem State.setCore_agenda (s : State) (p : Nat) (c : Core) : (s.setCore p c).agenda = s.agenda := rfl
@[simp] theorem State.setCore_turn (s : State) (p : Nat) (c : Core) : (s.setCore p c).turn = s.turn := rfl
@[simp] theorem State.setCore_cur (s : State) (p : Nat) (c : Core) : (s.setCore p c).cur = s.cur := rfl
@[simp] theorem State.setCore_issue (s : State) (p : Nat) (c : Core) : (s.setCore p c).issue = s.issue := rfl
@[simp] theorem State.setCore_pair (s : State) (p : Nat) (c : Core) : (s.setCore p c).pair = s.pair := rfl
@[simp] theorem State.setCore_free (s : State) (p : Nat) (c : Core) : (s.setCore p c).free = s.free := rfl
@[simp] theorem State.setCore_conf (s : State) (p : Nat) (c : Core) : (s.setCore p c).conf = s.conf := rfl
@[simp] theorem State.setCore_mem (s : State) (p : Nat) (c : Core) : (s.setCore p c).mem = s.mem := rfl
@[simp] theorem State.setCore_empties (s : State) (p : Nat) (c : Core) : (s.setCore p c).empties = s.empties := rfl
@[simp] theorem State.setCore_poison (s : State) (p : Nat) (c : Core) : (s.setCore p c).poison = s.poison := rfl
@[simp] theorem State.setCore_parkedLines (s : State) (p : Nat) (c : Core) : (s.setCore p c).parkedLines = s.parkedLines := rfl
@[simp] theorem State.setCore_lines (s : State) (p : Nat) (c : Core) : (s.setCore p c).lines = s.lines := rfl
@[simp] theorem State.setCore_owners (s : State) (p : Nat) (c : Core) : (s.setCore p c).owners = s.owners := rfl
@[simp] theorem State.setCore_xlates (s : State) (p : Nat) (c : Core) : (s.setCore p c).xlates = s.xlates := rfl
@[simp] theorem State.setCore_watches (s : State) (p : Nat) (c : Core) : (s.setCore p c).watches = s.watches := rfl
@[simp] theorem State.setCore_hgt (s : State) (p : Nat) (c : Core) : (s.setCore p c).hgt = s.hgt := rfl
@[simp] theorem State.setCore_rootTable (s : State) (p : Nat) (c : Core) : (s.setCore p c).rootTable = s.rootTable := rfl
@[simp] theorem State.setCore_frames (s : State) (p : Nat) (c : Core) : (s.setCore p c).frames = s.frames := rfl
@[simp] theorem State.setCore_imports (s : State) (p : Nat) (c : Core) : (s.setCore p c).imports = s.imports := rfl
@[simp] theorem State.setCore_hostPages (s : State) (p : Nat) (c : Core) : (s.setCore p c).hostPages = s.hostPages := rfl
@[simp] theorem State.setCore_priOn (s : State) (p : Nat) (c : Core) : (s.setCore p c).priOn = s.priOn := rfl
@[simp] theorem State.setCore_pri (s : State) (p : Nat) (c : Core) : (s.setCore p c).pri = s.pri := rfl
@[simp] theorem State.setCore_priFailed (s : State) (p : Nat) (c : Core) : (s.setCore p c).priFailed = s.priFailed := rfl
@[simp] theorem State.setCore_pageIns (s : State) (p : Nat) (c : Core) : (s.setCore p c).pageIns = s.pageIns := rfl
@[simp] theorem State.setCore_cacheCnt (s : State) (p : Nat) (c : Core) : (s.setCore p c).cacheCnt = s.cacheCnt := rfl
@[simp] theorem State.setCore_nextId (s : State) (p : Nat) (c : Core) : (s.setCore p c).nextId = s.nextId := rfl
@[simp] theorem State.setCore_msgs (s : State) (p : Nat) (c : Core) : (s.setCore p c).msgs = s.msgs := rfl
@[simp] theorem State.setCore_homeReqs (s : State) (p : Nat) (c : Core) : (s.setCore p c).homeReqs = s.homeReqs := rfl
@[simp] theorem State.setCore_replies (s : State) (p : Nat) (c : Core) : (s.setCore p c).replies = s.replies := rfl
@[simp] theorem State.setCore_teams (s : State) (p : Nat) (c : Core) : (s.setCore p c).teams = s.teams := rfl
@[simp] theorem State.setCore_grids (s : State) (p : Nat) (c : Core) : (s.setCore p c).grids = s.grids := rfl
@[simp] theorem State.setCore_dispensers (s : State) (p : Nat) (c : Core) : (s.setCore p c).dispensers = s.dispensers := rfl
@[simp] theorem State.setCore_chains (s : State) (p : Nat) (c : Core) : (s.setCore p c).chains = s.chains := rfl
@[simp] theorem State.setCore_offers (s : State) (p : Nat) (c : Core) : (s.setCore p c).offers = s.offers := rfl
@[simp] theorem State.setCore_dies (s : State) (p : Nat) (c : Core) : (s.setCore p c).dies = s.dies := rfl
@[simp] theorem State.setCore_qdbase (s : State) (p : Nat) (c : Core) : (s.setCore p c).qdbase = s.qdbase := rfl
@[simp] theorem State.setCore_parkbase (s : State) (p : Nat) (c : Core) : (s.setCore p c).parkbase = s.parkbase := rfl
@[simp] theorem State.setCore_parkrsz (s : State) (p : Nat) (c : Core) : (s.setCore p c).parkrsz = s.parkrsz := rfl
@[simp] theorem State.setCore_cp (s : State) (p : Nat) (c : Core) : (s.setCore p c).cp = s.cp := rfl
@[simp] theorem State.setCore_msix (s : State) (p : Nat) (c : Core) : (s.setCore p c).msix = s.msix := rfl
@[simp] theorem State.setCore_bpa (s : State) (p : Nat) (c : Core) : (s.setCore p c).bpa = s.bpa := rfl
@[simp] theorem State.setCore_bpc (s : State) (p : Nat) (c : Core) : (s.setCore p c).bpc = s.bpc := rfl
@[simp] theorem State.setCore_trbase (s : State) (p : Nat) (c : Core) : (s.setCore p c).trbase = s.trbase := rfl
@[simp] theorem State.setCore_epoch (s : State) (p : Nat) (c : Core) : (s.setCore p c).epoch = s.epoch := rfl
@[simp] theorem State.setCore_power (s : State) (p : Nat) (c : Core) : (s.setCore p c).power = s.power := rfl
@[simp] theorem State.setCore_zones (s : State) (p : Nat) (c : Core) : (s.setCore p c).zones = s.zones := rfl
@[simp] theorem State.setCore_window (s : State) (p : Nat) (c : Core) : (s.setCore p c).window = s.window := rfl
@[simp] theorem State.setCore_pup (s : State) (p : Nat) (c : Core) : (s.setCore p c).pup = s.pup := rfl
@[simp] theorem State.setCore_fabn (s : State) (p : Nat) (c : Core) : (s.setCore p c).fabn = s.fabn := rfl
@[simp] theorem State.setCore_remoteGens (s : State) (p : Nat) (c : Core) : (s.setCore p c).remoteGens = s.remoteGens := rfl
@[simp] theorem State.setCore_outbox (s : State) (p : Nat) (c : Core) : (s.setCore p c).outbox = s.outbox := rfl
@[simp] theorem State.setCore_root (s : State) (p : Nat) (c : Core) : (s.setCore p c).root = s.root := rfl

/-! ### A context is replaced -/

@[simp] theorem State.setCtx_ticks (s : State) (p k : Nat) (x : Ctx) : (s.setCtx p k x).ticks = s.ticks := rfl
@[simp] theorem State.setCtx_agenda (s : State) (p k : Nat) (x : Ctx) : (s.setCtx p k x).agenda = s.agenda := rfl
@[simp] theorem State.setCtx_turn (s : State) (p k : Nat) (x : Ctx) : (s.setCtx p k x).turn = s.turn := rfl
@[simp] theorem State.setCtx_cur (s : State) (p k : Nat) (x : Ctx) : (s.setCtx p k x).cur = s.cur := rfl
@[simp] theorem State.setCtx_issue (s : State) (p k : Nat) (x : Ctx) : (s.setCtx p k x).issue = s.issue := rfl
@[simp] theorem State.setCtx_pair (s : State) (p k : Nat) (x : Ctx) : (s.setCtx p k x).pair = s.pair := rfl
@[simp] theorem State.setCtx_free (s : State) (p k : Nat) (x : Ctx) : (s.setCtx p k x).free = s.free := rfl
@[simp] theorem State.setCtx_conf (s : State) (p k : Nat) (x : Ctx) : (s.setCtx p k x).conf = s.conf := rfl
@[simp] theorem State.setCtx_mem (s : State) (p k : Nat) (x : Ctx) : (s.setCtx p k x).mem = s.mem := rfl
@[simp] theorem State.setCtx_empties (s : State) (p k : Nat) (x : Ctx) : (s.setCtx p k x).empties = s.empties := rfl
@[simp] theorem State.setCtx_poison (s : State) (p k : Nat) (x : Ctx) : (s.setCtx p k x).poison = s.poison := rfl
@[simp] theorem State.setCtx_parkedLines (s : State) (p k : Nat) (x : Ctx) : (s.setCtx p k x).parkedLines = s.parkedLines := rfl
@[simp] theorem State.setCtx_lines (s : State) (p k : Nat) (x : Ctx) : (s.setCtx p k x).lines = s.lines := rfl
@[simp] theorem State.setCtx_owners (s : State) (p k : Nat) (x : Ctx) : (s.setCtx p k x).owners = s.owners := rfl
@[simp] theorem State.setCtx_xlates (s : State) (p k : Nat) (x : Ctx) : (s.setCtx p k x).xlates = s.xlates := rfl
@[simp] theorem State.setCtx_watches (s : State) (p k : Nat) (x : Ctx) : (s.setCtx p k x).watches = s.watches := rfl
@[simp] theorem State.setCtx_hgt (s : State) (p k : Nat) (x : Ctx) : (s.setCtx p k x).hgt = s.hgt := rfl
@[simp] theorem State.setCtx_rootTable (s : State) (p k : Nat) (x : Ctx) : (s.setCtx p k x).rootTable = s.rootTable := rfl
@[simp] theorem State.setCtx_frames (s : State) (p k : Nat) (x : Ctx) : (s.setCtx p k x).frames = s.frames := rfl
@[simp] theorem State.setCtx_imports (s : State) (p k : Nat) (x : Ctx) : (s.setCtx p k x).imports = s.imports := rfl
@[simp] theorem State.setCtx_hostPages (s : State) (p k : Nat) (x : Ctx) : (s.setCtx p k x).hostPages = s.hostPages := rfl
@[simp] theorem State.setCtx_priOn (s : State) (p k : Nat) (x : Ctx) : (s.setCtx p k x).priOn = s.priOn := rfl
@[simp] theorem State.setCtx_pri (s : State) (p k : Nat) (x : Ctx) : (s.setCtx p k x).pri = s.pri := rfl
@[simp] theorem State.setCtx_priFailed (s : State) (p k : Nat) (x : Ctx) : (s.setCtx p k x).priFailed = s.priFailed := rfl
@[simp] theorem State.setCtx_pageIns (s : State) (p k : Nat) (x : Ctx) : (s.setCtx p k x).pageIns = s.pageIns := rfl
@[simp] theorem State.setCtx_cacheCnt (s : State) (p k : Nat) (x : Ctx) : (s.setCtx p k x).cacheCnt = s.cacheCnt := rfl
@[simp] theorem State.setCtx_nextId (s : State) (p k : Nat) (x : Ctx) : (s.setCtx p k x).nextId = s.nextId := rfl
@[simp] theorem State.setCtx_msgs (s : State) (p k : Nat) (x : Ctx) : (s.setCtx p k x).msgs = s.msgs := rfl
@[simp] theorem State.setCtx_homeReqs (s : State) (p k : Nat) (x : Ctx) : (s.setCtx p k x).homeReqs = s.homeReqs := rfl
@[simp] theorem State.setCtx_replies (s : State) (p k : Nat) (x : Ctx) : (s.setCtx p k x).replies = s.replies := rfl
@[simp] theorem State.setCtx_teams (s : State) (p k : Nat) (x : Ctx) : (s.setCtx p k x).teams = s.teams := rfl
@[simp] theorem State.setCtx_grids (s : State) (p k : Nat) (x : Ctx) : (s.setCtx p k x).grids = s.grids := rfl
@[simp] theorem State.setCtx_dispensers (s : State) (p k : Nat) (x : Ctx) : (s.setCtx p k x).dispensers = s.dispensers := rfl
@[simp] theorem State.setCtx_chains (s : State) (p k : Nat) (x : Ctx) : (s.setCtx p k x).chains = s.chains := rfl
@[simp] theorem State.setCtx_offers (s : State) (p k : Nat) (x : Ctx) : (s.setCtx p k x).offers = s.offers := rfl
@[simp] theorem State.setCtx_dies (s : State) (p k : Nat) (x : Ctx) : (s.setCtx p k x).dies = s.dies := rfl
@[simp] theorem State.setCtx_qdbase (s : State) (p k : Nat) (x : Ctx) : (s.setCtx p k x).qdbase = s.qdbase := rfl
@[simp] theorem State.setCtx_parkbase (s : State) (p k : Nat) (x : Ctx) : (s.setCtx p k x).parkbase = s.parkbase := rfl
@[simp] theorem State.setCtx_parkrsz (s : State) (p k : Nat) (x : Ctx) : (s.setCtx p k x).parkrsz = s.parkrsz := rfl
@[simp] theorem State.setCtx_cp (s : State) (p k : Nat) (x : Ctx) : (s.setCtx p k x).cp = s.cp := rfl
@[simp] theorem State.setCtx_msix (s : State) (p k : Nat) (x : Ctx) : (s.setCtx p k x).msix = s.msix := rfl
@[simp] theorem State.setCtx_bpa (s : State) (p k : Nat) (x : Ctx) : (s.setCtx p k x).bpa = s.bpa := rfl
@[simp] theorem State.setCtx_bpc (s : State) (p k : Nat) (x : Ctx) : (s.setCtx p k x).bpc = s.bpc := rfl
@[simp] theorem State.setCtx_trbase (s : State) (p k : Nat) (x : Ctx) : (s.setCtx p k x).trbase = s.trbase := rfl
@[simp] theorem State.setCtx_epoch (s : State) (p k : Nat) (x : Ctx) : (s.setCtx p k x).epoch = s.epoch := rfl
@[simp] theorem State.setCtx_power (s : State) (p k : Nat) (x : Ctx) : (s.setCtx p k x).power = s.power := rfl
@[simp] theorem State.setCtx_zones (s : State) (p k : Nat) (x : Ctx) : (s.setCtx p k x).zones = s.zones := rfl
@[simp] theorem State.setCtx_window (s : State) (p k : Nat) (x : Ctx) : (s.setCtx p k x).window = s.window := rfl
@[simp] theorem State.setCtx_pup (s : State) (p k : Nat) (x : Ctx) : (s.setCtx p k x).pup = s.pup := rfl
@[simp] theorem State.setCtx_fabn (s : State) (p k : Nat) (x : Ctx) : (s.setCtx p k x).fabn = s.fabn := rfl
@[simp] theorem State.setCtx_remoteGens (s : State) (p k : Nat) (x : Ctx) : (s.setCtx p k x).remoteGens = s.remoteGens := rfl
@[simp] theorem State.setCtx_outbox (s : State) (p k : Nat) (x : Ctx) : (s.setCtx p k x).outbox = s.outbox := rfl
@[simp] theorem State.setCtx_root (s : State) (p k : Nat) (x : Ctx) : (s.setCtx p k x).root = s.root := rfl

/-! ### The executing context or core is replaced -/

@[simp] theorem State.setMe_ticks (s : State) (x : Ctx) : (s.setMe x).ticks = s.ticks := rfl
@[simp] theorem State.setMe_agenda (s : State) (x : Ctx) : (s.setMe x).agenda = s.agenda := rfl
@[simp] theorem State.setMe_turn (s : State) (x : Ctx) : (s.setMe x).turn = s.turn := rfl
@[simp] theorem State.setMe_cur (s : State) (x : Ctx) : (s.setMe x).cur = s.cur := rfl
@[simp] theorem State.setMe_issue (s : State) (x : Ctx) : (s.setMe x).issue = s.issue := rfl
@[simp] theorem State.setMe_pair (s : State) (x : Ctx) : (s.setMe x).pair = s.pair := rfl
@[simp] theorem State.setMe_free (s : State) (x : Ctx) : (s.setMe x).free = s.free := rfl
@[simp] theorem State.setMe_conf (s : State) (x : Ctx) : (s.setMe x).conf = s.conf := rfl
@[simp] theorem State.setMe_mem (s : State) (x : Ctx) : (s.setMe x).mem = s.mem := rfl
@[simp] theorem State.setMe_empties (s : State) (x : Ctx) : (s.setMe x).empties = s.empties := rfl
@[simp] theorem State.setMe_poison (s : State) (x : Ctx) : (s.setMe x).poison = s.poison := rfl
@[simp] theorem State.setMe_parkedLines (s : State) (x : Ctx) : (s.setMe x).parkedLines = s.parkedLines := rfl
@[simp] theorem State.setMe_lines (s : State) (x : Ctx) : (s.setMe x).lines = s.lines := rfl
@[simp] theorem State.setMe_owners (s : State) (x : Ctx) : (s.setMe x).owners = s.owners := rfl
@[simp] theorem State.setMe_xlates (s : State) (x : Ctx) : (s.setMe x).xlates = s.xlates := rfl
@[simp] theorem State.setMe_watches (s : State) (x : Ctx) : (s.setMe x).watches = s.watches := rfl
@[simp] theorem State.setMe_hgt (s : State) (x : Ctx) : (s.setMe x).hgt = s.hgt := rfl
@[simp] theorem State.setMe_rootTable (s : State) (x : Ctx) : (s.setMe x).rootTable = s.rootTable := rfl
@[simp] theorem State.setMe_frames (s : State) (x : Ctx) : (s.setMe x).frames = s.frames := rfl
@[simp] theorem State.setMe_imports (s : State) (x : Ctx) : (s.setMe x).imports = s.imports := rfl
@[simp] theorem State.setMe_hostPages (s : State) (x : Ctx) : (s.setMe x).hostPages = s.hostPages := rfl
@[simp] theorem State.setMe_priOn (s : State) (x : Ctx) : (s.setMe x).priOn = s.priOn := rfl
@[simp] theorem State.setMe_pri (s : State) (x : Ctx) : (s.setMe x).pri = s.pri := rfl
@[simp] theorem State.setMe_priFailed (s : State) (x : Ctx) : (s.setMe x).priFailed = s.priFailed := rfl
@[simp] theorem State.setMe_pageIns (s : State) (x : Ctx) : (s.setMe x).pageIns = s.pageIns := rfl
@[simp] theorem State.setMe_cacheCnt (s : State) (x : Ctx) : (s.setMe x).cacheCnt = s.cacheCnt := rfl
@[simp] theorem State.setMe_nextId (s : State) (x : Ctx) : (s.setMe x).nextId = s.nextId := rfl
@[simp] theorem State.setMe_msgs (s : State) (x : Ctx) : (s.setMe x).msgs = s.msgs := rfl
@[simp] theorem State.setMe_homeReqs (s : State) (x : Ctx) : (s.setMe x).homeReqs = s.homeReqs := rfl
@[simp] theorem State.setMe_replies (s : State) (x : Ctx) : (s.setMe x).replies = s.replies := rfl
@[simp] theorem State.setMe_teams (s : State) (x : Ctx) : (s.setMe x).teams = s.teams := rfl
@[simp] theorem State.setMe_grids (s : State) (x : Ctx) : (s.setMe x).grids = s.grids := rfl
@[simp] theorem State.setMe_dispensers (s : State) (x : Ctx) : (s.setMe x).dispensers = s.dispensers := rfl
@[simp] theorem State.setMe_chains (s : State) (x : Ctx) : (s.setMe x).chains = s.chains := rfl
@[simp] theorem State.setMe_offers (s : State) (x : Ctx) : (s.setMe x).offers = s.offers := rfl
@[simp] theorem State.setMe_dies (s : State) (x : Ctx) : (s.setMe x).dies = s.dies := rfl
@[simp] theorem State.setMe_qdbase (s : State) (x : Ctx) : (s.setMe x).qdbase = s.qdbase := rfl
@[simp] theorem State.setMe_parkbase (s : State) (x : Ctx) : (s.setMe x).parkbase = s.parkbase := rfl
@[simp] theorem State.setMe_parkrsz (s : State) (x : Ctx) : (s.setMe x).parkrsz = s.parkrsz := rfl
@[simp] theorem State.setMe_cp (s : State) (x : Ctx) : (s.setMe x).cp = s.cp := rfl
@[simp] theorem State.setMe_msix (s : State) (x : Ctx) : (s.setMe x).msix = s.msix := rfl
@[simp] theorem State.setMe_bpa (s : State) (x : Ctx) : (s.setMe x).bpa = s.bpa := rfl
@[simp] theorem State.setMe_bpc (s : State) (x : Ctx) : (s.setMe x).bpc = s.bpc := rfl
@[simp] theorem State.setMe_trbase (s : State) (x : Ctx) : (s.setMe x).trbase = s.trbase := rfl
@[simp] theorem State.setMe_epoch (s : State) (x : Ctx) : (s.setMe x).epoch = s.epoch := rfl
@[simp] theorem State.setMe_power (s : State) (x : Ctx) : (s.setMe x).power = s.power := rfl
@[simp] theorem State.setMe_zones (s : State) (x : Ctx) : (s.setMe x).zones = s.zones := rfl
@[simp] theorem State.setMe_window (s : State) (x : Ctx) : (s.setMe x).window = s.window := rfl
@[simp] theorem State.setMe_pup (s : State) (x : Ctx) : (s.setMe x).pup = s.pup := rfl
@[simp] theorem State.setMe_fabn (s : State) (x : Ctx) : (s.setMe x).fabn = s.fabn := rfl
@[simp] theorem State.setMe_remoteGens (s : State) (x : Ctx) : (s.setMe x).remoteGens = s.remoteGens := rfl
@[simp] theorem State.setMe_outbox (s : State) (x : Ctx) : (s.setMe x).outbox = s.outbox := rfl
@[simp] theorem State.setMe_root (s : State) (x : Ctx) : (s.setMe x).root = s.root := rfl

@[simp] theorem State.setMyCore_ticks (s : State) (c : Core) : (s.setMyCore c).ticks = s.ticks := rfl
@[simp] theorem State.setMyCore_agenda (s : State) (c : Core) : (s.setMyCore c).agenda = s.agenda := rfl
@[simp] theorem State.setMyCore_turn (s : State) (c : Core) : (s.setMyCore c).turn = s.turn := rfl
@[simp] theorem State.setMyCore_cur (s : State) (c : Core) : (s.setMyCore c).cur = s.cur := rfl
@[simp] theorem State.setMyCore_issue (s : State) (c : Core) : (s.setMyCore c).issue = s.issue := rfl
@[simp] theorem State.setMyCore_pair (s : State) (c : Core) : (s.setMyCore c).pair = s.pair := rfl
@[simp] theorem State.setMyCore_free (s : State) (c : Core) : (s.setMyCore c).free = s.free := rfl
@[simp] theorem State.setMyCore_conf (s : State) (c : Core) : (s.setMyCore c).conf = s.conf := rfl
@[simp] theorem State.setMyCore_mem (s : State) (c : Core) : (s.setMyCore c).mem = s.mem := rfl
@[simp] theorem State.setMyCore_empties (s : State) (c : Core) : (s.setMyCore c).empties = s.empties := rfl
@[simp] theorem State.setMyCore_poison (s : State) (c : Core) : (s.setMyCore c).poison = s.poison := rfl
@[simp] theorem State.setMyCore_parkedLines (s : State) (c : Core) : (s.setMyCore c).parkedLines = s.parkedLines := rfl
@[simp] theorem State.setMyCore_lines (s : State) (c : Core) : (s.setMyCore c).lines = s.lines := rfl
@[simp] theorem State.setMyCore_owners (s : State) (c : Core) : (s.setMyCore c).owners = s.owners := rfl
@[simp] theorem State.setMyCore_xlates (s : State) (c : Core) : (s.setMyCore c).xlates = s.xlates := rfl
@[simp] theorem State.setMyCore_watches (s : State) (c : Core) : (s.setMyCore c).watches = s.watches := rfl
@[simp] theorem State.setMyCore_hgt (s : State) (c : Core) : (s.setMyCore c).hgt = s.hgt := rfl
@[simp] theorem State.setMyCore_rootTable (s : State) (c : Core) : (s.setMyCore c).rootTable = s.rootTable := rfl
@[simp] theorem State.setMyCore_frames (s : State) (c : Core) : (s.setMyCore c).frames = s.frames := rfl
@[simp] theorem State.setMyCore_imports (s : State) (c : Core) : (s.setMyCore c).imports = s.imports := rfl
@[simp] theorem State.setMyCore_hostPages (s : State) (c : Core) : (s.setMyCore c).hostPages = s.hostPages := rfl
@[simp] theorem State.setMyCore_priOn (s : State) (c : Core) : (s.setMyCore c).priOn = s.priOn := rfl
@[simp] theorem State.setMyCore_pri (s : State) (c : Core) : (s.setMyCore c).pri = s.pri := rfl
@[simp] theorem State.setMyCore_priFailed (s : State) (c : Core) : (s.setMyCore c).priFailed = s.priFailed := rfl
@[simp] theorem State.setMyCore_pageIns (s : State) (c : Core) : (s.setMyCore c).pageIns = s.pageIns := rfl
@[simp] theorem State.setMyCore_cacheCnt (s : State) (c : Core) : (s.setMyCore c).cacheCnt = s.cacheCnt := rfl
@[simp] theorem State.setMyCore_nextId (s : State) (c : Core) : (s.setMyCore c).nextId = s.nextId := rfl
@[simp] theorem State.setMyCore_msgs (s : State) (c : Core) : (s.setMyCore c).msgs = s.msgs := rfl
@[simp] theorem State.setMyCore_homeReqs (s : State) (c : Core) : (s.setMyCore c).homeReqs = s.homeReqs := rfl
@[simp] theorem State.setMyCore_replies (s : State) (c : Core) : (s.setMyCore c).replies = s.replies := rfl
@[simp] theorem State.setMyCore_teams (s : State) (c : Core) : (s.setMyCore c).teams = s.teams := rfl
@[simp] theorem State.setMyCore_grids (s : State) (c : Core) : (s.setMyCore c).grids = s.grids := rfl
@[simp] theorem State.setMyCore_dispensers (s : State) (c : Core) : (s.setMyCore c).dispensers = s.dispensers := rfl
@[simp] theorem State.setMyCore_chains (s : State) (c : Core) : (s.setMyCore c).chains = s.chains := rfl
@[simp] theorem State.setMyCore_offers (s : State) (c : Core) : (s.setMyCore c).offers = s.offers := rfl
@[simp] theorem State.setMyCore_dies (s : State) (c : Core) : (s.setMyCore c).dies = s.dies := rfl
@[simp] theorem State.setMyCore_qdbase (s : State) (c : Core) : (s.setMyCore c).qdbase = s.qdbase := rfl
@[simp] theorem State.setMyCore_parkbase (s : State) (c : Core) : (s.setMyCore c).parkbase = s.parkbase := rfl
@[simp] theorem State.setMyCore_parkrsz (s : State) (c : Core) : (s.setMyCore c).parkrsz = s.parkrsz := rfl
@[simp] theorem State.setMyCore_cp (s : State) (c : Core) : (s.setMyCore c).cp = s.cp := rfl
@[simp] theorem State.setMyCore_msix (s : State) (c : Core) : (s.setMyCore c).msix = s.msix := rfl
@[simp] theorem State.setMyCore_bpa (s : State) (c : Core) : (s.setMyCore c).bpa = s.bpa := rfl
@[simp] theorem State.setMyCore_bpc (s : State) (c : Core) : (s.setMyCore c).bpc = s.bpc := rfl
@[simp] theorem State.setMyCore_trbase (s : State) (c : Core) : (s.setMyCore c).trbase = s.trbase := rfl
@[simp] theorem State.setMyCore_epoch (s : State) (c : Core) : (s.setMyCore c).epoch = s.epoch := rfl
@[simp] theorem State.setMyCore_power (s : State) (c : Core) : (s.setMyCore c).power = s.power := rfl
@[simp] theorem State.setMyCore_zones (s : State) (c : Core) : (s.setMyCore c).zones = s.zones := rfl
@[simp] theorem State.setMyCore_window (s : State) (c : Core) : (s.setMyCore c).window = s.window := rfl
@[simp] theorem State.setMyCore_pup (s : State) (c : Core) : (s.setMyCore c).pup = s.pup := rfl
@[simp] theorem State.setMyCore_fabn (s : State) (c : Core) : (s.setMyCore c).fabn = s.fabn := rfl
@[simp] theorem State.setMyCore_remoteGens (s : State) (c : Core) : (s.setMyCore c).remoteGens = s.remoteGens := rfl
@[simp] theorem State.setMyCore_outbox (s : State) (c : Core) : (s.setMyCore c).outbox = s.outbox := rfl
@[simp] theorem State.setMyCore_root (s : State) (c : Core) : (s.setMyCore c).root = s.root := rfl

/-! ### A register is written -/

@[simp] theorem State.setG_ticks (s : State) (d : Spec) (v : Word) : (s.setG d v).ticks = s.ticks := rfl
@[simp] theorem State.setG_agenda (s : State) (d : Spec) (v : Word) : (s.setG d v).agenda = s.agenda := rfl
@[simp] theorem State.setG_turn (s : State) (d : Spec) (v : Word) : (s.setG d v).turn = s.turn := rfl
@[simp] theorem State.setG_cur (s : State) (d : Spec) (v : Word) : (s.setG d v).cur = s.cur := rfl
@[simp] theorem State.setG_issue (s : State) (d : Spec) (v : Word) : (s.setG d v).issue = s.issue := rfl
@[simp] theorem State.setG_pair (s : State) (d : Spec) (v : Word) : (s.setG d v).pair = s.pair := rfl
@[simp] theorem State.setG_free (s : State) (d : Spec) (v : Word) : (s.setG d v).free = s.free := rfl
@[simp] theorem State.setG_conf (s : State) (d : Spec) (v : Word) : (s.setG d v).conf = s.conf := rfl
@[simp] theorem State.setG_mem (s : State) (d : Spec) (v : Word) : (s.setG d v).mem = s.mem := rfl
@[simp] theorem State.setG_empties (s : State) (d : Spec) (v : Word) : (s.setG d v).empties = s.empties := rfl
@[simp] theorem State.setG_poison (s : State) (d : Spec) (v : Word) : (s.setG d v).poison = s.poison := rfl
@[simp] theorem State.setG_parkedLines (s : State) (d : Spec) (v : Word) : (s.setG d v).parkedLines = s.parkedLines := rfl
@[simp] theorem State.setG_lines (s : State) (d : Spec) (v : Word) : (s.setG d v).lines = s.lines := rfl
@[simp] theorem State.setG_owners (s : State) (d : Spec) (v : Word) : (s.setG d v).owners = s.owners := rfl
@[simp] theorem State.setG_xlates (s : State) (d : Spec) (v : Word) : (s.setG d v).xlates = s.xlates := rfl
@[simp] theorem State.setG_watches (s : State) (d : Spec) (v : Word) : (s.setG d v).watches = s.watches := rfl
@[simp] theorem State.setG_hgt (s : State) (d : Spec) (v : Word) : (s.setG d v).hgt = s.hgt := rfl
@[simp] theorem State.setG_rootTable (s : State) (d : Spec) (v : Word) : (s.setG d v).rootTable = s.rootTable := rfl
@[simp] theorem State.setG_frames (s : State) (d : Spec) (v : Word) : (s.setG d v).frames = s.frames := rfl
@[simp] theorem State.setG_imports (s : State) (d : Spec) (v : Word) : (s.setG d v).imports = s.imports := rfl
@[simp] theorem State.setG_hostPages (s : State) (d : Spec) (v : Word) : (s.setG d v).hostPages = s.hostPages := rfl
@[simp] theorem State.setG_priOn (s : State) (d : Spec) (v : Word) : (s.setG d v).priOn = s.priOn := rfl
@[simp] theorem State.setG_pri (s : State) (d : Spec) (v : Word) : (s.setG d v).pri = s.pri := rfl
@[simp] theorem State.setG_priFailed (s : State) (d : Spec) (v : Word) : (s.setG d v).priFailed = s.priFailed := rfl
@[simp] theorem State.setG_pageIns (s : State) (d : Spec) (v : Word) : (s.setG d v).pageIns = s.pageIns := rfl
@[simp] theorem State.setG_cacheCnt (s : State) (d : Spec) (v : Word) : (s.setG d v).cacheCnt = s.cacheCnt := rfl
@[simp] theorem State.setG_nextId (s : State) (d : Spec) (v : Word) : (s.setG d v).nextId = s.nextId := rfl
@[simp] theorem State.setG_msgs (s : State) (d : Spec) (v : Word) : (s.setG d v).msgs = s.msgs := rfl
@[simp] theorem State.setG_homeReqs (s : State) (d : Spec) (v : Word) : (s.setG d v).homeReqs = s.homeReqs := rfl
@[simp] theorem State.setG_replies (s : State) (d : Spec) (v : Word) : (s.setG d v).replies = s.replies := rfl
@[simp] theorem State.setG_teams (s : State) (d : Spec) (v : Word) : (s.setG d v).teams = s.teams := rfl
@[simp] theorem State.setG_grids (s : State) (d : Spec) (v : Word) : (s.setG d v).grids = s.grids := rfl
@[simp] theorem State.setG_dispensers (s : State) (d : Spec) (v : Word) : (s.setG d v).dispensers = s.dispensers := rfl
@[simp] theorem State.setG_chains (s : State) (d : Spec) (v : Word) : (s.setG d v).chains = s.chains := rfl
@[simp] theorem State.setG_offers (s : State) (d : Spec) (v : Word) : (s.setG d v).offers = s.offers := rfl
@[simp] theorem State.setG_dies (s : State) (d : Spec) (v : Word) : (s.setG d v).dies = s.dies := rfl
@[simp] theorem State.setG_qdbase (s : State) (d : Spec) (v : Word) : (s.setG d v).qdbase = s.qdbase := rfl
@[simp] theorem State.setG_parkbase (s : State) (d : Spec) (v : Word) : (s.setG d v).parkbase = s.parkbase := rfl
@[simp] theorem State.setG_parkrsz (s : State) (d : Spec) (v : Word) : (s.setG d v).parkrsz = s.parkrsz := rfl
@[simp] theorem State.setG_cp (s : State) (d : Spec) (v : Word) : (s.setG d v).cp = s.cp := rfl
@[simp] theorem State.setG_msix (s : State) (d : Spec) (v : Word) : (s.setG d v).msix = s.msix := rfl
@[simp] theorem State.setG_bpa (s : State) (d : Spec) (v : Word) : (s.setG d v).bpa = s.bpa := rfl
@[simp] theorem State.setG_bpc (s : State) (d : Spec) (v : Word) : (s.setG d v).bpc = s.bpc := rfl
@[simp] theorem State.setG_trbase (s : State) (d : Spec) (v : Word) : (s.setG d v).trbase = s.trbase := rfl
@[simp] theorem State.setG_epoch (s : State) (d : Spec) (v : Word) : (s.setG d v).epoch = s.epoch := rfl
@[simp] theorem State.setG_power (s : State) (d : Spec) (v : Word) : (s.setG d v).power = s.power := rfl
@[simp] theorem State.setG_zones (s : State) (d : Spec) (v : Word) : (s.setG d v).zones = s.zones := rfl
@[simp] theorem State.setG_window (s : State) (d : Spec) (v : Word) : (s.setG d v).window = s.window := rfl
@[simp] theorem State.setG_pup (s : State) (d : Spec) (v : Word) : (s.setG d v).pup = s.pup := rfl
@[simp] theorem State.setG_fabn (s : State) (d : Spec) (v : Word) : (s.setG d v).fabn = s.fabn := rfl
@[simp] theorem State.setG_remoteGens (s : State) (d : Spec) (v : Word) : (s.setG d v).remoteGens = s.remoteGens := rfl
@[simp] theorem State.setG_outbox (s : State) (d : Spec) (v : Word) : (s.setG d v).outbox = s.outbox := rfl
@[simp] theorem State.setG_root (s : State) (d : Spec) (v : Word) : (s.setG d v).root = s.root := rfl

/-! ### Memory, bits and poison are written -/

@[simp] theorem State.wr_ticks (s : State) (a n v : Nat) : (s.wr a n v).ticks = s.ticks := rfl
@[simp] theorem State.wr_agenda (s : State) (a n v : Nat) : (s.wr a n v).agenda = s.agenda := rfl
@[simp] theorem State.wr_turn (s : State) (a n v : Nat) : (s.wr a n v).turn = s.turn := rfl
@[simp] theorem State.wr_cur (s : State) (a n v : Nat) : (s.wr a n v).cur = s.cur := rfl
@[simp] theorem State.wr_issue (s : State) (a n v : Nat) : (s.wr a n v).issue = s.issue := rfl
@[simp] theorem State.wr_pair (s : State) (a n v : Nat) : (s.wr a n v).pair = s.pair := rfl
@[simp] theorem State.wr_free (s : State) (a n v : Nat) : (s.wr a n v).free = s.free := rfl
@[simp] theorem State.wr_conf (s : State) (a n v : Nat) : (s.wr a n v).conf = s.conf := rfl
@[simp] theorem State.wr_empties (s : State) (a n v : Nat) : (s.wr a n v).empties = s.empties := rfl
@[simp] theorem State.wr_poison (s : State) (a n v : Nat) : (s.wr a n v).poison = s.poison := rfl
@[simp] theorem State.wr_parkedLines (s : State) (a n v : Nat) : (s.wr a n v).parkedLines = s.parkedLines := rfl
@[simp] theorem State.wr_cores (s : State) (a n v : Nat) : (s.wr a n v).cores = s.cores := rfl
@[simp] theorem State.wr_lines (s : State) (a n v : Nat) : (s.wr a n v).lines = s.lines := rfl
@[simp] theorem State.wr_owners (s : State) (a n v : Nat) : (s.wr a n v).owners = s.owners := rfl
@[simp] theorem State.wr_xlates (s : State) (a n v : Nat) : (s.wr a n v).xlates = s.xlates := rfl
@[simp] theorem State.wr_watches (s : State) (a n v : Nat) : (s.wr a n v).watches = s.watches := rfl
@[simp] theorem State.wr_hgt (s : State) (a n v : Nat) : (s.wr a n v).hgt = s.hgt := rfl
@[simp] theorem State.wr_rootTable (s : State) (a n v : Nat) : (s.wr a n v).rootTable = s.rootTable := rfl
@[simp] theorem State.wr_frames (s : State) (a n v : Nat) : (s.wr a n v).frames = s.frames := rfl
@[simp] theorem State.wr_imports (s : State) (a n v : Nat) : (s.wr a n v).imports = s.imports := rfl
@[simp] theorem State.wr_hostPages (s : State) (a n v : Nat) : (s.wr a n v).hostPages = s.hostPages := rfl
@[simp] theorem State.wr_priOn (s : State) (a n v : Nat) : (s.wr a n v).priOn = s.priOn := rfl
@[simp] theorem State.wr_pri (s : State) (a n v : Nat) : (s.wr a n v).pri = s.pri := rfl
@[simp] theorem State.wr_priFailed (s : State) (a n v : Nat) : (s.wr a n v).priFailed = s.priFailed := rfl
@[simp] theorem State.wr_pageIns (s : State) (a n v : Nat) : (s.wr a n v).pageIns = s.pageIns := rfl
@[simp] theorem State.wr_cacheCnt (s : State) (a n v : Nat) : (s.wr a n v).cacheCnt = s.cacheCnt := rfl
@[simp] theorem State.wr_nextId (s : State) (a n v : Nat) : (s.wr a n v).nextId = s.nextId := rfl
@[simp] theorem State.wr_msgs (s : State) (a n v : Nat) : (s.wr a n v).msgs = s.msgs := rfl
@[simp] theorem State.wr_homeReqs (s : State) (a n v : Nat) : (s.wr a n v).homeReqs = s.homeReqs := rfl
@[simp] theorem State.wr_replies (s : State) (a n v : Nat) : (s.wr a n v).replies = s.replies := rfl
@[simp] theorem State.wr_teams (s : State) (a n v : Nat) : (s.wr a n v).teams = s.teams := rfl
@[simp] theorem State.wr_grids (s : State) (a n v : Nat) : (s.wr a n v).grids = s.grids := rfl
@[simp] theorem State.wr_dispensers (s : State) (a n v : Nat) : (s.wr a n v).dispensers = s.dispensers := rfl
@[simp] theorem State.wr_chains (s : State) (a n v : Nat) : (s.wr a n v).chains = s.chains := rfl
@[simp] theorem State.wr_offers (s : State) (a n v : Nat) : (s.wr a n v).offers = s.offers := rfl
@[simp] theorem State.wr_dies (s : State) (a n v : Nat) : (s.wr a n v).dies = s.dies := rfl
@[simp] theorem State.wr_qdbase (s : State) (a n v : Nat) : (s.wr a n v).qdbase = s.qdbase := rfl
@[simp] theorem State.wr_parkbase (s : State) (a n v : Nat) : (s.wr a n v).parkbase = s.parkbase := rfl
@[simp] theorem State.wr_parkrsz (s : State) (a n v : Nat) : (s.wr a n v).parkrsz = s.parkrsz := rfl
@[simp] theorem State.wr_cp (s : State) (a n v : Nat) : (s.wr a n v).cp = s.cp := rfl
@[simp] theorem State.wr_msix (s : State) (a n v : Nat) : (s.wr a n v).msix = s.msix := rfl
@[simp] theorem State.wr_bpa (s : State) (a n v : Nat) : (s.wr a n v).bpa = s.bpa := rfl
@[simp] theorem State.wr_bpc (s : State) (a n v : Nat) : (s.wr a n v).bpc = s.bpc := rfl
@[simp] theorem State.wr_trbase (s : State) (a n v : Nat) : (s.wr a n v).trbase = s.trbase := rfl
@[simp] theorem State.wr_epoch (s : State) (a n v : Nat) : (s.wr a n v).epoch = s.epoch := rfl
@[simp] theorem State.wr_power (s : State) (a n v : Nat) : (s.wr a n v).power = s.power := rfl
@[simp] theorem State.wr_zones (s : State) (a n v : Nat) : (s.wr a n v).zones = s.zones := rfl
@[simp] theorem State.wr_window (s : State) (a n v : Nat) : (s.wr a n v).window = s.window := rfl
@[simp] theorem State.wr_pup (s : State) (a n v : Nat) : (s.wr a n v).pup = s.pup := rfl
@[simp] theorem State.wr_fabn (s : State) (a n v : Nat) : (s.wr a n v).fabn = s.fabn := rfl
@[simp] theorem State.wr_remoteGens (s : State) (a n v : Nat) : (s.wr a n v).remoteGens = s.remoteGens := rfl
@[simp] theorem State.wr_outbox (s : State) (a n v : Nat) : (s.wr a n v).outbox = s.outbox := rfl
@[simp] theorem State.wr_root (s : State) (a n v : Nat) : (s.wr a n v).root = s.root := rfl

@[simp] theorem State.setFull_ticks (s : State) (a : Nat) (b : Bool) : (s.setFull a b).ticks = s.ticks := rfl
@[simp] theorem State.setFull_agenda (s : State) (a : Nat) (b : Bool) : (s.setFull a b).agenda = s.agenda := rfl
@[simp] theorem State.setFull_turn (s : State) (a : Nat) (b : Bool) : (s.setFull a b).turn = s.turn := rfl
@[simp] theorem State.setFull_cur (s : State) (a : Nat) (b : Bool) : (s.setFull a b).cur = s.cur := rfl
@[simp] theorem State.setFull_issue (s : State) (a : Nat) (b : Bool) : (s.setFull a b).issue = s.issue := rfl
@[simp] theorem State.setFull_pair (s : State) (a : Nat) (b : Bool) : (s.setFull a b).pair = s.pair := rfl
@[simp] theorem State.setFull_free (s : State) (a : Nat) (b : Bool) : (s.setFull a b).free = s.free := rfl
@[simp] theorem State.setFull_conf (s : State) (a : Nat) (b : Bool) : (s.setFull a b).conf = s.conf := rfl
@[simp] theorem State.setFull_mem (s : State) (a : Nat) (b : Bool) : (s.setFull a b).mem = s.mem := rfl
@[simp] theorem State.setFull_poison (s : State) (a : Nat) (b : Bool) : (s.setFull a b).poison = s.poison := rfl
@[simp] theorem State.setFull_parkedLines (s : State) (a : Nat) (b : Bool) : (s.setFull a b).parkedLines = s.parkedLines := rfl
@[simp] theorem State.setFull_cores (s : State) (a : Nat) (b : Bool) : (s.setFull a b).cores = s.cores := rfl
@[simp] theorem State.setFull_lines (s : State) (a : Nat) (b : Bool) : (s.setFull a b).lines = s.lines := rfl
@[simp] theorem State.setFull_owners (s : State) (a : Nat) (b : Bool) : (s.setFull a b).owners = s.owners := rfl
@[simp] theorem State.setFull_xlates (s : State) (a : Nat) (b : Bool) : (s.setFull a b).xlates = s.xlates := rfl
@[simp] theorem State.setFull_watches (s : State) (a : Nat) (b : Bool) : (s.setFull a b).watches = s.watches := rfl
@[simp] theorem State.setFull_hgt (s : State) (a : Nat) (b : Bool) : (s.setFull a b).hgt = s.hgt := rfl
@[simp] theorem State.setFull_rootTable (s : State) (a : Nat) (b : Bool) : (s.setFull a b).rootTable = s.rootTable := rfl
@[simp] theorem State.setFull_frames (s : State) (a : Nat) (b : Bool) : (s.setFull a b).frames = s.frames := rfl
@[simp] theorem State.setFull_imports (s : State) (a : Nat) (b : Bool) : (s.setFull a b).imports = s.imports := rfl
@[simp] theorem State.setFull_hostPages (s : State) (a : Nat) (b : Bool) : (s.setFull a b).hostPages = s.hostPages := rfl
@[simp] theorem State.setFull_priOn (s : State) (a : Nat) (b : Bool) : (s.setFull a b).priOn = s.priOn := rfl
@[simp] theorem State.setFull_pri (s : State) (a : Nat) (b : Bool) : (s.setFull a b).pri = s.pri := rfl
@[simp] theorem State.setFull_priFailed (s : State) (a : Nat) (b : Bool) : (s.setFull a b).priFailed = s.priFailed := rfl
@[simp] theorem State.setFull_pageIns (s : State) (a : Nat) (b : Bool) : (s.setFull a b).pageIns = s.pageIns := rfl
@[simp] theorem State.setFull_cacheCnt (s : State) (a : Nat) (b : Bool) : (s.setFull a b).cacheCnt = s.cacheCnt := rfl
@[simp] theorem State.setFull_nextId (s : State) (a : Nat) (b : Bool) : (s.setFull a b).nextId = s.nextId := rfl
@[simp] theorem State.setFull_msgs (s : State) (a : Nat) (b : Bool) : (s.setFull a b).msgs = s.msgs := rfl
@[simp] theorem State.setFull_homeReqs (s : State) (a : Nat) (b : Bool) : (s.setFull a b).homeReqs = s.homeReqs := rfl
@[simp] theorem State.setFull_replies (s : State) (a : Nat) (b : Bool) : (s.setFull a b).replies = s.replies := rfl
@[simp] theorem State.setFull_teams (s : State) (a : Nat) (b : Bool) : (s.setFull a b).teams = s.teams := rfl
@[simp] theorem State.setFull_grids (s : State) (a : Nat) (b : Bool) : (s.setFull a b).grids = s.grids := rfl
@[simp] theorem State.setFull_dispensers (s : State) (a : Nat) (b : Bool) : (s.setFull a b).dispensers = s.dispensers := rfl
@[simp] theorem State.setFull_chains (s : State) (a : Nat) (b : Bool) : (s.setFull a b).chains = s.chains := rfl
@[simp] theorem State.setFull_offers (s : State) (a : Nat) (b : Bool) : (s.setFull a b).offers = s.offers := rfl
@[simp] theorem State.setFull_dies (s : State) (a : Nat) (b : Bool) : (s.setFull a b).dies = s.dies := rfl
@[simp] theorem State.setFull_qdbase (s : State) (a : Nat) (b : Bool) : (s.setFull a b).qdbase = s.qdbase := rfl
@[simp] theorem State.setFull_parkbase (s : State) (a : Nat) (b : Bool) : (s.setFull a b).parkbase = s.parkbase := rfl
@[simp] theorem State.setFull_parkrsz (s : State) (a : Nat) (b : Bool) : (s.setFull a b).parkrsz = s.parkrsz := rfl
@[simp] theorem State.setFull_cp (s : State) (a : Nat) (b : Bool) : (s.setFull a b).cp = s.cp := rfl
@[simp] theorem State.setFull_msix (s : State) (a : Nat) (b : Bool) : (s.setFull a b).msix = s.msix := rfl
@[simp] theorem State.setFull_bpa (s : State) (a : Nat) (b : Bool) : (s.setFull a b).bpa = s.bpa := rfl
@[simp] theorem State.setFull_bpc (s : State) (a : Nat) (b : Bool) : (s.setFull a b).bpc = s.bpc := rfl
@[simp] theorem State.setFull_trbase (s : State) (a : Nat) (b : Bool) : (s.setFull a b).trbase = s.trbase := rfl
@[simp] theorem State.setFull_epoch (s : State) (a : Nat) (b : Bool) : (s.setFull a b).epoch = s.epoch := rfl
@[simp] theorem State.setFull_power (s : State) (a : Nat) (b : Bool) : (s.setFull a b).power = s.power := rfl
@[simp] theorem State.setFull_zones (s : State) (a : Nat) (b : Bool) : (s.setFull a b).zones = s.zones := rfl
@[simp] theorem State.setFull_window (s : State) (a : Nat) (b : Bool) : (s.setFull a b).window = s.window := rfl
@[simp] theorem State.setFull_pup (s : State) (a : Nat) (b : Bool) : (s.setFull a b).pup = s.pup := rfl
@[simp] theorem State.setFull_fabn (s : State) (a : Nat) (b : Bool) : (s.setFull a b).fabn = s.fabn := rfl
@[simp] theorem State.setFull_remoteGens (s : State) (a : Nat) (b : Bool) : (s.setFull a b).remoteGens = s.remoteGens := rfl
@[simp] theorem State.setFull_outbox (s : State) (a : Nat) (b : Bool) : (s.setFull a b).outbox = s.outbox := rfl
@[simp] theorem State.setFull_root (s : State) (a : Nat) (b : Bool) : (s.setFull a b).root = s.root := rfl

@[simp] theorem State.setPoison_ticks (s : State) (a : Nat) (b : Bool) : (s.setPoison a b).ticks = s.ticks := rfl
@[simp] theorem State.setPoison_agenda (s : State) (a : Nat) (b : Bool) : (s.setPoison a b).agenda = s.agenda := rfl
@[simp] theorem State.setPoison_turn (s : State) (a : Nat) (b : Bool) : (s.setPoison a b).turn = s.turn := rfl
@[simp] theorem State.setPoison_cur (s : State) (a : Nat) (b : Bool) : (s.setPoison a b).cur = s.cur := rfl
@[simp] theorem State.setPoison_issue (s : State) (a : Nat) (b : Bool) : (s.setPoison a b).issue = s.issue := rfl
@[simp] theorem State.setPoison_pair (s : State) (a : Nat) (b : Bool) : (s.setPoison a b).pair = s.pair := rfl
@[simp] theorem State.setPoison_free (s : State) (a : Nat) (b : Bool) : (s.setPoison a b).free = s.free := rfl
@[simp] theorem State.setPoison_conf (s : State) (a : Nat) (b : Bool) : (s.setPoison a b).conf = s.conf := rfl
@[simp] theorem State.setPoison_mem (s : State) (a : Nat) (b : Bool) : (s.setPoison a b).mem = s.mem := rfl
@[simp] theorem State.setPoison_empties (s : State) (a : Nat) (b : Bool) : (s.setPoison a b).empties = s.empties := rfl
@[simp] theorem State.setPoison_parkedLines (s : State) (a : Nat) (b : Bool) : (s.setPoison a b).parkedLines = s.parkedLines := rfl
@[simp] theorem State.setPoison_cores (s : State) (a : Nat) (b : Bool) : (s.setPoison a b).cores = s.cores := rfl
@[simp] theorem State.setPoison_lines (s : State) (a : Nat) (b : Bool) : (s.setPoison a b).lines = s.lines := rfl
@[simp] theorem State.setPoison_owners (s : State) (a : Nat) (b : Bool) : (s.setPoison a b).owners = s.owners := rfl
@[simp] theorem State.setPoison_xlates (s : State) (a : Nat) (b : Bool) : (s.setPoison a b).xlates = s.xlates := rfl
@[simp] theorem State.setPoison_watches (s : State) (a : Nat) (b : Bool) : (s.setPoison a b).watches = s.watches := rfl
@[simp] theorem State.setPoison_hgt (s : State) (a : Nat) (b : Bool) : (s.setPoison a b).hgt = s.hgt := rfl
@[simp] theorem State.setPoison_rootTable (s : State) (a : Nat) (b : Bool) : (s.setPoison a b).rootTable = s.rootTable := rfl
@[simp] theorem State.setPoison_frames (s : State) (a : Nat) (b : Bool) : (s.setPoison a b).frames = s.frames := rfl
@[simp] theorem State.setPoison_imports (s : State) (a : Nat) (b : Bool) : (s.setPoison a b).imports = s.imports := rfl
@[simp] theorem State.setPoison_hostPages (s : State) (a : Nat) (b : Bool) : (s.setPoison a b).hostPages = s.hostPages := rfl
@[simp] theorem State.setPoison_priOn (s : State) (a : Nat) (b : Bool) : (s.setPoison a b).priOn = s.priOn := rfl
@[simp] theorem State.setPoison_pri (s : State) (a : Nat) (b : Bool) : (s.setPoison a b).pri = s.pri := rfl
@[simp] theorem State.setPoison_priFailed (s : State) (a : Nat) (b : Bool) : (s.setPoison a b).priFailed = s.priFailed := rfl
@[simp] theorem State.setPoison_pageIns (s : State) (a : Nat) (b : Bool) : (s.setPoison a b).pageIns = s.pageIns := rfl
@[simp] theorem State.setPoison_cacheCnt (s : State) (a : Nat) (b : Bool) : (s.setPoison a b).cacheCnt = s.cacheCnt := rfl
@[simp] theorem State.setPoison_nextId (s : State) (a : Nat) (b : Bool) : (s.setPoison a b).nextId = s.nextId := rfl
@[simp] theorem State.setPoison_msgs (s : State) (a : Nat) (b : Bool) : (s.setPoison a b).msgs = s.msgs := rfl
@[simp] theorem State.setPoison_homeReqs (s : State) (a : Nat) (b : Bool) : (s.setPoison a b).homeReqs = s.homeReqs := rfl
@[simp] theorem State.setPoison_replies (s : State) (a : Nat) (b : Bool) : (s.setPoison a b).replies = s.replies := rfl
@[simp] theorem State.setPoison_teams (s : State) (a : Nat) (b : Bool) : (s.setPoison a b).teams = s.teams := rfl
@[simp] theorem State.setPoison_grids (s : State) (a : Nat) (b : Bool) : (s.setPoison a b).grids = s.grids := rfl
@[simp] theorem State.setPoison_dispensers (s : State) (a : Nat) (b : Bool) : (s.setPoison a b).dispensers = s.dispensers := rfl
@[simp] theorem State.setPoison_chains (s : State) (a : Nat) (b : Bool) : (s.setPoison a b).chains = s.chains := rfl
@[simp] theorem State.setPoison_offers (s : State) (a : Nat) (b : Bool) : (s.setPoison a b).offers = s.offers := rfl
@[simp] theorem State.setPoison_dies (s : State) (a : Nat) (b : Bool) : (s.setPoison a b).dies = s.dies := rfl
@[simp] theorem State.setPoison_qdbase (s : State) (a : Nat) (b : Bool) : (s.setPoison a b).qdbase = s.qdbase := rfl
@[simp] theorem State.setPoison_parkbase (s : State) (a : Nat) (b : Bool) : (s.setPoison a b).parkbase = s.parkbase := rfl
@[simp] theorem State.setPoison_parkrsz (s : State) (a : Nat) (b : Bool) : (s.setPoison a b).parkrsz = s.parkrsz := rfl
@[simp] theorem State.setPoison_cp (s : State) (a : Nat) (b : Bool) : (s.setPoison a b).cp = s.cp := rfl
@[simp] theorem State.setPoison_msix (s : State) (a : Nat) (b : Bool) : (s.setPoison a b).msix = s.msix := rfl
@[simp] theorem State.setPoison_bpa (s : State) (a : Nat) (b : Bool) : (s.setPoison a b).bpa = s.bpa := rfl
@[simp] theorem State.setPoison_bpc (s : State) (a : Nat) (b : Bool) : (s.setPoison a b).bpc = s.bpc := rfl
@[simp] theorem State.setPoison_trbase (s : State) (a : Nat) (b : Bool) : (s.setPoison a b).trbase = s.trbase := rfl
@[simp] theorem State.setPoison_epoch (s : State) (a : Nat) (b : Bool) : (s.setPoison a b).epoch = s.epoch := rfl
@[simp] theorem State.setPoison_power (s : State) (a : Nat) (b : Bool) : (s.setPoison a b).power = s.power := rfl
@[simp] theorem State.setPoison_zones (s : State) (a : Nat) (b : Bool) : (s.setPoison a b).zones = s.zones := rfl
@[simp] theorem State.setPoison_window (s : State) (a : Nat) (b : Bool) : (s.setPoison a b).window = s.window := rfl
@[simp] theorem State.setPoison_pup (s : State) (a : Nat) (b : Bool) : (s.setPoison a b).pup = s.pup := rfl
@[simp] theorem State.setPoison_fabn (s : State) (a : Nat) (b : Bool) : (s.setPoison a b).fabn = s.fabn := rfl
@[simp] theorem State.setPoison_remoteGens (s : State) (a : Nat) (b : Bool) : (s.setPoison a b).remoteGens = s.remoteGens := rfl
@[simp] theorem State.setPoison_outbox (s : State) (a : Nat) (b : Bool) : (s.setPoison a b).outbox = s.outbox := rfl
@[simp] theorem State.setPoison_root (s : State) (a : Nat) (b : Bool) : (s.setPoison a b).root = s.root := rfl

/-! ### A zone, a die or a chain is replaced -/

@[simp] theorem State.setZone_ticks (s : State) (z : Nat) (x : Zone) : (s.setZone z x).ticks = s.ticks := rfl
@[simp] theorem State.setZone_agenda (s : State) (z : Nat) (x : Zone) : (s.setZone z x).agenda = s.agenda := rfl
@[simp] theorem State.setZone_turn (s : State) (z : Nat) (x : Zone) : (s.setZone z x).turn = s.turn := rfl
@[simp] theorem State.setZone_cur (s : State) (z : Nat) (x : Zone) : (s.setZone z x).cur = s.cur := rfl
@[simp] theorem State.setZone_issue (s : State) (z : Nat) (x : Zone) : (s.setZone z x).issue = s.issue := rfl
@[simp] theorem State.setZone_pair (s : State) (z : Nat) (x : Zone) : (s.setZone z x).pair = s.pair := rfl
@[simp] theorem State.setZone_free (s : State) (z : Nat) (x : Zone) : (s.setZone z x).free = s.free := rfl
@[simp] theorem State.setZone_conf (s : State) (z : Nat) (x : Zone) : (s.setZone z x).conf = s.conf := rfl
@[simp] theorem State.setZone_mem (s : State) (z : Nat) (x : Zone) : (s.setZone z x).mem = s.mem := rfl
@[simp] theorem State.setZone_empties (s : State) (z : Nat) (x : Zone) : (s.setZone z x).empties = s.empties := rfl
@[simp] theorem State.setZone_poison (s : State) (z : Nat) (x : Zone) : (s.setZone z x).poison = s.poison := rfl
@[simp] theorem State.setZone_parkedLines (s : State) (z : Nat) (x : Zone) : (s.setZone z x).parkedLines = s.parkedLines := rfl
@[simp] theorem State.setZone_cores (s : State) (z : Nat) (x : Zone) : (s.setZone z x).cores = s.cores := rfl
@[simp] theorem State.setZone_lines (s : State) (z : Nat) (x : Zone) : (s.setZone z x).lines = s.lines := rfl
@[simp] theorem State.setZone_owners (s : State) (z : Nat) (x : Zone) : (s.setZone z x).owners = s.owners := rfl
@[simp] theorem State.setZone_xlates (s : State) (z : Nat) (x : Zone) : (s.setZone z x).xlates = s.xlates := rfl
@[simp] theorem State.setZone_watches (s : State) (z : Nat) (x : Zone) : (s.setZone z x).watches = s.watches := rfl
@[simp] theorem State.setZone_hgt (s : State) (z : Nat) (x : Zone) : (s.setZone z x).hgt = s.hgt := rfl
@[simp] theorem State.setZone_rootTable (s : State) (z : Nat) (x : Zone) : (s.setZone z x).rootTable = s.rootTable := rfl
@[simp] theorem State.setZone_frames (s : State) (z : Nat) (x : Zone) : (s.setZone z x).frames = s.frames := rfl
@[simp] theorem State.setZone_imports (s : State) (z : Nat) (x : Zone) : (s.setZone z x).imports = s.imports := rfl
@[simp] theorem State.setZone_hostPages (s : State) (z : Nat) (x : Zone) : (s.setZone z x).hostPages = s.hostPages := rfl
@[simp] theorem State.setZone_priOn (s : State) (z : Nat) (x : Zone) : (s.setZone z x).priOn = s.priOn := rfl
@[simp] theorem State.setZone_pri (s : State) (z : Nat) (x : Zone) : (s.setZone z x).pri = s.pri := rfl
@[simp] theorem State.setZone_priFailed (s : State) (z : Nat) (x : Zone) : (s.setZone z x).priFailed = s.priFailed := rfl
@[simp] theorem State.setZone_pageIns (s : State) (z : Nat) (x : Zone) : (s.setZone z x).pageIns = s.pageIns := rfl
@[simp] theorem State.setZone_cacheCnt (s : State) (z : Nat) (x : Zone) : (s.setZone z x).cacheCnt = s.cacheCnt := rfl
@[simp] theorem State.setZone_nextId (s : State) (z : Nat) (x : Zone) : (s.setZone z x).nextId = s.nextId := rfl
@[simp] theorem State.setZone_msgs (s : State) (z : Nat) (x : Zone) : (s.setZone z x).msgs = s.msgs := rfl
@[simp] theorem State.setZone_homeReqs (s : State) (z : Nat) (x : Zone) : (s.setZone z x).homeReqs = s.homeReqs := rfl
@[simp] theorem State.setZone_replies (s : State) (z : Nat) (x : Zone) : (s.setZone z x).replies = s.replies := rfl
@[simp] theorem State.setZone_teams (s : State) (z : Nat) (x : Zone) : (s.setZone z x).teams = s.teams := rfl
@[simp] theorem State.setZone_grids (s : State) (z : Nat) (x : Zone) : (s.setZone z x).grids = s.grids := rfl
@[simp] theorem State.setZone_dispensers (s : State) (z : Nat) (x : Zone) : (s.setZone z x).dispensers = s.dispensers := rfl
@[simp] theorem State.setZone_chains (s : State) (z : Nat) (x : Zone) : (s.setZone z x).chains = s.chains := rfl
@[simp] theorem State.setZone_offers (s : State) (z : Nat) (x : Zone) : (s.setZone z x).offers = s.offers := rfl
@[simp] theorem State.setZone_dies (s : State) (z : Nat) (x : Zone) : (s.setZone z x).dies = s.dies := rfl
@[simp] theorem State.setZone_qdbase (s : State) (z : Nat) (x : Zone) : (s.setZone z x).qdbase = s.qdbase := rfl
@[simp] theorem State.setZone_parkbase (s : State) (z : Nat) (x : Zone) : (s.setZone z x).parkbase = s.parkbase := rfl
@[simp] theorem State.setZone_parkrsz (s : State) (z : Nat) (x : Zone) : (s.setZone z x).parkrsz = s.parkrsz := rfl
@[simp] theorem State.setZone_cp (s : State) (z : Nat) (x : Zone) : (s.setZone z x).cp = s.cp := rfl
@[simp] theorem State.setZone_msix (s : State) (z : Nat) (x : Zone) : (s.setZone z x).msix = s.msix := rfl
@[simp] theorem State.setZone_bpa (s : State) (z : Nat) (x : Zone) : (s.setZone z x).bpa = s.bpa := rfl
@[simp] theorem State.setZone_bpc (s : State) (z : Nat) (x : Zone) : (s.setZone z x).bpc = s.bpc := rfl
@[simp] theorem State.setZone_trbase (s : State) (z : Nat) (x : Zone) : (s.setZone z x).trbase = s.trbase := rfl
@[simp] theorem State.setZone_epoch (s : State) (z : Nat) (x : Zone) : (s.setZone z x).epoch = s.epoch := rfl
@[simp] theorem State.setZone_power (s : State) (z : Nat) (x : Zone) : (s.setZone z x).power = s.power := rfl
@[simp] theorem State.setZone_window (s : State) (z : Nat) (x : Zone) : (s.setZone z x).window = s.window := rfl
@[simp] theorem State.setZone_pup (s : State) (z : Nat) (x : Zone) : (s.setZone z x).pup = s.pup := rfl
@[simp] theorem State.setZone_fabn (s : State) (z : Nat) (x : Zone) : (s.setZone z x).fabn = s.fabn := rfl
@[simp] theorem State.setZone_remoteGens (s : State) (z : Nat) (x : Zone) : (s.setZone z x).remoteGens = s.remoteGens := rfl
@[simp] theorem State.setZone_outbox (s : State) (z : Nat) (x : Zone) : (s.setZone z x).outbox = s.outbox := rfl
@[simp] theorem State.setZone_root (s : State) (z : Nat) (x : Zone) : (s.setZone z x).root = s.root := rfl

@[simp] theorem State.setDie_ticks (s : State) (d : Nat) (x : Die) : (s.setDie d x).ticks = s.ticks := rfl
@[simp] theorem State.setDie_agenda (s : State) (d : Nat) (x : Die) : (s.setDie d x).agenda = s.agenda := rfl
@[simp] theorem State.setDie_turn (s : State) (d : Nat) (x : Die) : (s.setDie d x).turn = s.turn := rfl
@[simp] theorem State.setDie_cur (s : State) (d : Nat) (x : Die) : (s.setDie d x).cur = s.cur := rfl
@[simp] theorem State.setDie_issue (s : State) (d : Nat) (x : Die) : (s.setDie d x).issue = s.issue := rfl
@[simp] theorem State.setDie_pair (s : State) (d : Nat) (x : Die) : (s.setDie d x).pair = s.pair := rfl
@[simp] theorem State.setDie_free (s : State) (d : Nat) (x : Die) : (s.setDie d x).free = s.free := rfl
@[simp] theorem State.setDie_conf (s : State) (d : Nat) (x : Die) : (s.setDie d x).conf = s.conf := rfl
@[simp] theorem State.setDie_mem (s : State) (d : Nat) (x : Die) : (s.setDie d x).mem = s.mem := rfl
@[simp] theorem State.setDie_empties (s : State) (d : Nat) (x : Die) : (s.setDie d x).empties = s.empties := rfl
@[simp] theorem State.setDie_poison (s : State) (d : Nat) (x : Die) : (s.setDie d x).poison = s.poison := rfl
@[simp] theorem State.setDie_parkedLines (s : State) (d : Nat) (x : Die) : (s.setDie d x).parkedLines = s.parkedLines := rfl
@[simp] theorem State.setDie_cores (s : State) (d : Nat) (x : Die) : (s.setDie d x).cores = s.cores := rfl
@[simp] theorem State.setDie_lines (s : State) (d : Nat) (x : Die) : (s.setDie d x).lines = s.lines := rfl
@[simp] theorem State.setDie_owners (s : State) (d : Nat) (x : Die) : (s.setDie d x).owners = s.owners := rfl
@[simp] theorem State.setDie_xlates (s : State) (d : Nat) (x : Die) : (s.setDie d x).xlates = s.xlates := rfl
@[simp] theorem State.setDie_watches (s : State) (d : Nat) (x : Die) : (s.setDie d x).watches = s.watches := rfl
@[simp] theorem State.setDie_hgt (s : State) (d : Nat) (x : Die) : (s.setDie d x).hgt = s.hgt := rfl
@[simp] theorem State.setDie_rootTable (s : State) (d : Nat) (x : Die) : (s.setDie d x).rootTable = s.rootTable := rfl
@[simp] theorem State.setDie_frames (s : State) (d : Nat) (x : Die) : (s.setDie d x).frames = s.frames := rfl
@[simp] theorem State.setDie_imports (s : State) (d : Nat) (x : Die) : (s.setDie d x).imports = s.imports := rfl
@[simp] theorem State.setDie_hostPages (s : State) (d : Nat) (x : Die) : (s.setDie d x).hostPages = s.hostPages := rfl
@[simp] theorem State.setDie_priOn (s : State) (d : Nat) (x : Die) : (s.setDie d x).priOn = s.priOn := rfl
@[simp] theorem State.setDie_pri (s : State) (d : Nat) (x : Die) : (s.setDie d x).pri = s.pri := rfl
@[simp] theorem State.setDie_priFailed (s : State) (d : Nat) (x : Die) : (s.setDie d x).priFailed = s.priFailed := rfl
@[simp] theorem State.setDie_pageIns (s : State) (d : Nat) (x : Die) : (s.setDie d x).pageIns = s.pageIns := rfl
@[simp] theorem State.setDie_cacheCnt (s : State) (d : Nat) (x : Die) : (s.setDie d x).cacheCnt = s.cacheCnt := rfl
@[simp] theorem State.setDie_nextId (s : State) (d : Nat) (x : Die) : (s.setDie d x).nextId = s.nextId := rfl
@[simp] theorem State.setDie_msgs (s : State) (d : Nat) (x : Die) : (s.setDie d x).msgs = s.msgs := rfl
@[simp] theorem State.setDie_homeReqs (s : State) (d : Nat) (x : Die) : (s.setDie d x).homeReqs = s.homeReqs := rfl
@[simp] theorem State.setDie_replies (s : State) (d : Nat) (x : Die) : (s.setDie d x).replies = s.replies := rfl
@[simp] theorem State.setDie_teams (s : State) (d : Nat) (x : Die) : (s.setDie d x).teams = s.teams := rfl
@[simp] theorem State.setDie_grids (s : State) (d : Nat) (x : Die) : (s.setDie d x).grids = s.grids := rfl
@[simp] theorem State.setDie_dispensers (s : State) (d : Nat) (x : Die) : (s.setDie d x).dispensers = s.dispensers := rfl
@[simp] theorem State.setDie_chains (s : State) (d : Nat) (x : Die) : (s.setDie d x).chains = s.chains := rfl
@[simp] theorem State.setDie_offers (s : State) (d : Nat) (x : Die) : (s.setDie d x).offers = s.offers := rfl
@[simp] theorem State.setDie_qdbase (s : State) (d : Nat) (x : Die) : (s.setDie d x).qdbase = s.qdbase := rfl
@[simp] theorem State.setDie_parkbase (s : State) (d : Nat) (x : Die) : (s.setDie d x).parkbase = s.parkbase := rfl
@[simp] theorem State.setDie_parkrsz (s : State) (d : Nat) (x : Die) : (s.setDie d x).parkrsz = s.parkrsz := rfl
@[simp] theorem State.setDie_cp (s : State) (d : Nat) (x : Die) : (s.setDie d x).cp = s.cp := rfl
@[simp] theorem State.setDie_msix (s : State) (d : Nat) (x : Die) : (s.setDie d x).msix = s.msix := rfl
@[simp] theorem State.setDie_bpa (s : State) (d : Nat) (x : Die) : (s.setDie d x).bpa = s.bpa := rfl
@[simp] theorem State.setDie_bpc (s : State) (d : Nat) (x : Die) : (s.setDie d x).bpc = s.bpc := rfl
@[simp] theorem State.setDie_trbase (s : State) (d : Nat) (x : Die) : (s.setDie d x).trbase = s.trbase := rfl
@[simp] theorem State.setDie_epoch (s : State) (d : Nat) (x : Die) : (s.setDie d x).epoch = s.epoch := rfl
@[simp] theorem State.setDie_power (s : State) (d : Nat) (x : Die) : (s.setDie d x).power = s.power := rfl
@[simp] theorem State.setDie_zones (s : State) (d : Nat) (x : Die) : (s.setDie d x).zones = s.zones := rfl
@[simp] theorem State.setDie_window (s : State) (d : Nat) (x : Die) : (s.setDie d x).window = s.window := rfl
@[simp] theorem State.setDie_pup (s : State) (d : Nat) (x : Die) : (s.setDie d x).pup = s.pup := rfl
@[simp] theorem State.setDie_fabn (s : State) (d : Nat) (x : Die) : (s.setDie d x).fabn = s.fabn := rfl
@[simp] theorem State.setDie_remoteGens (s : State) (d : Nat) (x : Die) : (s.setDie d x).remoteGens = s.remoteGens := rfl
@[simp] theorem State.setDie_outbox (s : State) (d : Nat) (x : Die) : (s.setDie d x).outbox = s.outbox := rfl
@[simp] theorem State.setDie_root (s : State) (d : Nat) (x : Die) : (s.setDie d x).root = s.root := rfl

@[simp] theorem State.setChain_ticks (s : State) (h : Nat) (x : Chain) : (s.setChain h x).ticks = s.ticks := rfl
@[simp] theorem State.setChain_agenda (s : State) (h : Nat) (x : Chain) : (s.setChain h x).agenda = s.agenda := rfl
@[simp] theorem State.setChain_turn (s : State) (h : Nat) (x : Chain) : (s.setChain h x).turn = s.turn := rfl
@[simp] theorem State.setChain_cur (s : State) (h : Nat) (x : Chain) : (s.setChain h x).cur = s.cur := rfl
@[simp] theorem State.setChain_issue (s : State) (h : Nat) (x : Chain) : (s.setChain h x).issue = s.issue := rfl
@[simp] theorem State.setChain_pair (s : State) (h : Nat) (x : Chain) : (s.setChain h x).pair = s.pair := rfl
@[simp] theorem State.setChain_free (s : State) (h : Nat) (x : Chain) : (s.setChain h x).free = s.free := rfl
@[simp] theorem State.setChain_conf (s : State) (h : Nat) (x : Chain) : (s.setChain h x).conf = s.conf := rfl
@[simp] theorem State.setChain_mem (s : State) (h : Nat) (x : Chain) : (s.setChain h x).mem = s.mem := rfl
@[simp] theorem State.setChain_empties (s : State) (h : Nat) (x : Chain) : (s.setChain h x).empties = s.empties := rfl
@[simp] theorem State.setChain_poison (s : State) (h : Nat) (x : Chain) : (s.setChain h x).poison = s.poison := rfl
@[simp] theorem State.setChain_parkedLines (s : State) (h : Nat) (x : Chain) : (s.setChain h x).parkedLines = s.parkedLines := rfl
@[simp] theorem State.setChain_cores (s : State) (h : Nat) (x : Chain) : (s.setChain h x).cores = s.cores := rfl
@[simp] theorem State.setChain_lines (s : State) (h : Nat) (x : Chain) : (s.setChain h x).lines = s.lines := rfl
@[simp] theorem State.setChain_owners (s : State) (h : Nat) (x : Chain) : (s.setChain h x).owners = s.owners := rfl
@[simp] theorem State.setChain_xlates (s : State) (h : Nat) (x : Chain) : (s.setChain h x).xlates = s.xlates := rfl
@[simp] theorem State.setChain_watches (s : State) (h : Nat) (x : Chain) : (s.setChain h x).watches = s.watches := rfl
@[simp] theorem State.setChain_hgt (s : State) (h : Nat) (x : Chain) : (s.setChain h x).hgt = s.hgt := rfl
@[simp] theorem State.setChain_rootTable (s : State) (h : Nat) (x : Chain) : (s.setChain h x).rootTable = s.rootTable := rfl
@[simp] theorem State.setChain_frames (s : State) (h : Nat) (x : Chain) : (s.setChain h x).frames = s.frames := rfl
@[simp] theorem State.setChain_imports (s : State) (h : Nat) (x : Chain) : (s.setChain h x).imports = s.imports := rfl
@[simp] theorem State.setChain_hostPages (s : State) (h : Nat) (x : Chain) : (s.setChain h x).hostPages = s.hostPages := rfl
@[simp] theorem State.setChain_priOn (s : State) (h : Nat) (x : Chain) : (s.setChain h x).priOn = s.priOn := rfl
@[simp] theorem State.setChain_pri (s : State) (h : Nat) (x : Chain) : (s.setChain h x).pri = s.pri := rfl
@[simp] theorem State.setChain_priFailed (s : State) (h : Nat) (x : Chain) : (s.setChain h x).priFailed = s.priFailed := rfl
@[simp] theorem State.setChain_pageIns (s : State) (h : Nat) (x : Chain) : (s.setChain h x).pageIns = s.pageIns := rfl
@[simp] theorem State.setChain_cacheCnt (s : State) (h : Nat) (x : Chain) : (s.setChain h x).cacheCnt = s.cacheCnt := rfl
@[simp] theorem State.setChain_nextId (s : State) (h : Nat) (x : Chain) : (s.setChain h x).nextId = s.nextId := rfl
@[simp] theorem State.setChain_msgs (s : State) (h : Nat) (x : Chain) : (s.setChain h x).msgs = s.msgs := rfl
@[simp] theorem State.setChain_homeReqs (s : State) (h : Nat) (x : Chain) : (s.setChain h x).homeReqs = s.homeReqs := rfl
@[simp] theorem State.setChain_replies (s : State) (h : Nat) (x : Chain) : (s.setChain h x).replies = s.replies := rfl
@[simp] theorem State.setChain_teams (s : State) (h : Nat) (x : Chain) : (s.setChain h x).teams = s.teams := rfl
@[simp] theorem State.setChain_grids (s : State) (h : Nat) (x : Chain) : (s.setChain h x).grids = s.grids := rfl
@[simp] theorem State.setChain_dispensers (s : State) (h : Nat) (x : Chain) : (s.setChain h x).dispensers = s.dispensers := rfl
@[simp] theorem State.setChain_offers (s : State) (h : Nat) (x : Chain) : (s.setChain h x).offers = s.offers := rfl
@[simp] theorem State.setChain_dies (s : State) (h : Nat) (x : Chain) : (s.setChain h x).dies = s.dies := rfl
@[simp] theorem State.setChain_qdbase (s : State) (h : Nat) (x : Chain) : (s.setChain h x).qdbase = s.qdbase := rfl
@[simp] theorem State.setChain_parkbase (s : State) (h : Nat) (x : Chain) : (s.setChain h x).parkbase = s.parkbase := rfl
@[simp] theorem State.setChain_parkrsz (s : State) (h : Nat) (x : Chain) : (s.setChain h x).parkrsz = s.parkrsz := rfl
@[simp] theorem State.setChain_cp (s : State) (h : Nat) (x : Chain) : (s.setChain h x).cp = s.cp := rfl
@[simp] theorem State.setChain_msix (s : State) (h : Nat) (x : Chain) : (s.setChain h x).msix = s.msix := rfl
@[simp] theorem State.setChain_bpa (s : State) (h : Nat) (x : Chain) : (s.setChain h x).bpa = s.bpa := rfl
@[simp] theorem State.setChain_bpc (s : State) (h : Nat) (x : Chain) : (s.setChain h x).bpc = s.bpc := rfl
@[simp] theorem State.setChain_trbase (s : State) (h : Nat) (x : Chain) : (s.setChain h x).trbase = s.trbase := rfl
@[simp] theorem State.setChain_epoch (s : State) (h : Nat) (x : Chain) : (s.setChain h x).epoch = s.epoch := rfl
@[simp] theorem State.setChain_power (s : State) (h : Nat) (x : Chain) : (s.setChain h x).power = s.power := rfl
@[simp] theorem State.setChain_zones (s : State) (h : Nat) (x : Chain) : (s.setChain h x).zones = s.zones := rfl
@[simp] theorem State.setChain_window (s : State) (h : Nat) (x : Chain) : (s.setChain h x).window = s.window := rfl
@[simp] theorem State.setChain_pup (s : State) (h : Nat) (x : Chain) : (s.setChain h x).pup = s.pup := rfl
@[simp] theorem State.setChain_fabn (s : State) (h : Nat) (x : Chain) : (s.setChain h x).fabn = s.fabn := rfl
@[simp] theorem State.setChain_remoteGens (s : State) (h : Nat) (x : Chain) : (s.setChain h x).remoteGens = s.remoteGens := rfl
@[simp] theorem State.setChain_outbox (s : State) (h : Nat) (x : Chain) : (s.setChain h x).outbox = s.outbox := rfl
@[simp] theorem State.setChain_root (s : State) (h : Nat) (x : Chain) : (s.setChain h x).root = s.root := rfl

/-! ### A context of a core is replaced -/

@[simp] theorem Core.setCtx_team (s : Core) (k : Nat) (x : Ctx) : (s.setCtx k x).team = s.team := rfl
@[simp] theorem Core.setCtx_rank (s : Core) (k : Nat) (x : Ctx) : (s.setCtx k x).rank = s.rank := rfl
@[simp] theorem Core.setCtx_dom (s : Core) (k : Nat) (x : Ctx) : (s.setCtx k x).dom = s.dom := rfl
@[simp] theorem Core.setCtx_cyc (s : Core) (k : Nat) (x : Ctx) : (s.setCtx k x).cyc = s.cyc := rfl
@[simp] theorem Core.setCtx_clk (s : Core) (k : Nat) (x : Ctx) : (s.setCtx k x).clk = s.clk := rfl
@[simp] theorem Core.setCtx_temp (s : Core) (k : Nat) (x : Ctx) : (s.setCtx k x).temp = s.temp := rfl
@[simp] theorem Core.setCtx_tthr (s : Core) (k : Nat) (x : Ctx) : (s.setCtx k x).tthr = s.tthr := rfl
@[simp] theorem Core.setCtx_rot (s : Core) (k : Nat) (x : Ctx) : (s.setCtx k x).rot = s.rot := rfl
@[simp] theorem Core.setCtx_last0 (s : Core) (k : Nat) (x : Ctx) : (s.setCtx k x).last0 = s.last0 := rfl
@[simp] theorem Core.setCtx_floor (s : Core) (k : Nat) (x : Ctx) : (s.setCtx k x).floor = s.floor := rfl
@[simp] theorem Core.setCtx_rrbase (s : Core) (k : Nat) (x : Ctx) : (s.setCtx k x).rrbase = s.rrbase := rfl
@[simp] theorem Core.setCtx_rrhead (s : Core) (k : Nat) (x : Ctx) : (s.setCtx k x).rrhead = s.rrhead := rfl
@[simp] theorem Core.setCtx_rrtail (s : Core) (k : Nat) (x : Ctx) : (s.setCtx k x).rrtail = s.rrtail := rfl
@[simp] theorem Core.setCtx_cnum (s : Core) (k : Nat) (x : Ctx) : (s.setCtx k x).cnum = s.cnum := rfl
@[simp] theorem Core.setCtx_evqEn (s : Core) (k : Nat) (x : Ctx) : (s.setCtx k x).evqEn = s.evqEn := rfl
@[simp] theorem Core.setCtx_evqBase (s : Core) (k : Nat) (x : Ctx) : (s.setCtx k x).evqBase = s.evqBase := rfl
@[simp] theorem Core.setCtx_evqhead (s : Core) (k : Nat) (x : Ctx) : (s.setCtx k x).evqhead = s.evqhead := rfl
@[simp] theorem Core.setCtx_evqtail (s : Core) (k : Nat) (x : Ctx) : (s.setCtx k x).evqtail = s.evqtail := rfl
@[simp] theorem Core.setCtx_fobase (s : Core) (k : Nat) (x : Ctx) : (s.setCtx k x).fobase = s.fobase := rfl
@[simp] theorem Core.setCtx_chn (s : Core) (k : Nat) (x : Ctx) : (s.setCtx k x).chn = s.chn := rfl
@[simp] theorem Core.setCtx_mhent (s : Core) (k : Nat) (x : Ctx) : (s.setCtx k x).mhent = s.mhent := rfl
@[simp] theorem Core.setCtx_barq (s : Core) (k : Nat) (x : Ctx) : (s.setCtx k x).barq = s.barq := rfl
@[simp] theorem Core.setCtx_ph (s : Core) (k : Nat) (x : Ctx) : (s.setCtx k x).ph = s.ph := rfl
@[simp] theorem Core.setCtx_semsat (s : Core) (k : Nat) (x : Ctx) : (s.setCtx k x).semsat = s.semsat := rfl
@[simp] theorem Core.setCtx_tvec (s : Core) (k : Nat) (x : Ctx) : (s.setCtx k x).tvec = s.tvec := rfl
@[simp] theorem Core.setCtx_locks (s : Core) (k : Nat) (x : Ctx) : (s.setCtx k x).locks = s.locks := rfl
@[simp] theorem Core.setCtx_perms (s : Core) (k : Nat) (x : Ctx) : (s.setCtx k x).perms = s.perms := rfl
@[simp] theorem Core.setCtx_sems (s : Core) (k : Nat) (x : Ctx) : (s.setCtx k x).sems = s.sems := rfl
@[simp] theorem Core.setCtx_semWait (s : Core) (k : Nat) (x : Ctx) : (s.setCtx k x).semWait = s.semWait := rfl
@[simp] theorem Core.setCtx_vregs (s : Core) (k : Nat) (x : Ctx) : (s.setCtx k x).vregs = s.vregs := rfl
@[simp] theorem Core.setCtx_tregs (s : Core) (k : Nat) (x : Ctx) : (s.setCtx k x).tregs = s.tregs := rfl
@[simp] theorem Core.setCtx_allots (s : Core) (k : Nat) (x : Ctx) : (s.setCtx k x).allots = s.allots := rfl
@[simp] theorem Core.setCtx_dcache (s : Core) (k : Nat) (x : Ctx) : (s.setCtx k x).dcache = s.dcache := rfl
@[simp] theorem Core.setCtx_kcache (s : Core) (k : Nat) (x : Ctx) : (s.setCtx k x).kcache = s.kcache := rfl
@[simp] theorem Core.setCtx_icache (s : Core) (k : Nat) (x : Ctx) : (s.setCtx k x).icache = s.icache := rfl
@[simp] theorem Core.setCtx_lineReqs (s : Core) (k : Nat) (x : Ctx) : (s.setCtx k x).lineReqs = s.lineReqs := rfl
@[simp] theorem Core.setCtx_holds (s : Core) (k : Nat) (x : Ctx) : (s.setCtx k x).holds = s.holds := rfl
@[simp] theorem Core.setCtx_absents (s : Core) (k : Nat) (x : Ctx) : (s.setCtx k x).absents = s.absents := rfl
@[simp] theorem Core.setCtx_sbuf (s : Core) (k : Nat) (x : Ctx) : (s.setCtx k x).sbuf = s.sbuf := rfl
@[simp] theorem Core.setCtx_seq (s : Core) (k : Nat) (x : Ctx) : (s.setCtx k x).seq = s.seq := rfl
@[simp] theorem Core.setCtx_watches (s : Core) (k : Nat) (x : Ctx) : (s.setCtx k x).watches = s.watches := rfl
@[simp] theorem Core.setCtx_sweeps (s : Core) (k : Nat) (x : Ctx) : (s.setCtx k x).sweeps = s.sweeps := rfl
@[simp] theorem Core.setCtx_mats (s : Core) (k : Nat) (x : Ctx) : (s.setCtx k x).mats = s.mats := rfl
@[simp] theorem Core.setCtx_posts (s : Core) (k : Nat) (x : Ctx) : (s.setCtx k x).posts = s.posts := rfl
@[simp] theorem Core.setCtx_dropped (s : Core) (k : Nat) (x : Ctx) : (s.setCtx k x).dropped = s.dropped := rfl
@[simp] theorem Core.setCtx_dropAddr (s : Core) (k : Nat) (x : Ctx) : (s.setCtx k x).dropAddr = s.dropAddr := rfl
@[simp] theorem Core.setCtx_poisonTold (s : Core) (k : Nat) (x : Ctx) : (s.setCtx k x).poisonTold = s.poisonTold := rfl
@[simp] theorem Core.setCtx_trace (s : Core) (k : Nat) (x : Ctx) : (s.setCtx k x).trace = s.trace := rfl
@[simp] theorem Core.setCtx_made (s : Core) (k : Nat) (x : Ctx) : (s.setCtx k x).made = s.made := rfl
@[simp] theorem Core.setCtx_waitRec (s : Core) (k : Nat) (x : Ctx) : (s.setCtx k x).waitRec = s.waitRec := rfl
@[simp] theorem Core.setCtx_lines (s : Core) (k : Nat) (x : Ctx) : (s.setCtx k x).lines = s.lines := rfl
@[simp] theorem Core.setCtx_loss (s : Core) (k : Nat) (x : Ctx) : (s.setCtx k x).loss = s.loss := rfl
@[simp] theorem Core.setCtx_lastRec (s : Core) (k : Nat) (x : Ctx) : (s.setCtx k x).lastRec = s.lastRec := rfl
@[simp] theorem Core.setCtx_tstate (s : Core) (k : Nat) (x : Ctx) : (s.setCtx k x).tstate = s.tstate := rfl
@[simp] theorem Core.setCtx_stopped (s : Core) (k : Nat) (x : Ctx) : (s.setCtx k x).stopped = s.stopped := rfl
@[simp] theorem Core.setCtx_stopCyc (s : Core) (k : Nat) (x : Ctx) : (s.setCtx k x).stopCyc = s.stopCyc := rfl
@[simp] theorem Core.setCtx_stopSent (s : Core) (k : Nat) (x : Ctx) : (s.setCtx k x).stopSent = s.stopSent := rfl
@[simp] theorem Core.setCtx_stopRecv (s : Core) (k : Nat) (x : Ctx) : (s.setCtx k x).stopRecv = s.stopRecv := rfl
@[simp] theorem Core.setCtx_stopEpoch (s : Core) (k : Nat) (x : Ctx) : (s.setCtx k x).stopEpoch = s.stopEpoch := rfl
@[simp] theorem Core.setCtx_stopReason (s : Core) (k : Nat) (x : Ctx) : (s.setCtx k x).stopReason = s.stopReason := rfl
@[simp] theorem Core.setCtx_msent (s : Core) (k : Nat) (x : Ctx) : (s.setCtx k x).msent = s.msent := rfl
@[simp] theorem Core.setCtx_mrecv (s : Core) (k : Nat) (x : Ctx) : (s.setCtx k x).mrecv = s.mrecv := rfl
@[simp] theorem Core.setCtx_finishing (s : Core) (k : Nat) (x : Ctx) : (s.setCtx k x).finishing = s.finishing := rfl
@[simp] theorem Core.setCtx_gated (s : Core) (k : Nat) (x : Ctx) : (s.setCtx k x).gated = s.gated := rfl
@[simp] theorem Core.setCtx_hot (s : Core) (k : Nat) (x : Ctx) : (s.setCtx k x).hot = s.hot := rfl
@[simp] theorem Core.setCtx_clkHeld (s : Core) (k : Nat) (x : Ctx) : (s.setCtx k x).clkHeld = s.clkHeld := rfl
@[simp] theorem Core.setCtx_migrate (s : Core) (k : Nat) (x : Ctx) : (s.setCtx k x).migrate = s.migrate := rfl
@[simp] theorem Core.setCtx_watts (s : Core) (k : Nat) (x : Ctx) : (s.setCtx k x).watts = s.watts := rfl
@[simp] theorem Core.setCtx_cool (s : Core) (k : Nat) (x : Ctx) : (s.setCtx k x).cool = s.cool := rfl
@[simp] theorem Core.setCtx_reserved (s : Core) (k : Nat) (x : Ctx) : (s.setCtx k x).reserved = s.reserved := rfl

/-! ### A register of a context is written -/

@[simp] theorem Ctx.setReg_live (x : Ctx) (d : Spec) (v : Word) : (x.setReg d v).live = x.live := by
  unfold Ctx.setReg; dsimp only; split_ifs <;> rfl
@[simp] theorem Ctx.setReg_ip (x : Ctx) (d : Spec) (v : Word) : (x.setReg d v).ip = x.ip := by
  unfold Ctx.setReg; dsimp only; split_ifs <;> rfl
@[simp] theorem Ctx.setReg_wbase (x : Ctx) (d : Spec) (v : Word) : (x.setReg d v).wbase = x.wbase := by
  unfold Ctx.setReg; dsimp only; split_ifs <;> rfl
@[simp] theorem Ctx.setReg_wlow (x : Ctx) (d : Spec) (v : Word) : (x.setReg d v).wlow = x.wlow := by
  unfold Ctx.setReg; dsimp only; split_ifs <;> rfl
@[simp] theorem Ctx.setReg_oc (x : Ctx) (d : Spec) (v : Word) : (x.setReg d v).oc = x.oc := by
  unfold Ctx.setReg; dsimp only; split_ifs <;> rfl
@[simp] theorem Ctx.setReg_nrip (x : Ctx) (d : Spec) (v : Word) : (x.setReg d v).nrip = x.nrip := by
  unfold Ctx.setReg; dsimp only; split_ifs <;> rfl
@[simp] theorem Ctx.setReg_budPark (x : Ctx) (d : Spec) (v : Word) : (x.setReg d v).budPark = x.budPark := by
  unfold Ctx.setReg; dsimp only; split_ifs <;> rfl
@[simp] theorem Ctx.setReg_armed (x : Ctx) (d : Spec) (v : Word) : (x.setReg d v).armed = x.armed := by
  unfold Ctx.setReg; dsimp only; split_ifs <;> rfl
@[simp] theorem Ctx.setReg_init (x : Ctx) (d : Spec) (v : Word) : (x.setReg d v).init = x.init := by
  unfold Ctx.setReg; dsimp only; split_ifs <;> rfl
@[simp] theorem Ctx.setReg_count (x : Ctx) (d : Spec) (v : Word) : (x.setReg d v).count = x.count := by
  unfold Ctx.setReg; dsimp only; split_ifs <;> rfl
@[simp] theorem Ctx.setReg_spinsOff (x : Ctx) (d : Spec) (v : Word) : (x.setReg d v).spinsOff = x.spinsOff := by
  unfold Ctx.setReg; dsimp only; split_ifs <;> rfl
@[simp] theorem Ctx.setReg_spins (x : Ctx) (d : Spec) (v : Word) : (x.setReg d v).spins = x.spins := by
  unfold Ctx.setReg; dsimp only; split_ifs <;> rfl
@[simp] theorem Ctx.setReg_gen (x : Ctx) (d : Spec) (v : Word) : (x.setReg d v).gen = x.gen := by
  unfold Ctx.setReg; dsimp only; split_ifs <;> rfl
@[simp] theorem Ctx.setReg_cnum (x : Ctx) (d : Spec) (v : Word) : (x.setReg d v).cnum = x.cnum := by
  unfold Ctx.setReg; dsimp only; split_ifs <;> rfl
@[simp] theorem Ctx.setReg_mode (x : Ctx) (d : Spec) (v : Word) : (x.setReg d v).mode = x.mode := by
  unfold Ctx.setReg; dsimp only; split_ifs <;> rfl
@[simp] theorem Ctx.setReg_wsb (x : Ctx) (d : Spec) (v : Word) : (x.setReg d v).wsb = x.wsb := by
  unfold Ctx.setReg; dsimp only; split_ifs <;> rfl
@[simp] theorem Ctx.setReg_wsp (x : Ctx) (d : Spec) (v : Word) : (x.setReg d v).wsp = x.wsp := by
  unfold Ctx.setReg; dsimp only; split_ifs <;> rfl
@[simp] theorem Ctx.setReg_wsl (x : Ctx) (d : Spec) (v : Word) : (x.setReg d v).wsl = x.wsl := by
  unfold Ctx.setReg; dsimp only; split_ifs <;> rfl
@[simp] theorem Ctx.setReg_cls (x : Ctx) (d : Spec) (v : Word) : (x.setReg d v).cls = x.cls := by
  unfold Ctx.setReg; dsimp only; split_ifs <;> rfl
@[simp] theorem Ctx.setReg_ovf (x : Ctx) (d : Spec) (v : Word) : (x.setReg d v).ovf = x.ovf := by
  unfold Ctx.setReg; dsimp only; split_ifs <;> rfl
@[simp] theorem Ctx.setReg_tip (x : Ctx) (d : Spec) (v : Word) : (x.setReg d v).tip = x.tip := by
  unfold Ctx.setReg; dsimp only; split_ifs <;> rfl
@[simp] theorem Ctx.setReg_tcause (x : Ctx) (d : Spec) (v : Word) : (x.setReg d v).tcause = x.tcause := by
  unfold Ctx.setReg; dsimp only; split_ifs <;> rfl
@[simp] theorem Ctx.setReg_tinfo (x : Ctx) (d : Spec) (v : Word) : (x.setReg d v).tinfo = x.tinfo := by
  unfold Ctx.setReg; dsimp only; split_ifs <;> rfl
@[simp] theorem Ctx.setReg_tsrc (x : Ctx) (d : Spec) (v : Word) : (x.setReg d v).tsrc = x.tsrc := by
  unfold Ctx.setReg; dsimp only; split_ifs <;> rfl
@[simp] theorem Ctx.setReg_tsrcx (x : Ctx) (d : Spec) (v : Word) : (x.setReg d v).tsrcx = x.tsrcx := by
  unfold Ctx.setReg; dsimp only; split_ifs <;> rfl
@[simp] theorem Ctx.setReg_held (x : Ctx) (d : Spec) (v : Word) : (x.setReg d v).held = x.held := by
  unfold Ctx.setReg; dsimp only; split_ifs <;> rfl
@[simp] theorem Ctx.setReg_stop (x : Ctx) (d : Spec) (v : Word) : (x.setReg d v).stop = x.stop := by
  unfold Ctx.setReg; dsimp only; split_ifs <;> rfl
@[simp] theorem Ctx.setReg_depth (x : Ctx) (d : Spec) (v : Word) : (x.setReg d v).depth = x.depth := by
  unfold Ctx.setReg; dsimp only; split_ifs <;> rfl
@[simp] theorem Ctx.setReg_tdepth (x : Ctx) (d : Spec) (v : Word) : (x.setReg d v).tdepth = x.tdepth := by
  unfold Ctx.setReg; dsimp only; split_ifs <;> rfl
@[simp] theorem Ctx.setReg_slot (x : Ctx) (d : Spec) (v : Word) : (x.setReg d v).slot = x.slot := by
  unfold Ctx.setReg; dsimp only; split_ifs <;> rfl
@[simp] theorem Ctx.setReg_wait (x : Ctx) (d : Spec) (v : Word) : (x.setReg d v).wait = x.wait := by
  unfold Ctx.setReg; dsimp only; split_ifs <;> rfl
@[simp] theorem Ctx.setReg_rung (x : Ctx) (d : Spec) (v : Word) : (x.setReg d v).rung = x.rung := by
  unfold Ctx.setReg; dsimp only; split_ifs <;> rfl
@[simp] theorem Ctx.setReg_retry (x : Ctx) (d : Spec) (v : Word) : (x.setReg d v).retry = x.retry := by
  unfold Ctx.setReg; dsimp only; split_ifs <;> rfl
@[simp] theorem Ctx.setReg_asked (x : Ctx) (d : Spec) (v : Word) : (x.setReg d v).asked = x.asked := by
  unfold Ctx.setReg; dsimp only; split_ifs <;> rfl
@[simp] theorem Ctx.setReg_yielded (x : Ctx) (d : Spec) (v : Word) : (x.setReg d v).yielded = x.yielded := by
  unfold Ctx.setReg; dsimp only; split_ifs <;> rfl
@[simp] theorem Ctx.setReg_front (x : Ctx) (d : Spec) (v : Word) : (x.setReg d v).front = x.front := by
  unfold Ctx.setReg; dsimp only; split_ifs <;> rfl
@[simp] theorem Ctx.setReg_fetchFail (x : Ctx) (d : Spec) (v : Word) : (x.setReg d v).fetchFail = x.fetchFail := by
  unfold Ctx.setReg; dsimp only; split_ifs <;> rfl
@[simp] theorem Ctx.setReg_line (x : Ctx) (d : Spec) (v : Word) : (x.setReg d v).line = x.line := by
  unfold Ctx.setReg; dsimp only; split_ifs <;> rfl
@[simp] theorem Ctx.setReg_entryCheck (x : Ctx) (d : Spec) (v : Word) : (x.setReg d v).entryCheck = x.entryCheck := by
  unfold Ctx.setReg; dsimp only; split_ifs <;> rfl
@[simp] theorem Ctx.setReg_vbase (x : Ctx) (d : Spec) (v : Word) : (x.setReg d v).vbase = x.vbase := by
  unfold Ctx.setReg; dsimp only; split_ifs <;> rfl
@[simp] theorem Ctx.setReg_vcnt (x : Ctx) (d : Spec) (v : Word) : (x.setReg d v).vcnt = x.vcnt := by
  unfold Ctx.setReg; dsimp only; split_ifs <;> rfl
@[simp] theorem Ctx.setReg_tbase (x : Ctx) (d : Spec) (v : Word) : (x.setReg d v).tbase = x.tbase := by
  unfold Ctx.setReg; dsimp only; split_ifs <;> rfl
@[simp] theorem Ctx.setReg_tcnt (x : Ctx) (d : Spec) (v : Word) : (x.setReg d v).tcnt = x.tcnt := by
  unfold Ctx.setReg; dsimp only; split_ifs <;> rfl
@[simp] theorem Ctx.setReg_msg (x : Ctx) (d : Spec) (v : Word) : (x.setReg d v).msg = x.msg := by
  unfold Ctx.setReg; dsimp only; split_ifs <;> rfl
@[simp] theorem Ctx.setReg_mon (x : Ctx) (d : Spec) (v : Word) : (x.setReg d v).mon = x.mon := by
  unfold Ctx.setReg; dsimp only; split_ifs <;> rfl

end Sys2Proof.Machine
end

