-- ==== Sys2Proof/Laws/Context.lean ====
section
/-! SUPPORT. The laws of cores, contexts and registers: what a read gives after each update. -/

namespace Sys2Proof.Machine
open Sys2Proof

/-! ### Cores and contexts -/

@[simp] theorem State.core_setCore_self (s : State) (p : Nat) (c : Core) : (s.setCore p c).core p = c := by
  simp [State.core, State.setCore]

@[simp] theorem State.core_setCore_ne (s : State) {p q : Nat} (c : Core) (h : q ≠ p) :
    (s.setCore p c).core q = s.core q := by
  simp [State.core, State.setCore, h]

@[simp] theorem Core.ctx_setCtx_self (c : Core) (k : Nat) (x : Ctx) : (c.setCtx k x).ctx k = x := by
  simp [Core.ctx, Core.setCtx]

@[simp] theorem Core.ctx_setCtx_ne (c : Core) {k j : Nat} (x : Ctx) (h : j ≠ k) :
    (c.setCtx k x).ctx j = c.ctx j := by
  simp [Core.ctx, Core.setCtx, h]

@[simp] theorem State.ctx_setCtx_self (s : State) (p k : Nat) (x : Ctx) : (s.setCtx p k x).ctx p k = x := by
  simp [State.ctx, State.setCtx]

@[simp] theorem State.core_setCtx_self (s : State) (p k : Nat) (x : Ctx) :
    (s.setCtx p k x).core p = (s.core p).setCtx k x := by
  simp [State.setCtx]

@[simp] theorem State.core_setCtx_ne (s : State) {p q : Nat} (k : Nat) (x : Ctx) (h : q ≠ p) :
    (s.setCtx p k x).core q = s.core q := by
  simp [State.setCtx, h]

@[simp] theorem State.me_setMe (s : State) (x : Ctx) : (s.setMe x).me = x := by
  simp [State.me, State.setMe]

@[simp] theorem State.myCore_setMe (s : State) (x : Ctx) : (s.setMe x).myCore = s.myCore.setCtx s.cur.2 x := by
  simp [State.myCore, State.setMe]

@[simp] theorem State.core_setMe_ne (s : State) {q : Nat} (x : Ctx) (h : q ≠ s.cur.1) :
    (s.setMe x).core q = s.core q := by
  simp [State.setMe, h]

@[simp] theorem State.myCore_setMyCore (s : State) (c : Core) : (s.setMyCore c).myCore = c := by
  simp [State.myCore, State.setMyCore]

@[simp] theorem State.core_setMyCore_ne (s : State) {q : Nat} (c : Core) (h : q ≠ s.cur.1) :
    (s.setMyCore c).core q = s.core q := by
  simp [State.setMyCore, h]

theorem State.me_eq (s : State) : s.me = s.myCore.ctx s.cur.2 := rfl

@[simp] theorem State.me_setMyCore (s : State) (c : Core) : (s.setMyCore c).me = c.ctx s.cur.2 := by
  rw [State.me_eq]; simp

/-! ### An update of one context leaves the rest of the state -/

/-- Everything but the table of cores is as before. -/
theorem State.setMe_rest (s : State) (x : Ctx) : s.setMe x = { s with cores := (s.setMe x).cores } := rfl

theorem State.setG_rest (s : State) (d : Spec) (v : Word) : s.setG d v = { s with cores := (s.setG d v).cores } := rfl

@[simp] theorem State.me_setG (s : State) (d : Spec) (v : Word) : (s.setG d v).me = s.me.setReg d v := by
  simp [State.setG]

@[simp] theorem State.myCore_setG (s : State) (d : Spec) (v : Word) :
    (s.setG d v).myCore = s.myCore.setCtx s.cur.2 (s.me.setReg d v) := by
  simp [State.setG]

@[simp] theorem State.core_setG_ne (s : State) {q : Nat} (d : Spec) (v : Word) (h : q ≠ s.cur.1) :
    (s.setG d v).core q = s.core q := by
  simp [State.setG, h]

/-! ### Registers -/

/-- Bit `j` of a number with bit `i` replaced. -/
theorem testBit_setBit (x i j : Nat) (b : Bool) :
    (setBit x i b).testBit j = if j = i then b else x.testBit j := by
  have hb : (if b then 1 else 0 : Nat) % 2 ^ 1 = b.toNat := by cases b <;> rfl
  have e : setBit x i b = 2 ^ i * (2 * (x / 2 ^ (i + 1)) + b.toNat) + x % 2 ^ i := by
    unfold setBit setFld
    rw [hb, Nat.pow_succ]
    ring
  rw [e, Nat.testBit_two_pow_mul_add _ (Nat.mod_lt _ (by positivity))]
  split_ifs with h1 h2 h3
  · omega
  · simp [Nat.testBit_mod_two_pow, h1]
  · subst h3
    cases b <;> simp [Nat.testBit_zero]
  · obtain ⟨k, rfl⟩ : ∃ k, j = i + 1 + k := ⟨j - (i + 1), by omega⟩
    rw [show i + 1 + k - i = k + 1 by omega, Nat.testBit_succ]
    have : (2 * (x / 2 ^ (i + 1)) + b.toNat) / 2 = x / 2 ^ (i + 1) := by
      have := b.toNat_lt
      omega
    rw [this, Nat.testBit_div_two_pow, Nat.add_comm]

/-- g0, p0, and a register that takes the value. -/
theorem Ctx.reg_setReg_self (x : Ctx) (d : Spec) (v : Word) : (x.setReg d v).reg d = readBack d v := by
  have hd : d.toNat < 64 := d.isLt
  unfold readBack Ctx.setReg Ctx.reg
  dsimp only
  by_cases h0 : d.toNat = 0
  · simp [h0]
  by_cases h1 : d.toNat < 16
  · simp [h0, h1, show d.toNat < 32 by omega]
  by_cases h2 : d.toNat < 32
  · simp [h0, h1, h2]
  by_cases h3 : d.toNat = 56
  · simp [h3]
  by_cases h4 : 56 < d.toNat
  · simp only [h0, h1, h2, h3, h4, if_true, if_false, show ¬ d.toNat < 56 by omega]
    have : (BitVec.ofNat 8 (setBit x.p.toNat (d.toNat - 56) (v.getLsbD 0))).getLsbD (d.toNat - 56) =
        v.getLsbD 0 := by
      rw [BitVec.getLsbD_ofNat, testBit_setBit]
      simp; omega
    rw [this]
  · simp [h0, h1, h2, h3, h4, show d.toNat < 56 by omega]

/-- A write to one register leaves every other. -/
theorem Ctx.reg_setReg_ne (x : Ctx) {d r : Spec} (v : Word) (h : r ≠ d) :
    (x.setReg d v).reg r = x.reg r := by
  have hn : r.toNat ≠ d.toNat := fun e => h (BitVec.eq_of_toNat_eq e)
  have hd : d.toNat < 64 := d.isLt
  have hr : r.toNat < 64 := r.isLt
  unfold Ctx.setReg Ctx.reg
  dsimp only
  by_cases h0 : d.toNat = 0
  · simp [h0]
  by_cases h1 : d.toNat < 16
  · simp only [h0, h1, if_true, if_false]
    split_ifs <;> simp [hn]
  by_cases h2 : d.toNat < 32
  · simp only [h0, h1, h2, if_true, if_false]
    split_ifs
    · rfl
    · rfl
    · rw [KMap.get_put_ne]; omega
    all_goals rfl
  by_cases h4 : 56 < d.toNat
  · simp only [h0, h1, h2, h4, if_true, if_false]
    by_cases h5 : 56 < r.toNat
    · have e : (BitVec.ofNat 8 (setBit x.p.toNat (d.toNat - 56) (v.getLsbD 0))).getLsbD (r.toNat - 56) =
          x.p.getLsbD (r.toNat - 56) := by
        rw [BitVec.getLsbD_ofNat, testBit_setBit, if_neg (by omega), BitVec.testBit_toNat]
        simp; omega
      simp only [h5, e, if_true]
    · simp only [h5, if_false]
  · simp [h0, h1, h2, h4]

@[simp] theorem Ctx.reg_zero (x : Ctx) : x.reg 0 = 0 := by simp [Ctx.reg]

end Sys2Proof.Machine
end

