-- ==== Sys2Proof/Laws/Ops.lean ====
section
/-! SUPPORT. What the shared ends of instructions do. -/

namespace Sys2Proof.Machine
open Sys2Proof

theorem guarded_true {g : Guard} {s : State} (h : s.guard g = true) (body : State → State) :
    guarded g s body = .next (body s) := by simp [guarded, h]

theorem guarded_false {g : Guard} {s : State} (h : s.guard g = false) (body : State → State) :
    guarded g s body = .next (s.finish s .next) := by simp [guarded, h]

theorem wordOp_true {g : Guard} {s : State} (h : s.guard g = true) (d : Spec) (v : Word) :
    wordOp g d s v = .next (s.retire (s.setG d v)) := guarded_true h _

/-- The window halves that a register write cannot name keep their contents. -/
theorem Ctx.setReg_halves (x : Ctx) (d : Spec) (v : Word) {h : Nat} (h0 : h ≠ x.wbase)
    (h1 : h ≠ x.wbase + 1) {j : Nat} (hj : j < 8) :
    (x.setReg d v).win.get (8 * h + j) 0 = x.win.get (8 * h + j) 0 := by
  unfold Ctx.setReg
  dsimp only
  split_ifs
  · rfl
  · rfl
  · simp only
    rw [KMap.get_put_ne]
    omega
  · rfl
  · rfl

/-- A register read looks at the registers of a context and at nothing else. -/
theorem Ctx.reg_congr {x y : Ctx} (hg : x.g = y.g) (hw : x.win = y.win) (hb : x.wbase = y.wbase)
    (hp : x.p = y.p) (r : Spec) : x.reg r = y.reg r := by
  unfold Ctx.reg; rw [hg, hw, hb, hp]

theorem Ctx.rest_setReg (x : Ctx) (d : Spec) (v : Word) : (x.setReg d v).rest = x.rest := by
  unfold Ctx.setReg
  dsimp only
  split_ifs <;> rfl

theorem State.finish_alone {s : State} (s0 : State) (h : s.pair = none) (e : End) :
    s0.finish s e = s0.conclude s e := by simp [State.finish, h]

theorem State.finish_pair {s : State} (s0 : State) {p : Pair} (h : s.pair = some p) (e : End) :
    s0.finish s e = { s with pair := some { p with ends := p.ends ++ [(s.ip, e)] } } := by
  simp [State.finish, h]

@[simp] theorem State.ip_setMe (s : State) (x : Ctx) (h : x.ip = s.me.ip) : (s.setMe x).ip = s.ip := by
  unfold State.ip
  rw [State.me_setMe, h]
  rfl

theorem State.setMe_me (s : State) (x : Ctx) : s.setMe (s.setMe x).me = s.setMe x := by simp

@[simp] theorem State.setMe_setMe (s : State) (x y : Ctx) : (s.setMe x).setMe y = s.setMe y := by
  simp [State.setMe, State.setCtx, State.setCore, State.core, Core.setCtx]

/-- An update of the executing context changes nothing else. -/
theorem Alone.setMe (s : State) (x : Ctx) (p : Option Pair) : Alone s { s.setMe x with pair := p } where
  contexts := by
    intro q k h
    show (s.setMe x).ctx q k = s.ctx q k
    by_cases hq : q = s.cur.1
    · subst hq
      have hk : k ≠ s.cur.2 := fun e => h (by rw [e])
      simp [State.ctx, State.setMe, Core.ctx_setCtx_ne _ _ hk]
    · simp [State.ctx, State.core_setMe_ne _ _ hq]
  cores := by
    intro q
    show { (s.setMe x).core q with ctxs := [] } = _
    by_cases hq : q = s.cur.1
    · subst hq
      simp [State.setMe, Core.setCtx]
    · simp [State.core_setMe_ne _ _ hq]
  machine := rfl

theorem Alone.pair (s : State) (p : Option Pair) : Alone s { s with pair := p } :=
  ⟨fun _ _ _ => rfl, fun _ => rfl, rfl⟩

/-- A scalar result: register `d` takes `v`, and nothing else of the machine changes. -/
theorem State.retire_setG (s : State) (d : Spec) (v : Word) :
    Writes s (s.retire (s.setG d v)) s.me .next d v ∧ Alone s (s.retire (s.setG d v)) := by
  unfold State.retire
  cases hp : s.pair with
  | none =>
    have hp' : (s.setG d v).pair = none := hp
    rw [State.finish_alone s hp']
    have e : s.conclude (s.setG d v) .next =
        s.setMe { s.me.setReg d v with ip := nextIp s.me.ip, retry := false, front := false } := by
      simp [State.conclude, State.setG]
    rw [e]
    refine ⟨⟨?_, ?_, ?_, ?_, ?_⟩, ?_⟩
    · rw [State.me_setMe, ← Ctx.reg_setReg_self s.me d v]
      exact Ctx.reg_congr rfl rfl rfl rfl d
    · intro r hr
      rw [State.me_setMe, ← Ctx.reg_setReg_ne s.me v hr]
      exact Ctx.reg_congr rfl rfl rfl rfl r
    · intro h h0 h1 j hj
      rw [State.me_setMe]
      exact Ctx.setReg_halves s.me d v h0 h1 hj
    · simp only [Ended, hp, State.me_setMe]
      exact ⟨hp, by simp⟩
    · rw [State.me_setMe, ← Ctx.rest_setReg s.me d v]
      rfl
    · exact Alone.setMe s _ s.pair
  | some p =>
    have hp' : (s.setG d v).pair = some p := hp
    rw [State.finish_pair s hp']
    have hm : ({ s.setG d v with pair := some { p with ends := p.ends ++ [((s.setG d v).ip, End.next)] } } : State).me =
        s.me.setReg d v := by
      show (s.setG d v).me = _
      simp
    refine ⟨⟨?_, ?_, ?_, ?_, ?_⟩, ?_⟩
    · rw [hm, Ctx.reg_setReg_self]
    · intro r hr
      rw [hm, Ctx.reg_setReg_ne s.me v hr]
    · intro h h0 h1 j hj
      rw [hm]
      exact Ctx.setReg_halves s.me d v h0 h1 hj
    · simp only [Ended, hp, hm]
      simp [State.ip, hp]
    · rw [hm, Ctx.rest_setReg]
    · exact Alone.setMe s _ _

theorem wordOp_gives {g : Guard} {s : State} (h : s.guard g = true) (d : Spec) (v : Word) :
    ∃ t, wordOp g d s v = .next t ∧ Writes s t s.me .next d v ∧ Alone s t :=
  ⟨_, wordOp_true h d v, s.retire_setG d v⟩

theorem intOp_gives {o : ROp} {s : State} (h : s.guard o.grd = true) (x : Int) :
    ∃ t, intOp o s x = .next t ∧ Writes s t s.me .next o.d (wint o.ty o.sat x) ∧ Alone s t :=
  wordOp_gives h o.d _

end Sys2Proof.Machine
end

