-- ==== Sys2Proof/Laws/Ends.lean ====
section
/-! SUPPORT. What the shared ends of instructions come to, in the terms of the statements. -/

namespace Sys2Proof.Machine
open Sys2Proof

/-- No register of the executing context has changed. -/
theorem Writes.none {s t : State} {x : Ctx} {e : End}
    (hy : t.me.g = x.g ∧ t.me.win = x.win ∧ t.me.wbase = x.wbase ∧ t.me.p = x.p)
    (he : Ended s t e) (hr : t.me.rest = x.rest) : Writes s t x e 0 0 := by
  refine ⟨?_, ?_, ?_, he, hr⟩
  · rw [Ctx.reg_zero]; simp [readBack]
  · intro r _
    exact Ctx.reg_congr hy.1 hy.2.1 hy.2.2.1 hy.2.2.2 r
  · intro h _ _ j _
    rw [hy.2.1]

/-- An instruction that changes the context from `s.me` to `y`, no register among it, and retires. -/
theorem State.retire_setMe (s : State) (y : Ctx)
    (hy : y.ip = s.me.ip ∧ y.retry = s.me.retry ∧ y.front = s.me.front ∧ y.oc = s.me.oc ∧ y.count = s.me.count ∧
      y.armed = s.me.armed) :
    Writes s (s.retire (s.setMe y)) y .next 0 0 ∧ Alone s (s.retire (s.setMe y)) := by
  unfold State.retire
  cases hp : s.pair with
  | none =>
    have hp' : (s.setMe y).pair = none := hp
    rw [State.finish_alone s hp']
    have e : s.conclude (s.setMe y) .next =
        s.setMe { y with ip := nextIp s.me.ip, retry := false, front := false } := by
      simp [State.conclude]
    rw [e]
    have hm := State.me_setMe s { y with ip := nextIp s.me.ip, retry := false, front := false }
    refine ⟨Writes.none ?_ ?_ ?_, Alone.setMe s _ s.pair⟩
    · rw [hm]; exact ⟨rfl, rfl, rfl, rfl⟩
    · unfold Ended
      rw [hp, hm]
      exact ⟨hp, rfl, rfl, rfl, hy.2.2.2⟩
    · rw [hm]; rfl
  | some p =>
    have hp' : (s.setMe y).pair = some p := hp
    rw [State.finish_pair s hp']
    have hip : (s.setMe y).ip = s.ip := State.ip_setMe s y hy.1
    have hm : ({ s.setMe y with pair := some { p with ends := p.ends ++ [((s.setMe y).ip, End.next)] } } : State).me =
      y := State.me_setMe s y
    refine ⟨Writes.none ?_ ?_ ?_, Alone.setMe s _ _⟩
    · rw [hm]; exact ⟨rfl, rfl, rfl, rfl⟩
    · unfold Ended
      rw [hp, hm, ← hip]
      exact ⟨rfl, hy⟩
    · rw [hm]

/-- An instruction that does nothing (R193, R200). -/
theorem State.retire_same (s : State) :
    Writes s (s.finish s .next) s.me .next 0 0 ∧ Alone s (s.finish s .next) := by
  have h := s.retire_setMe s.me ⟨rfl, rfl, rfl, rfl, rfl, rfl⟩
  cases hp : s.pair with
  | none =>
    have e : s.finish s .next = s.retire (s.setMe s.me) := by
      unfold State.retire
      rw [State.finish_alone s hp, State.finish_alone s (show (s.setMe s.me).pair = none from hp)]
      simp [State.conclude]
    rw [e]
    exact h
  | some p =>
    rw [State.finish_pair s hp]
    refine ⟨⟨?_, fun r _ => rfl, fun h _ _ j _ => rfl, ?_, rfl⟩, Alone.pair s _⟩
    · rw [show ∀ x : Ctx, x.reg 0 = 0 from Ctx.reg_zero]; simp [readBack]
    · unfold Ended
      rw [hp]
      exact ⟨rfl, rfl, rfl, rfl, rfl, rfl, rfl⟩

theorem guarded_false_gives {g : Guard} {s : State} (h : s.guard g = false) (body : State → State) :
    ∃ t, guarded g s body = .next t ∧ Writes s t s.me .next 0 0 ∧ Alone s t := by
  rw [guarded_false h]
  exact ⟨_, rfl, s.retire_same⟩

/-- A check that finds a fault, alone and in a pair (R198, R438). -/
theorem State.check_traps {i : Instr} {s : State} {cause : Nat} {info : Word}
    (h : exec i s = .next (s.check cause info)) : Traps i s cause info := by
  constructor
  · intro hp
    rw [h, State.check, State.finish_alone s hp]
    rfl
  · intro p hp
    rw [h, State.check, State.finish_pair s hp]
    exact ⟨_, _, _, rfl, rfl, fun _ => rfl⟩

end Sys2Proof.Machine
end

