-- ==== Sys2Proof/Laws/Memory.lean ====
section
/-! SUPPORT. The laws of physical memory: what a byte reads as after a write, that every operation on
memory keeps its canonical form, and that State.reset has it. -/

namespace Sys2Proof.Machine
open Sys2Proof

/-! ### One byte -/

@[simp] theorem Memory.read_write_self (m : List Host.Cell) (a : Nat) (v : Byte) :
    Memory.read (Memory.write m a v) a = v := by
  unfold Memory.read Memory.write
  split_ifs with h
  · simp [KMap.get, Memory.unlisted, h]
  · simp

@[simp] theorem Memory.read_write_ne (m : List Host.Cell) {a b : Nat} (v : Byte) (h : b ≠ a) :
    Memory.read (Memory.write m a v) b = Memory.read m b := by
  unfold Memory.read Memory.write
  split_ifs
  · simp [KMap.get, h]
  · simp [h]

theorem Memory.write_wf {m : List Host.Cell} (h : Memory.wf m) (a : Nat) (v : Byte) :
    Memory.wf (Memory.write m a v) := by
  obtain ⟨h1, h2⟩ := h
  unfold Memory.write
  split_ifs with hv
  · exact ⟨h1.filter _, fun c hc => h2 c (List.mem_filter.1 hc).1⟩
  · refine ⟨KMap.rising_put h1 a v, fun c hc => ?_⟩
    rcases KMap.mem_put hc with hc | hc
    · subst hc; exact hv
    · exact h2 c hc

/-! ### Several bytes, little-endian -/

theorem Memory.writeN_wf {m : List Host.Cell} (h : Memory.wf m) (a n v : Nat) :
    Memory.wf (Memory.writeN m a n v) := by
  induction n generalizing m a v with
  | zero => exact h
  | succ n ih => exact ih (Memory.write_wf h a _) (a + 1) (v / 256)

/-- A byte outside the written range reads as before. -/
theorem Memory.read_writeN_out (m : List Host.Cell) {a b : Nat} (n v : Nat) (h : b < a ∨ a + n ≤ b) :
    Memory.read (Memory.writeN m a n v) b = Memory.read m b := by
  induction n generalizing m a v with
  | zero => rfl
  | succ n ih =>
    simp only [Memory.writeN]
    rw [ih _ _ (by omega), Memory.read_write_ne _ _ (by omega)]

/-- Byte `i` of the written range is byte `i` of the value. -/
theorem Memory.read_writeN_in (m : List Host.Cell) (a : Nat) {n i : Nat} (v : Nat) (h : i < n) :
    Memory.read (Memory.writeN m a n v) (a + i) = BitVec.ofNat 8 (v / 256 ^ i) := by
  induction n generalizing m a v i with
  | zero => omega
  | succ n ih =>
    simp only [Memory.writeN]
    cases i with
    | zero =>
      rw [Memory.read_writeN_out _ _ _ (by omega)]
      simp
    | succ i =>
      have := ih (Memory.write m a (BitVec.ofNat 8 v)) (a + 1) (v / 256) (i := i) (by omega)
      rw [show a + (i + 1) = a + 1 + i by omega, this, Nat.div_div_eq_div_mul, ← Nat.pow_succ']

theorem Memory.readN_lt (m : List Host.Cell) (a n : Nat) : Memory.readN m a n < 256 ^ n := by
  induction n generalizing a with
  | zero => simp [Memory.readN]
  | succ n ih =>
    have h1 := ih (a + 1)
    have h2 := (Memory.read m a).isLt
    simp only [Memory.readN, Nat.pow_succ]
    omega

/-- Reading what has just been written. -/
@[simp] theorem Memory.readN_writeN (m : List Host.Cell) (a n v : Nat) :
    Memory.readN (Memory.writeN m a n v) a n = v % 256 ^ n := by
  induction n generalizing m a v with
  | zero => simp [Memory.readN, Nat.mod_one]
  | succ n ih =>
    have h0 : Memory.read (Memory.writeN m a (n + 1) v) a = BitVec.ofNat 8 v := by
      have := Memory.read_writeN_in m a (n := n + 1) (i := 0) v (by omega)
      simpa using this
    have h1 := ih (Memory.write m a (BitVec.ofNat 8 v)) (a + 1) (v / 256)
    simp only [Memory.readN, h0]
    simp only [Memory.writeN]
    rw [h1]
    rw [Nat.pow_succ', Nat.mod_mul]
    simp

/-- A range that a write does not touch reads as before. -/
theorem Memory.readN_writeN_out (m : List Host.Cell) {a b k : Nat} (n v : Nat)
    (h : b + k ≤ a ∨ a + n ≤ b) : Memory.readN (Memory.writeN m a n v) b k = Memory.readN m b k := by
  induction k generalizing b with
  | zero => rfl
  | succ k ih =>
    simp only [Memory.readN]
    rw [ih (by omega), Memory.read_writeN_out _ _ _ (by omega)]

/-! ### The state -/

theorem State.wr_wf {s : State} (h : Memory.wf s.mem) (a n v : Nat) : Memory.wf (s.wr a n v).mem :=
  Memory.writeN_wf h a n v

@[simp] theorem State.rd_wr (s : State) (a n v : Nat) : (s.wr a n v).rd a n = v % 256 ^ n :=
  Memory.readN_writeN s.mem a n v

theorem State.rd_wr_out (s : State) {a b k : Nat} (n v : Nat) (h : b + k ≤ a ∨ a + n ≤ b) :
    (s.wr a n v).rd b k = s.rd b k := Memory.readN_writeN_out s.mem n v h

theorem State.reset_wf : Memory.wf State.reset.mem := by
  constructor <;> simp [State.reset]

/-! ### The full/empty bits and poison -/

theorem mem_setAdd {l : List Nat} {k j : Nat} : j ∈ setAdd l k ↔ j = k ∨ j ∈ l := by
  induction l with
  | nil => simp [setAdd]
  | cons a l ih =>
    unfold setAdd
    split_ifs with h1 h2
    · simp
    · subst h2; simp
    · simp [ih]; tauto

theorem mem_setDel {l : List Nat} {k j : Nat} : j ∈ setDel l k ↔ j ∈ l ∧ j ≠ k := by
  simp [setDel]

theorem mem_setPut {l : List Nat} {k j : Nat} {b : Bool} :
    j ∈ setPut l k b ↔ if j = k then b = true else j ∈ l := by
  unfold setPut
  cases b <;> by_cases h : j = k <;> simp [mem_setAdd, mem_setDel, h]

@[simp] theorem State.isFull_setFull (s : State) (a : Nat) (b : Bool) : (s.setFull a b).isFull a = b := by
  cases b <;> simp [State.isFull, State.setFull, mem_setPut]

theorem State.isFull_setFull_ne (s : State) {a c : Nat} (b : Bool) (h : c / 8 ≠ a / 8) :
    (s.setFull a b).isFull c = s.isFull c := by
  simp [State.isFull, State.setFull, mem_setPut, h]

@[simp] theorem State.isPoison_setPoison (s : State) (a : Nat) (b : Bool) :
    (s.setPoison a b).isPoison a = b := by
  cases b <;> simp [State.isPoison, State.setPoison, mem_setPut]

theorem State.isPoison_setPoison_ne (s : State) {a c : Nat} (b : Bool) (h : c / 8 ≠ a / 8) :
    (s.setPoison a b).isPoison c = s.isPoison c := by
  simp [State.isPoison, State.setPoison, mem_setPut, h]

@[simp] theorem State.isFull_wr (s : State) (a n v b : Nat) : (s.wr a n v).isFull b = s.isFull b := rfl
@[simp] theorem State.isPoison_wr (s : State) (a n v b : Nat) : (s.wr a n v).isPoison b = s.isPoison b := rfl
@[simp] theorem State.rd_setFull (s : State) (a : Nat) (b : Bool) (c n : Nat) :
    (s.setFull a b).rd c n = s.rd c n := rfl
@[simp] theorem State.rd_setPoison (s : State) (a : Nat) (b : Bool) (c n : Nat) :
    (s.setPoison a b).rd c n = s.rd c n := rfl
@[simp] theorem State.isPoison_setFull (s : State) (a : Nat) (b : Bool) (c : Nat) :
    (s.setFull a b).isPoison c = s.isPoison c := rfl
@[simp] theorem State.isFull_setPoison (s : State) (a : Nat) (b : Bool) (c : Nat) :
    (s.setPoison a b).isFull c = s.isFull c := rfl

end Sys2Proof.Machine
end

