-- ==== Sys2Proof/Laws/Pack.lean ====
section
/-! SUPPORT. Fields of a slot: what `unpack` and the readers of each format give for packed fields. -/

namespace Sys2Proof

/-- The width of a list of fields. -/
def widthOf : List (Nat × Nat) → Nat
  | [] => 0
  | (n, _) :: fs => n + widthOf fs

theorem pack_lt (fs : List (Nat × Nat)) : pack fs < 2 ^ widthOf fs := by
  induction fs with
  | nil => simp [pack, widthOf]
  | cons f fs ih =>
    obtain ⟨n, v⟩ := f
    simp only [pack, widthOf, Nat.pow_add]
    calc v % 2 ^ n + 2 ^ n * pack fs
        < 2 ^ n + 2 ^ n * pack fs := Nat.add_lt_add_right (Nat.mod_lt _ (Nat.two_pow_pos n)) _
      _ = 2 ^ n * (pack fs + 1) := by ring
      _ ≤ 2 ^ n * 2 ^ widthOf fs := Nat.mul_le_mul_left _ ih

/-- Fields come back as they were packed, each within its width. -/
theorem unpack_pack (fs gs : List (Nat × Nat)) :
    unpack (fs.map (·.1)) (pack (fs ++ gs)) = fs.map fun f => f.2 % 2 ^ f.1 := by
  induction fs with
  | nil => rfl
  | cons f fs ih =>
    obtain ⟨n, v⟩ := f
    have h : (v % 2 ^ n + 2 ^ n * pack (fs ++ gs)) / 2 ^ n = pack (fs ++ gs) := by
      rw [Nat.add_mul_div_left _ _ (Nat.two_pow_pos n), Nat.div_eq_of_lt (Nat.mod_lt _ (Nat.two_pow_pos n)),
        Nat.zero_add]
    simp [unpack, pack, h, ih]

/-- What lies above the fields. -/
theorem pack_append_div (fs gs : List (Nat × Nat)) :
    pack (fs ++ gs) / 2 ^ widthOf fs = pack gs := by
  induction fs with
  | nil => simp [widthOf]
  | cons f fs ih =>
    obtain ⟨n, v⟩ := f
    have h : (v % 2 ^ n + 2 ^ n * pack (fs ++ gs)) / 2 ^ n = pack (fs ++ gs) := by
      rw [Nat.add_mul_div_left _ _ (Nat.two_pow_pos n), Nat.div_eq_of_lt (Nat.mod_lt _ (Nat.two_pow_pos n)),
        Nat.zero_add]
    rw [List.cons_append, widthOf, Nat.pow_add, ← Nat.div_div_eq_div_mul, pack, h, ih]

/-! ### Field codes -/

theorem Ty.ofCode_code (t : Ty) : Ty.ofCode t.code = some t := by cases t <;> rfl
theorem Ty.code_lt (t : Ty) : t.code < 2 ^ 5 := by cases t <;> decide
theorem Nra.ofCode_code (n : Nra) : Nra.ofCode n.code = n := by cases n <;> rfl
theorem Nra.code_lt (n : Nra) : n.code < 2 ^ 2 := by cases n <;> decide
theorem Ord.ofCode_code (n : Ord) : Ord.ofCode n.code = n := by cases n <;> rfl
theorem Ord.code_lt (n : Ord) : n.code < 2 ^ 2 := by cases n <;> decide
theorem Guard.code_lt (g : Guard) : g.code < 2 ^ 4 := by
  have := g.p.isLt
  unfold Guard.code
  split <;> omega
theorem Guard.ofCode_code (g : Guard) : Guard.ofCode g.code = g := by
  obtain ⟨neg, p⟩ := g
  revert neg p
  decide
theorem bcode_lt (b : Bool) : bcode b < 2 ^ 1 := by cases b <;> decide
theorem bcode_beq (b : Bool) : (bcode b == 1) = b := by cases b <;> rfl

/-! ### The readers -/

theorem opc_of_pack (fs : List (Nat × Nat)) (c : Nat) (h : widthOf fs = 88) (hc : c < 256) :
    pack (fs ++ [(8, c)]) / 2 ^ 88 = c := by
  rw [← h, pack_append_div]
  simp only [pack]
  omega

theorem pack_slot_lt (fs : List (Nat × Nat)) (c : Nat) (h : widthOf fs = 88) : pack (fs ++ [(8, c)]) < 2 ^ 96 := by
  have hw : widthOf (fs ++ [(8, c)]) = 96 := by
    have : ∀ l : List (Nat × Nat), widthOf (l ++ [(8, c)]) = widthOf l + 8 := by
      intro l
      induction l with
      | nil => rfl
      | cons f l ih => obtain ⟨n, v⟩ := f; simp only [List.cons_append, widthOf, ih]; omega
    rw [this, h]
  exact hw ▸ pack_lt (fs ++ [(8, c)])

theorem ofNat_mod_toNat {n : Nat} (x : BitVec n) : BitVec.ofNat n (x.toNat % 2 ^ n) = x := by
  rw [Nat.mod_eq_of_lt x.isLt, BitVec.ofNat_toNat, BitVec.setWidth_eq]

theorem ROp.width (o : ROp) : widthOf (ROp.fields o) = 88 := by simp only [ROp.fields, widthOf]

theorem ROp.read_pack (o : ROp) (gs : List (Nat × Nat)) : ROp.read (pack (ROp.fields o ++ gs)) = some o := by
  have h := unpack_pack (ROp.fields o) gs
  simp only [ROp.fields, List.map_cons, List.map_nil, Nat.mod_eq_of_lt (Guard.code_lt _),
    Nat.mod_eq_of_lt (Ty.code_lt _), Nat.mod_eq_of_lt (bcode_lt _)] at h
  simp only [ROp.read, ROp.fields, h, Guard.ofCode_code, Ty.ofCode_code, Option.map_some, bcode_beq,
    ofNat_mod_toNat]

theorem IOp.width (o : IOp) : widthOf (IOp.fields o) = 88 := by simp only [IOp.fields, widthOf]

theorem IOp.read_pack (o : IOp) (gs : List (Nat × Nat)) : IOp.read (pack (IOp.fields o ++ gs)) = some o := by
  have h := unpack_pack (IOp.fields o) gs
  simp only [IOp.fields, List.map_cons, List.map_nil, Nat.mod_eq_of_lt (Guard.code_lt _),
    Nat.mod_eq_of_lt (Ty.code_lt _)] at h
  simp only [IOp.read, IOp.fields, h, Guard.ofCode_code, Ty.ofCode_code, Option.map_some, ofNat_mod_toNat]

theorem MOp.width (o : MOp) : widthOf (MOp.fields o) = 88 := by simp only [MOp.fields, widthOf]

theorem MOp.read_pack (o : MOp) (gs : List (Nat × Nat)) : MOp.read (pack (MOp.fields o ++ gs)) = some o := by
  have h := unpack_pack (MOp.fields o) gs
  simp only [MOp.fields, List.map_cons, List.map_nil, Nat.mod_eq_of_lt (Guard.code_lt _),
    Nat.mod_eq_of_lt (Ty.code_lt _), Nat.mod_eq_of_lt (Nra.code_lt _), Nat.mod_eq_of_lt (Ord.code_lt _),
    Nat.mod_eq_of_lt (bcode_lt _)] at h
  simp only [MOp.read, MOp.fields, h, Guard.ofCode_code, Ty.ofCode_code, Option.map_some, Nra.ofCode_code,
    Ord.ofCode_code, bcode_beq, ofNat_mod_toNat]

theorem EOp.width (o : EOp) : widthOf (EOp.fields o) = 88 := by simp only [EOp.fields, widthOf]

theorem EOp.read_pack (o : EOp) (gs : List (Nat × Nat)) : EOp.read (pack (EOp.fields o ++ gs)) = some o := by
  have h := unpack_pack (EOp.fields o) gs
  simp only [EOp.fields, List.map_cons, List.map_nil, Nat.mod_eq_of_lt (Guard.code_lt _),
    Nat.mod_eq_of_lt (Nra.code_lt _), Nat.mod_eq_of_lt (Ord.code_lt _), Nat.mod_eq_of_lt (bcode_lt _)] at h
  simp only [EOp.read, EOp.fields, h, Guard.ofCode_code, Nra.ofCode_code, Ord.ofCode_code, bcode_beq,
    ofNat_mod_toNat]

theorem BOp.width (o : BOp) : widthOf (BOp.fields o) = 88 := by simp only [BOp.fields, widthOf]

theorem BOp.read_pack (o : BOp) (gs : List (Nat × Nat)) : BOp.read (pack (BOp.fields o ++ gs)) = some o := by
  have h := unpack_pack (BOp.fields o) gs
  simp only [BOp.fields, List.map_cons, List.map_nil, Nat.mod_eq_of_lt (Guard.code_lt _)] at h
  simp only [BOp.read, BOp.fields, h, Guard.ofCode_code, ofNat_mod_toNat]

theorem VOp.width (o : VOp) : widthOf (VOp.fields o) = 88 := by simp only [VOp.fields, widthOf]

theorem VOp.read_pack (o : VOp) (gs : List (Nat × Nat)) : VOp.read (pack (VOp.fields o ++ gs)) = some o := by
  have h := unpack_pack (VOp.fields o) gs
  simp only [VOp.fields, List.map_cons, List.map_nil, Nat.mod_eq_of_lt (Guard.code_lt _),
    Nat.mod_eq_of_lt (Ty.code_lt _), Nat.mod_eq_of_lt (bcode_lt _)] at h
  simp only [VOp.read, VOp.fields, h, Guard.ofCode_code, Ty.ofCode_code, Option.map_some, bcode_beq,
    ofNat_mod_toNat]

theorem XOp.width (o : XOp) : widthOf (XOp.fields o) = 88 := by simp only [XOp.fields, widthOf]

theorem XOp.read_pack (o : XOp) (gs : List (Nat × Nat)) : XOp.read (pack (XOp.fields o ++ gs)) = some o := by
  have h := unpack_pack (XOp.fields o) gs
  rw [XOp.read, show [12, 12, 2, 4, 8, 2, 4, 1, 1, 1, 1, 6, 6, 6, 6, 6, 2, 4, 4] =
    (XOp.fields o).map (·.1) from rfl, h]
  simp only [XOp.fields, List.map_cons, List.map_nil, Nat.mod_eq_of_lt (Guard.code_lt _),
    Nat.mod_eq_of_lt (bcode_lt _), Guard.ofCode_code, bcode_beq, ofNat_mod_toNat]

end Sys2Proof
end

