-- ==== Sys2Proof/Laws/PerInstr.lean ====
section
/-! SUPPORT. Per instruction: an encoding lies within a slot and is read back, before the checks of R486.
Events have no encoding. -/

namespace Sys2Proof.Laws.F
open Sys2Proof

/-- The slot of an instruction is a word of 96 bits whose fields are read back as they were. -/
def Statement (i : Instr) : Prop := ∀ w, encode i = some w → w < 2 ^ 96 ∧ rawDecode w = some i

theorem of_read {α : Type} (i : Instr) (c : Nat) (fs : List (Nat × Nat)) (read : Nat → Option α) (mk : α → Instr)
    (o : α) (h : opcFields i = some (c, fs)) (hw : widthOf fs = 88) (hc : c.blt 256 = true)
    (hr : ∀ gs, read (pack (fs ++ gs)) = some o) (hm : ∀ w, rawAt c w = (read w).map mk) (hi : mk o = i) :
    Statement i := by
  intro w e
  simp only [encode, h, Option.map_some, Option.some.injEq] at e
  refine e ▸ ⟨pack_slot_lt fs c hw, ?_⟩
  rw [rawDecode, opc_of_pack fs c hw (Nat.blt_eq.mp hc), hm, hr, Option.map_some, hi]

theorem of_none (i : Instr) (h : opcFields i = none) : Statement i := by
  intro w e
  simp [encode, h] at e

theorem nop : Statement .nop := by
  intro w e
  simp only [encode, opcFields, Option.map_some, Option.some.injEq] at e
  subst e
  decide
theorem add (o : ROp) : Statement (.add o) :=
  of_read _ 0x01 _ ROp.read _ o rfl (ROp.width o)
    rfl (ROp.read_pack o) (fun _ => rfl) rfl
theorem sub (o : ROp) : Statement (.sub o) :=
  of_read _ 0x02 _ ROp.read _ o rfl (ROp.width o)
    rfl (ROp.read_pack o) (fun _ => rfl) rfl
theorem addi (o : IOp) : Statement (.addi o) :=
  of_read _ 0x03 _ IOp.read _ o rfl (IOp.width o)
    rfl (IOp.read_pack o) (fun _ => rfl) rfl
theorem mul (o : ROp) : Statement (.mul o) :=
  of_read _ 0x04 _ ROp.read _ o rfl (ROp.width o)
    rfl (ROp.read_pack o) (fun _ => rfl) rfl
theorem mulh (o : ROp) : Statement (.mulh o) :=
  of_read _ 0x05 _ ROp.read _ o rfl (ROp.width o)
    rfl (ROp.read_pack o) (fun _ => rfl) rfl
theorem divI (o : ROp) : Statement (.divI o) :=
  of_read _ 0x06 _ ROp.read _ o rfl (ROp.width o)
    rfl (ROp.read_pack o) (fun _ => rfl) rfl
theorem remI (o : ROp) : Statement (.remI o) :=
  of_read _ 0x07 _ ROp.read _ o rfl (ROp.width o)
    rfl (ROp.read_pack o) (fun _ => rfl) rfl
theorem andI (o : ROp) : Statement (.andI o) :=
  of_read _ 0x08 _ ROp.read _ o rfl (ROp.width o)
    rfl (ROp.read_pack o) (fun _ => rfl) rfl
theorem orI (o : ROp) : Statement (.orI o) :=
  of_read _ 0x09 _ ROp.read _ o rfl (ROp.width o)
    rfl (ROp.read_pack o) (fun _ => rfl) rfl
theorem xorI (o : ROp) : Statement (.xorI o) :=
  of_read _ 0x0A _ ROp.read _ o rfl (ROp.width o)
    rfl (ROp.read_pack o) (fun _ => rfl) rfl
theorem andn (o : ROp) : Statement (.andn o) :=
  of_read _ 0x0B _ ROp.read _ o rfl (ROp.width o)
    rfl (ROp.read_pack o) (fun _ => rfl) rfl
theorem shl (o : ROp) : Statement (.shl o) :=
  of_read _ 0x0C _ ROp.read _ o rfl (ROp.width o)
    rfl (ROp.read_pack o) (fun _ => rfl) rfl
theorem shr (o : ROp) : Statement (.shr o) :=
  of_read _ 0x0D _ ROp.read _ o rfl (ROp.width o)
    rfl (ROp.read_pack o) (fun _ => rfl) rfl
theorem sra (o : ROp) : Statement (.sra o) :=
  of_read _ 0x0E _ ROp.read _ o rfl (ROp.width o)
    rfl (ROp.read_pack o) (fun _ => rfl) rfl
theorem rot (o : ROp) : Statement (.rot o) :=
  of_read _ 0x0F _ ROp.read _ o rfl (ROp.width o)
    rfl (ROp.read_pack o) (fun _ => rfl) rfl
theorem clz (o : ROp) : Statement (.clz o) :=
  of_read _ 0x10 _ ROp.read _ o rfl (ROp.width o)
    rfl (ROp.read_pack o) (fun _ => rfl) rfl
theorem ctz (o : ROp) : Statement (.ctz o) :=
  of_read _ 0x11 _ ROp.read _ o rfl (ROp.width o)
    rfl (ROp.read_pack o) (fun _ => rfl) rfl
theorem popc (o : ROp) : Statement (.popc o) :=
  of_read _ 0x12 _ ROp.read _ o rfl (ROp.width o)
    rfl (ROp.read_pack o) (fun _ => rfl) rfl
theorem minI (o : ROp) : Statement (.minI o) :=
  of_read _ 0x13 _ ROp.read _ o rfl (ROp.width o)
    rfl (ROp.read_pack o) (fun _ => rfl) rfl
theorem maxI (o : ROp) : Statement (.maxI o) :=
  of_read _ 0x14 _ ROp.read _ o rfl (ROp.width o)
    rfl (ROp.read_pack o) (fun _ => rfl) rfl
theorem cmp (o : ROp) : Statement (.cmp o) :=
  of_read _ 0x15 _ ROp.read _ o rfl (ROp.width o)
    rfl (ROp.read_pack o) (fun _ => rfl) rfl
theorem sel (o : ROp) : Statement (.sel o) :=
  of_read _ 0x16 _ ROp.read _ o rfl (ROp.width o)
    rfl (ROp.read_pack o) (fun _ => rfl) rfl
theorem movi (o : IOp) : Statement (.movi o) :=
  of_read _ 0x17 _ IOp.read _ o rfl (IOp.width o)
    rfl (IOp.read_pack o) (fun _ => rfl) rfl
theorem lea (o : ROp) : Statement (.lea o) :=
  of_read _ 0x18 _ ROp.read _ o rfl (ROp.width o)
    rfl (ROp.read_pack o) (fun _ => rfl) rfl
theorem bfx (o : ROp) : Statement (.bfx o) :=
  of_read _ 0x19 _ ROp.read _ o rfl (ROp.width o)
    rfl (ROp.read_pack o) (fun _ => rfl) rfl
theorem bfi (o : ROp) : Statement (.bfi o) :=
  of_read _ 0x1A _ ROp.read _ o rfl (ROp.width o)
    rfl (ROp.read_pack o) (fun _ => rfl) rfl
theorem bswap (o : ROp) : Statement (.bswap o) :=
  of_read _ 0x1B _ ROp.read _ o rfl (ROp.width o)
    rfl (ROp.read_pack o) (fun _ => rfl) rfl
theorem movp (o : ROp) : Statement (.movp o) :=
  of_read _ 0x1C _ ROp.read _ o rfl (ROp.width o)
    rfl (ROp.read_pack o) (fun _ => rfl) rfl
theorem pset (o : ROp) : Statement (.pset o) :=
  of_read _ 0x1D _ ROp.read _ o rfl (ROp.width o)
    rfl (ROp.read_pack o) (fun _ => rfl) rfl
theorem fadd (o : ROp) : Statement (.fadd o) :=
  of_read _ 0x20 _ ROp.read _ o rfl (ROp.width o)
    rfl (ROp.read_pack o) (fun _ => rfl) rfl
theorem fsub (o : ROp) : Statement (.fsub o) :=
  of_read _ 0x21 _ ROp.read _ o rfl (ROp.width o)
    rfl (ROp.read_pack o) (fun _ => rfl) rfl
theorem fmul (o : ROp) : Statement (.fmul o) :=
  of_read _ 0x22 _ ROp.read _ o rfl (ROp.width o)
    rfl (ROp.read_pack o) (fun _ => rfl) rfl
theorem ffma (o : ROp) : Statement (.ffma o) :=
  of_read _ 0x23 _ ROp.read _ o rfl (ROp.width o)
    rfl (ROp.read_pack o) (fun _ => rfl) rfl
theorem fdiv (o : ROp) : Statement (.fdiv o) :=
  of_read _ 0x24 _ ROp.read _ o rfl (ROp.width o)
    rfl (ROp.read_pack o) (fun _ => rfl) rfl
theorem fsqrt (o : ROp) : Statement (.fsqrt o) :=
  of_read _ 0x25 _ ROp.read _ o rfl (ROp.width o)
    rfl (ROp.read_pack o) (fun _ => rfl) rfl
theorem fmin (o : ROp) : Statement (.fmin o) :=
  of_read _ 0x26 _ ROp.read _ o rfl (ROp.width o)
    rfl (ROp.read_pack o) (fun _ => rfl) rfl
theorem fmax (o : ROp) : Statement (.fmax o) :=
  of_read _ 0x27 _ ROp.read _ o rfl (ROp.width o)
    rfl (ROp.read_pack o) (fun _ => rfl) rfl
theorem fcmp (o : ROp) : Statement (.fcmp o) :=
  of_read _ 0x28 _ ROp.read _ o rfl (ROp.width o)
    rfl (ROp.read_pack o) (fun _ => rfl) rfl
theorem fcvt (o : ROp) : Statement (.fcvt o) :=
  of_read _ 0x29 _ ROp.read _ o rfl (ROp.width o)
    rfl (ROp.read_pack o) (fun _ => rfl) rfl
theorem fclass (o : ROp) : Statement (.fclass o) :=
  of_read _ 0x2A _ ROp.read _ o rfl (ROp.width o)
    rfl (ROp.read_pack o) (fun _ => rfl) rfl
theorem fsgn (o : ROp) : Statement (.fsgn o) :=
  of_read _ 0x2B _ ROp.read _ o rfl (ROp.width o)
    rfl (ROp.read_pack o) (fun _ => rfl) rfl
theorem br (o : BOp) : Statement (.br o) :=
  of_read _ 0x30 _ BOp.read _ o rfl (BOp.width o)
    rfl (BOp.read_pack o) (fun _ => rfl) rfl
theorem boc (o : BOp) : Statement (.boc o) :=
  of_read _ 0x31 _ BOp.read _ o rfl (BOp.width o)
    rfl (BOp.read_pack o) (fun _ => rfl) rfl
theorem call (o : BOp) : Statement (.call o) :=
  of_read _ 0x32 _ BOp.read _ o rfl (BOp.width o)
    rfl (BOp.read_pack o) (fun _ => rfl) rfl
theorem ret (o : ROp) : Statement (.ret o) :=
  of_read _ 0x33 _ ROp.read _ o rfl (ROp.width o)
    rfl (ROp.read_pack o) (fun _ => rfl) rfl
theorem jmp (o : ROp) : Statement (.jmp o) :=
  of_read _ 0x34 _ ROp.read _ o rfl (ROp.width o)
    rfl (ROp.read_pack o) (fun _ => rfl) rfl
theorem calli (o : ROp) : Statement (.calli o) :=
  of_read _ 0x35 _ ROp.read _ o rfl (ROp.width o)
    rfl (ROp.read_pack o) (fun _ => rfl) rfl
theorem loopI (o : BOp) : Statement (.loopI o) :=
  of_read _ 0x36 _ BOp.read _ o rfl (BOp.width o)
    rfl (BOp.read_pack o) (fun _ => rfl) rfl
theorem yieldI (o : ROp) : Statement (.yieldI o) :=
  of_read _ 0x37 _ ROp.read _ o rfl (ROp.width o)
    rfl (ROp.read_pack o) (fun _ => rfl) rfl
theorem park (o : ROp) : Statement (.park o) :=
  of_read _ 0x38 _ ROp.read _ o rfl (ROp.width o)
    rfl (ROp.read_pack o) (fun _ => rfl) rfl
theorem enter (o : IOp) : Statement (.enter o) :=
  of_read _ 0x39 _ IOp.read _ o rfl (IOp.width o)
    rfl (IOp.read_pack o) (fun _ => rfl) rfl
theorem leave (o : ROp) : Statement (.leave o) :=
  of_read _ 0x3A _ ROp.read _ o rfl (ROp.width o)
    rfl (ROp.read_pack o) (fun _ => rfl) rfl
theorem endI (o : ROp) : Statement (.endI o) :=
  of_read _ 0x3B _ ROp.read _ o rfl (ROp.width o)
    rfl (ROp.read_pack o) (fun _ => rfl) rfl
theorem ld (o : MOp) : Statement (.ld o) :=
  of_read _ 0x40 _ MOp.read _ o rfl (MOp.width o)
    rfl (MOp.read_pack o) (fun _ => rfl) rfl
theorem st (o : MOp) : Statement (.st o) :=
  of_read _ 0x41 _ MOp.read _ o rfl (MOp.width o)
    rfl (MOp.read_pack o) (fun _ => rfl) rfl
theorem ldw (o : MOp) : Statement (.ldw o) :=
  of_read _ 0x42 _ MOp.read _ o rfl (MOp.width o)
    rfl (MOp.read_pack o) (fun _ => rfl) rfl
theorem ldc (o : MOp) : Statement (.ldc o) :=
  of_read _ 0x43 _ MOp.read _ o rfl (MOp.width o)
    rfl (MOp.read_pack o) (fun _ => rfl) rfl
theorem stf (o : MOp) : Statement (.stf o) :=
  of_read _ 0x44 _ MOp.read _ o rfl (MOp.width o)
    rfl (MOp.read_pack o) (fun _ => rfl) rfl
theorem ste (o : MOp) : Statement (.ste o) :=
  of_read _ 0x45 _ MOp.read _ o rfl (MOp.width o)
    rfl (MOp.read_pack o) (fun _ => rfl) rfl
theorem feq (o : MOp) : Statement (.feq o) :=
  of_read _ 0x46 _ MOp.read _ o rfl (MOp.width o)
    rfl (MOp.read_pack o) (fun _ => rfl) rfl
theorem feset (o : MOp) : Statement (.feset o) :=
  of_read _ 0x47 _ MOp.read _ o rfl (MOp.width o)
    rfl (MOp.read_pack o) (fun _ => rfl) rfl
theorem ldl (o : MOp) : Statement (.ldl o) :=
  of_read _ 0x48 _ MOp.read _ o rfl (MOp.width o)
    rfl (MOp.read_pack o) (fun _ => rfl) rfl
theorem stl (o : MOp) : Statement (.stl o) :=
  of_read _ 0x49 _ MOp.read _ o rfl (MOp.width o)
    rfl (MOp.read_pack o) (fun _ => rfl) rfl
theorem ldb (o : MOp) : Statement (.ldb o) :=
  of_read _ 0x4A _ MOp.read _ o rfl (MOp.width o)
    rfl (MOp.read_pack o) (fun _ => rfl) rfl
theorem stb (o : MOp) : Statement (.stb o) :=
  of_read _ 0x4B _ MOp.read _ o rfl (MOp.width o)
    rfl (MOp.read_pack o) (fun _ => rfl) rfl
theorem ldk (o : MOp) : Statement (.ldk o) :=
  of_read _ 0x4C _ MOp.read _ o rfl (MOp.width o)
    rfl (MOp.read_pack o) (fun _ => rfl) rfl
theorem wld (o : MOp) : Statement (.wld o) :=
  of_read _ 0x4D _ MOp.read _ o rfl (MOp.width o)
    rfl (MOp.read_pack o) (fun _ => rfl) rfl
theorem pfx (o : MOp) : Statement (.pfx o) :=
  of_read _ 0x4E _ MOp.read _ o rfl (MOp.width o)
    rfl (MOp.read_pack o) (fun _ => rfl) rfl
theorem acq (o : ROp) : Statement (.acq o) :=
  of_read _ 0x4F _ ROp.read _ o rfl (ROp.width o)
    rfl (ROp.read_pack o) (fun _ => rfl) rfl
theorem rel (o : MOp) : Statement (.rel o) :=
  of_read _ 0x50 _ MOp.read _ o rfl (MOp.width o)
    rfl (MOp.read_pack o) (fun _ => rfl) rfl
theorem fence (o : MOp) : Statement (.fence o) :=
  of_read _ 0x51 _ MOp.read _ o rfl (MOp.width o)
    rfl (MOp.read_pack o) (fun _ => rfl) rfl
theorem aadd (o : MOp) : Statement (.aadd o) :=
  of_read _ 0x60 _ MOp.read _ o rfl (MOp.width o)
    rfl (MOp.read_pack o) (fun _ => rfl) rfl
theorem aand (o : MOp) : Statement (.aand o) :=
  of_read _ 0x61 _ MOp.read _ o rfl (MOp.width o)
    rfl (MOp.read_pack o) (fun _ => rfl) rfl
theorem aor (o : MOp) : Statement (.aor o) :=
  of_read _ 0x62 _ MOp.read _ o rfl (MOp.width o)
    rfl (MOp.read_pack o) (fun _ => rfl) rfl
theorem axor (o : MOp) : Statement (.axor o) :=
  of_read _ 0x63 _ MOp.read _ o rfl (MOp.width o)
    rfl (MOp.read_pack o) (fun _ => rfl) rfl
theorem amin (o : MOp) : Statement (.amin o) :=
  of_read _ 0x64 _ MOp.read _ o rfl (MOp.width o)
    rfl (MOp.read_pack o) (fun _ => rfl) rfl
theorem amax (o : MOp) : Statement (.amax o) :=
  of_read _ 0x65 _ MOp.read _ o rfl (MOp.width o)
    rfl (MOp.read_pack o) (fun _ => rfl) rfl
theorem aswp (o : MOp) : Statement (.aswp o) :=
  of_read _ 0x66 _ MOp.read _ o rfl (MOp.width o)
    rfl (MOp.read_pack o) (fun _ => rfl) rfl
theorem acas (o : MOp) : Statement (.acas o) :=
  of_read _ 0x67 _ MOp.read _ o rfl (MOp.width o)
    rfl (MOp.read_pack o) (fun _ => rfl) rfl
theorem afadd (o : MOp) : Statement (.afadd o) :=
  of_read _ 0x68 _ MOp.read _ o rfl (MOp.width o)
    rfl (MOp.read_pack o) (fun _ => rfl) rfl
theorem rsta (o : MOp) : Statement (.rsta o) :=
  of_read _ 0x69 _ MOp.read _ o rfl (MOp.width o)
    rfl (MOp.read_pack o) (fun _ => rfl) rfl
theorem swait (o : EOp) : Statement (.swait o) :=
  of_read _ 0x70 _ EOp.read _ o rfl (EOp.width o)
    rfl (EOp.read_pack o) (fun _ => rfl) rfl
theorem ssig (o : EOp) : Statement (.ssig o) :=
  of_read _ 0x71 _ EOp.read _ o rfl (EOp.width o)
    rfl (EOp.read_pack o) (fun _ => rfl) rfl
theorem sset (o : EOp) : Statement (.sset o) :=
  of_read _ 0x72 _ EOp.read _ o rfl (EOp.width o)
    rfl (EOp.read_pack o) (fun _ => rfl) rfl
theorem msend (o : EOp) : Statement (.msend o) :=
  of_read _ 0x73 _ EOp.read _ o rfl (EOp.width o)
    rfl (EOp.read_pack o) (fun _ => rfl) rfl
theorem mrd (o : EOp) : Statement (.mrd o) :=
  of_read _ 0x74 _ EOp.read _ o rfl (EOp.width o)
    rfl (EOp.read_pack o) (fun _ => rfl) rfl
theorem bara (o : EOp) : Statement (.bara o) :=
  of_read _ 0x75 _ EOp.read _ o rfl (EOp.width o)
    rfl (EOp.read_pack o) (fun _ => rfl) rfl
theorem barw (o : EOp) : Statement (.barw o) :=
  of_read _ 0x76 _ EOp.read _ o rfl (EOp.width o)
    rfl (EOp.read_pack o) (fun _ => rfl) rfl
theorem doneI (o : ROp) : Statement (.doneI o) :=
  of_read _ 0x77 _ ROp.read _ o rfl (ROp.width o)
    rfl (ROp.read_pack o) (fun _ => rfl) rfl
theorem startI (o : EOp) : Statement (.startI o) :=
  of_read _ 0x78 _ EOp.read _ o rfl (EOp.width o)
    rfl (EOp.read_pack o) (fun _ => rfl) rfl
theorem hchk (o : EOp) : Statement (.hchk o) :=
  of_read _ 0x79 _ EOp.read _ o rfl (EOp.width o)
    rfl (EOp.read_pack o) (fun _ => rfl) rfl
theorem rpop (o : EOp) : Statement (.rpop o) :=
  of_read _ 0x7A _ EOp.read _ o rfl (EOp.width o)
    rfl (EOp.read_pack o) (fun _ => rfl) rfl
theorem rdec (o : EOp) : Statement (.rdec o) :=
  of_read _ 0x7B _ EOp.read _ o rfl (EOp.width o)
    rfl (EOp.read_pack o) (fun _ => rfl) rfl
theorem take (o : EOp) : Statement (.take o) :=
  of_read _ 0x7C _ EOp.read _ o rfl (EOp.width o)
    rfl (EOp.read_pack o) (fun _ => rfl) rfl
theorem give (o : EOp) : Statement (.give o) :=
  of_read _ 0x7D _ EOp.read _ o rfl (EOp.width o)
    rfl (EOp.read_pack o) (fun _ => rfl) rfl
theorem mret (o : ROp) : Statement (.mret o) :=
  of_read _ 0x7E _ ROp.read _ o rfl (ROp.width o)
    rfl (ROp.read_pack o) (fun _ => rfl) rfl
theorem vadd (o : VOp) : Statement (.vadd o) :=
  of_read _ 0x80 _ VOp.read _ o rfl (VOp.width o)
    rfl (VOp.read_pack o) (fun _ => rfl) rfl
theorem vsub (o : VOp) : Statement (.vsub o) :=
  of_read _ 0x81 _ VOp.read _ o rfl (VOp.width o)
    rfl (VOp.read_pack o) (fun _ => rfl) rfl
theorem vmul (o : VOp) : Statement (.vmul o) :=
  of_read _ 0x82 _ VOp.read _ o rfl (VOp.width o)
    rfl (VOp.read_pack o) (fun _ => rfl) rfl
theorem vfma (o : VOp) : Statement (.vfma o) :=
  of_read _ 0x83 _ VOp.read _ o rfl (VOp.width o)
    rfl (VOp.read_pack o) (fun _ => rfl) rfl
theorem vmin (o : VOp) : Statement (.vmin o) :=
  of_read _ 0x84 _ VOp.read _ o rfl (VOp.width o)
    rfl (VOp.read_pack o) (fun _ => rfl) rfl
theorem vmax (o : VOp) : Statement (.vmax o) :=
  of_read _ 0x85 _ VOp.read _ o rfl (VOp.width o)
    rfl (VOp.read_pack o) (fun _ => rfl) rfl
theorem vabs (o : VOp) : Statement (.vabs o) :=
  of_read _ 0x86 _ VOp.read _ o rfl (VOp.width o)
    rfl (VOp.read_pack o) (fun _ => rfl) rfl
theorem vcmp (o : VOp) : Statement (.vcmp o) :=
  of_read _ 0x87 _ VOp.read _ o rfl (VOp.width o)
    rfl (VOp.read_pack o) (fun _ => rfl) rfl
theorem vsel (o : VOp) : Statement (.vsel o) :=
  of_read _ 0x88 _ VOp.read _ o rfl (VOp.width o)
    rfl (VOp.read_pack o) (fun _ => rfl) rfl
theorem vand (o : VOp) : Statement (.vand o) :=
  of_read _ 0x89 _ VOp.read _ o rfl (VOp.width o)
    rfl (VOp.read_pack o) (fun _ => rfl) rfl
theorem vor (o : VOp) : Statement (.vor o) :=
  of_read _ 0x8A _ VOp.read _ o rfl (VOp.width o)
    rfl (VOp.read_pack o) (fun _ => rfl) rfl
theorem vxor (o : VOp) : Statement (.vxor o) :=
  of_read _ 0x8B _ VOp.read _ o rfl (VOp.width o)
    rfl (VOp.read_pack o) (fun _ => rfl) rfl
theorem vshl (o : VOp) : Statement (.vshl o) :=
  of_read _ 0x8C _ VOp.read _ o rfl (VOp.width o)
    rfl (VOp.read_pack o) (fun _ => rfl) rfl
theorem vshr (o : VOp) : Statement (.vshr o) :=
  of_read _ 0x8D _ VOp.read _ o rfl (VOp.width o)
    rfl (VOp.read_pack o) (fun _ => rfl) rfl
theorem vcvt (o : VOp) : Statement (.vcvt o) :=
  of_read _ 0x8E _ VOp.read _ o rfl (VOp.width o)
    rfl (VOp.read_pack o) (fun _ => rfl) rfl
theorem vexp2 (o : VOp) : Statement (.vexp2 o) :=
  of_read _ 0x8F _ VOp.read _ o rfl (VOp.width o)
    rfl (VOp.read_pack o) (fun _ => rfl) rfl
theorem vlog2 (o : VOp) : Statement (.vlog2 o) :=
  of_read _ 0x90 _ VOp.read _ o rfl (VOp.width o)
    rfl (VOp.read_pack o) (fun _ => rfl) rfl
theorem vrcp (o : VOp) : Statement (.vrcp o) :=
  of_read _ 0x91 _ VOp.read _ o rfl (VOp.width o)
    rfl (VOp.read_pack o) (fun _ => rfl) rfl
theorem vrsq (o : VOp) : Statement (.vrsq o) :=
  of_read _ 0x92 _ VOp.read _ o rfl (VOp.width o)
    rfl (VOp.read_pack o) (fun _ => rfl) rfl
theorem vred (o : VOp) : Statement (.vred o) :=
  of_read _ 0x93 _ VOp.read _ o rfl (VOp.width o)
    rfl (VOp.read_pack o) (fun _ => rfl) rfl
theorem vscan (o : VOp) : Statement (.vscan o) :=
  of_read _ 0x94 _ VOp.read _ o rfl (VOp.width o)
    rfl (VOp.read_pack o) (fun _ => rfl) rfl
theorem vperm (o : VOp) : Statement (.vperm o) :=
  of_read _ 0x95 _ VOp.read _ o rfl (VOp.width o)
    rfl (VOp.read_pack o) (fun _ => rfl) rfl
theorem vgath (o : VOp) : Statement (.vgath o) :=
  of_read _ 0x96 _ VOp.read _ o rfl (VOp.width o)
    rfl (VOp.read_pack o) (fun _ => rfl) rfl
theorem vscat (o : VOp) : Statement (.vscat o) :=
  of_read _ 0x97 _ VOp.read _ o rfl (VOp.width o)
    rfl (VOp.read_pack o) (fun _ => rfl) rfl
theorem vqnt (o : VOp) : Statement (.vqnt o) :=
  of_read _ 0x98 _ VOp.read _ o rfl (VOp.width o)
    rfl (VOp.read_pack o) (fun _ => rfl) rfl
theorem vdq (o : VOp) : Statement (.vdq o) :=
  of_read _ 0x99 _ VOp.read _ o rfl (VOp.width o)
    rfl (VOp.read_pack o) (fun _ => rfl) rfl
theorem vmov (o : VOp) : Statement (.vmov o) :=
  of_read _ 0x9A _ VOp.read _ o rfl (VOp.width o)
    rfl (VOp.read_pack o) (fun _ => rfl) rfl
theorem vld (o : VOp) : Statement (.vld o) :=
  of_read _ 0x9B _ VOp.read _ o rfl (VOp.width o)
    rfl (VOp.read_pack o) (fun _ => rfl) rfl
theorem vst (o : VOp) : Statement (.vst o) :=
  of_read _ 0x9C _ VOp.read _ o rfl (VOp.width o)
    rfl (VOp.read_pack o) (fun _ => rfl) rfl
theorem vmrg (o : VOp) : Statement (.vmrg o) :=
  of_read _ 0x9D _ VOp.read _ o rfl (VOp.width o)
    rfl (VOp.read_pack o) (fun _ => rfl) rfl
theorem vbsr (o : VOp) : Statement (.vbsr o) :=
  of_read _ 0x9E _ VOp.read _ o rfl (VOp.width o)
    rfl (VOp.read_pack o) (fun _ => rfl) rfl
theorem mld (o : XOp) : Statement (.mld o) :=
  of_read _ 0xB0 _ XOp.read _ o rfl (XOp.width o)
    rfl (XOp.read_pack o) (fun _ => rfl) rfl
theorem mst (o : XOp) : Statement (.mst o) :=
  of_read _ 0xB1 _ XOp.read _ o rfl (XOp.width o)
    rfl (XOp.read_pack o) (fun _ => rfl) rfl
theorem mma (o : XOp) : Statement (.mma o) :=
  of_read _ 0xB2 _ XOp.read _ o rfl (XOp.width o)
    rfl (XOp.read_pack o) (fun _ => rfl) rfl
theorem mzero (o : XOp) : Statement (.mzero o) :=
  of_read _ 0xB3 _ XOp.read _ o rfl (XOp.width o)
    rfl (XOp.read_pack o) (fun _ => rfl) rfl
theorem mtrn (o : XOp) : Statement (.mtrn o) :=
  of_read _ 0xB4 _ XOp.read _ o rfl (XOp.width o)
    rfl (XOp.read_pack o) (fun _ => rfl) rfl
theorem mcvt (o : XOp) : Statement (.mcvt o) :=
  of_read _ 0xB5 _ XOp.read _ o rfl (XOp.width o)
    rfl (XOp.read_pack o) (fun _ => rfl) rfl
theorem mscl (o : XOp) : Statement (.mscl o) :=
  of_read _ 0xB6 _ XOp.read _ o rfl (XOp.width o)
    rfl (XOp.read_pack o) (fun _ => rfl) rfl
theorem macc (o : XOp) : Statement (.macc o) :=
  of_read _ 0xB7 _ XOp.read _ o rfl (XOp.width o)
    rfl (XOp.read_pack o) (fun _ => rfl) rfl
theorem mstat (o : XOp) : Statement (.mstat o) :=
  of_read _ 0xB8 _ XOp.read _ o rfl (XOp.width o)
    rfl (XOp.read_pack o) (fun _ => rfl) rfl
theorem capp (o : EOp) : Statement (.capp o) :=
  of_read _ 0xC0 _ EOp.read _ o rfl (EOp.width o)
    rfl (EOp.read_pack o) (fun _ => rfl) rfl
theorem cadv (o : EOp) : Statement (.cadv o) :=
  of_read _ 0xC1 _ EOp.read _ o rfl (EOp.width o)
    rfl (EOp.read_pack o) (fun _ => rfl) rfl
theorem cseq (o : EOp) : Statement (.cseq o) :=
  of_read _ 0xC2 _ EOp.read _ o rfl (EOp.width o)
    rfl (EOp.read_pack o) (fun _ => rfl) rfl
theorem clck (o : EOp) : Statement (.clck o) :=
  of_read _ 0xC3 _ EOp.read _ o rfl (EOp.width o)
    rfl (EOp.read_pack o) (fun _ => rfl) rfl
theorem culk (o : EOp) : Statement (.culk o) :=
  of_read _ 0xC4 _ EOp.read _ o rfl (EOp.width o)
    rfl (EOp.read_pack o) (fun _ => rfl) rfl
theorem evpop (o : EOp) : Statement (.evpop o) :=
  of_read _ 0xC5 _ EOp.read _ o rfl (EOp.width o)
    rfl (EOp.read_pack o) (fun _ => rfl) rfl
theorem csrr (o : IOp) : Statement (.csrr o) :=
  of_read _ 0xD0 _ IOp.read _ o rfl (IOp.width o)
    rfl (IOp.read_pack o) (fun _ => rfl) rfl
theorem csrw (o : IOp) : Statement (.csrw o) :=
  of_read _ 0xD1 _ IOp.read _ o rfl (IOp.width o)
    rfl (IOp.read_pack o) (fun _ => rfl) rfl
theorem csrs (o : IOp) : Statement (.csrs o) :=
  of_read _ 0xD2 _ IOp.read _ o rfl (IOp.width o)
    rfl (IOp.read_pack o) (fun _ => rfl) rfl
theorem csrc (o : IOp) : Statement (.csrc o) :=
  of_read _ 0xD3 _ IOp.read _ o rfl (IOp.width o)
    rfl (IOp.read_pack o) (fun _ => rfl) rfl
theorem trap (o : IOp) : Statement (.trap o) :=
  of_read _ 0xD4 _ IOp.read _ o rfl (IOp.width o)
    rfl (IOp.read_pack o) (fun _ => rfl) rfl
theorem eret (o : ROp) : Statement (.eret o) :=
  of_read _ 0xD5 _ ROp.read _ o rfl (ROp.width o)
    rfl (ROp.read_pack o) (fun _ => rfl) rfl
theorem invl (o : ROp) : Statement (.invl o) :=
  of_read _ 0xD6 _ ROp.read _ o rfl (ROp.width o)
    rfl (ROp.read_pack o) (fun _ => rfl) rfl
theorem wbk (o : ROp) : Statement (.wbk o) :=
  of_read _ 0xD7 _ ROp.read _ o rfl (ROp.width o)
    rfl (ROp.read_pack o) (fun _ => rfl) rfl
theorem perm (o : ROp) : Statement (.perm o) :=
  of_read _ 0xD8 _ ROp.read _ o rfl (ROp.width o)
    rfl (ROp.read_pack o) (fun _ => rfl) rfl
theorem bkpt (o : IOp) : Statement (.bkpt o) :=
  of_read _ 0xD9 _ IOp.read _ o rfl (IOp.width o)
    rfl (IOp.read_pack o) (fun _ => rfl) rfl
theorem markI (o : IOp) : Statement (.markI o) :=
  of_read _ 0xDA _ IOp.read _ o rfl (IOp.width o)
    rfl (IOp.read_pack o) (fun _ => rfl) rfl
theorem dstp (o : ROp) : Statement (.dstp o) :=
  of_read _ 0xDB _ ROp.read _ o rfl (ROp.width o)
    rfl (ROp.read_pack o) (fun _ => rfl) rfl
theorem issueSelection (pid : Nat) : Statement (.issueSelection pid) := of_none _ rfl
theorem windowSpill (pid ctx : Nat) : Statement (.windowSpill pid ctx) := of_none _ rfl
theorem windowFill (pid ctx : Nat) : Statement (.windowFill pid ctx) := of_none _ rfl
theorem lineFetch (pid ctx : Nat) : Statement (.lineFetch pid ctx) := of_none _ rfl
theorem lineRequest (pid line : Nat) : Statement (.lineRequest pid line) := of_none _ rfl
theorem lineArrival (pid line : Nat) : Statement (.lineArrival pid line) := of_none _ rfl
theorem homeStorePerform (pid seq : Nat) : Statement (.homeStorePerform pid seq) := of_none _ rfl
theorem homeFullEmptyStep (id : Nat) : Statement (.homeFullEmptyStep id) := of_none _ rfl
theorem homeAtomicStep (id : Nat) : Statement (.homeAtomicStep id) := of_none _ rfl
theorem nearCacheAdd (id : Nat) : Statement (.nearCacheAdd id) := of_none _ rfl
theorem replyArrival (id : Nat) : Statement (.replyArrival id) := of_none _ rfl
theorem storeEntryFault (pid seq : Nat) : Statement (.storeEntryFault pid seq) := of_none _ rfl
theorem trapDelivery (pid ctx : Nat) : Statement (.trapDelivery pid ctx) := of_none _ rfl
theorem monitorTimeout (pid ctx : Nat) : Statement (.monitorTimeout pid ctx) := of_none _ rfl
theorem parkTimeout (pid ctx : Nat) : Statement (.parkTimeout pid ctx) := of_none _ rfl
theorem timedReexecute (pid ctx : Nat) : Statement (.timedReexecute pid ctx) := of_none _ rfl
theorem parkHeapTimeout (pid ctx : Nat) : Statement (.parkHeapTimeout pid ctx) := of_none _ rfl
theorem busyWakeTimeout (pid ctx : Nat) : Statement (.busyWakeTimeout pid ctx) := of_none _ rfl
theorem watchdog (pid ctx : Nat) : Statement (.watchdog pid ctx) := of_none _ rfl
theorem refreshWindowEnd (die bank : Nat) : Statement (.refreshWindowEnd die bank) := of_none _ rfl
theorem loadMessage (id : Nat) : Statement (.loadMessage id) := of_none _ rfl
theorem storeMessage (id : Nat) : Statement (.storeMessage id) := of_none _ rfl
theorem fullEmptyMessage (id : Nat) : Statement (.fullEmptyMessage id) := of_none _ rfl
theorem atomicMessage (id : Nat) : Statement (.atomicMessage id) := of_none _ rfl
theorem signalMessage (id : Nat) : Statement (.signalMessage id) := of_none _ rfl
theorem decrementMessage (id : Nat) : Statement (.decrementMessage id) := of_none _ rfl
theorem arrivalMessage (id : Nat) : Statement (.arrivalMessage id) := of_none _ rfl
theorem barrierPhaseArrival (pid : Nat) : Statement (.barrierPhaseArrival pid) := of_none _ rfl
theorem parkMessage (id : Nat) : Statement (.parkMessage id) := of_none _ rfl
theorem messageHandlingStart (pid ctx : Nat) : Statement (.messageHandlingStart pid ctx) := of_none _ rfl
theorem messageReturn (id : Nat) : Statement (.messageReturn id) := of_none _ rfl
theorem sweepPerform (pid : Nat) : Statement (.sweepPerform pid) := of_none _ rfl
theorem sweepComplete (pid : Nat) : Statement (.sweepComplete pid) := of_none _ rfl
theorem matrixComplete (pid : Nat) : Statement (.matrixComplete pid) := of_none _ rfl
theorem workFault (u : WorkUnit) : Statement (.workFault u) := of_none _ rfl
theorem copyRecordStart (chain : Nat) : Statement (.copyRecordStart chain) := of_none _ rfl
theorem copyRecordRow (chain : Nat) : Statement (.copyRecordRow chain) := of_none _ rfl
theorem cowStep (chain : Nat) : Statement (.cowStep chain) := of_none _ rfl
theorem copyRecordComplete (chain : Nat) : Statement (.copyRecordComplete chain) := of_none _ rfl
theorem followOnOffer (id : Nat) : Statement (.followOnOffer id) := of_none _ rfl
theorem eventRecordPost (pid : Nat) : Statement (.eventRecordPost pid) := of_none _ rfl
theorem atsInvalidation (pasid va size : Nat) : Statement (.atsInvalidation pasid va size) := of_none _ rfl
theorem priResponse (dom page : Nat) (res : PriResult) : Statement (.priResponse dom page res) := of_none _ rfl
theorem doorbellWrite (q tail : Nat) : Statement (.doorbellWrite q tail) := of_none _ rfl
theorem tailCheck (q : Nat) : Statement (.tailCheck q) := of_none _ rfl
theorem launchPacket (q : Nat) : Statement (.launchPacket q) := of_none _ rfl
theorem copyPacket (q : Nat) : Statement (.copyPacket q) := of_none _ rfl
theorem signalPacket (q : Nat) : Statement (.signalPacket q) := of_none _ rfl
theorem waitPacket (q : Nat) : Statement (.waitPacket q) := of_none _ rfl
theorem wfillPacket (q : Nat) : Statement (.wfillPacket q) := of_none _ rfl
theorem markerPacket (q : Nat) : Statement (.markerPacket q) := of_none _ rfl
theorem ckptPacket (q : Nat) : Statement (.ckptPacket q) := of_none _ rfl
theorem packetCompletion (q idx : Nat) : Statement (.packetCompletion q idx) := of_none _ rfl
theorem dispatchRound (die : Nat) : Statement (.dispatchRound die) := of_none _ rfl
theorem quantumEnd (die : Nat) : Statement (.quantumEnd die) := of_none _ rfl
theorem wholeTeamSwap (team : Nat) : Statement (.wholeTeamSwap team) := of_none _ rfl
theorem swapIn (team : Nat) : Statement (.swapIn team) := of_none _ rfl
theorem migrationRequest (pid : Nat) : Statement (.migrationRequest pid) := of_none _ rfl
theorem spatialPreEmption (pid target : Nat) : Statement (.spatialPreEmption pid target) := of_none _ rfl
theorem teamFailure (pid : Nat) : Statement (.teamFailure pid) := of_none _ rfl
theorem dispenserFloor (die : Nat) : Statement (.dispenserFloor die) := of_none _ rfl
theorem dispenserEntryError (die idx : Nat) (parityLost : Bool) : Statement (.dispenserEntryError die idx parityLost) := of_none _ rfl
theorem rampWindowBoundary : Statement .rampWindowBoundary := of_none _ rfl
theorem grant (w0 w1 : Word) (now : Nat) : Statement (.grant w0 w1 now) := of_none _ rfl
theorem grantEffective : Statement .grantEffective := of_none _ rfl
theorem lend (w0 w1 w2 rest : Word) (now : Nat) : Statement (.lend w0 w1 w2 rest now) := of_none _ rfl
theorem returnLease (w0 w2 : Word) : Statement (.returnLease w0 w2) := of_none _ rfl
theorem leaseExpiry (src id : Nat) : Statement (.leaseExpiry src id) := of_none _ rfl
theorem leaseRegain (id : Nat) : Statement (.leaseRegain id) := of_none _ rfl
theorem grantTimeout : Statement .grantTimeout := of_none _ rfl
theorem zoneDrawUpdate (zone watts : Nat) : Statement (.zoneDrawUpdate zone watts) := of_none _ rfl
theorem clockAdjust (zone : Nat) : Statement (.clockAdjust zone) := of_none _ rfl
theorem clockChange (pid n : Nat) : Statement (.clockChange pid n) := of_none _ rfl
theorem zoneBudgetWrite (zone : Nat) (v : Word) : Statement (.zoneBudgetWrite zone v) := of_none _ rfl
theorem flowShareWrite (zone : Nat) (v : Word) : Statement (.flowShareWrite zone v) := of_none _ rfl
theorem energyBooking (cores : List (Nat × Nat)) (jobs : List (Job × Nat)) (ballast : List (Nat × Nat)) (base upkeep : Nat) :
    Statement (.energyBooking cores jobs ballast base upkeep) := of_none _ rfl
theorem cacheCounterFlush (die slice : Nat) : Statement (.cacheCounterFlush die slice) := of_none _ rfl
theorem valveStep (zone : Nat) : Statement (.valveStep zone) := of_none _ rfl
theorem sensorReading (zone : Nat) (r : Sensors) : Statement (.sensorReading zone r) := of_none _ rfl
theorem valveFault (zone : Nat) : Statement (.valveFault zone) := of_none _ rfl
theorem dryChannelEvacuation (zone : Nat) (flowGood : Bool) : Statement (.dryChannelEvacuation zone flowGood) := of_none _ rfl
theorem clusterRetire (die cluster : Nat) : Statement (.clusterRetire die cluster) := of_none _ rfl
theorem patrolScrub (frame line words : Nat) : Statement (.patrolScrub frame line words) := of_none _ rfl
theorem firmwareReload (verified : Bool) : Statement (.firmwareReload verified) := of_none _ rfl
theorem portTrainingLoss (port : Nat) : Statement (.portTrainingLoss port) := of_none _ rfl
theorem fabricAccess (a : FabricArg) : Statement (.fabricAccess a) := of_none _ rfl
theorem fabricTimeout (id : Nat) : Statement (.fabricTimeout id) := of_none _ rfl
theorem setFrameOwner (frame : Nat) (v : Word) : Statement (.setFrameOwner frame v) := of_none _ rfl
theorem clearFrameOwner (frame : Nat) : Statement (.clearFrameOwner frame) := of_none _ rfl
theorem writePermissionEntry (arg0 arg1 arg2 : Word) : Statement (.writePermissionEntry arg0 arg1 arg2) := of_none _ rfl
theorem setQueueState (arg0 arg1 : Word) : Statement (.setQueueState arg0 arg1) := of_none _ rfl
theorem writeHomeGroupEntry (arg0 arg1 : Word) : Statement (.writeHomeGroupEntry arg0 arg1) := of_none _ rfl
theorem partitionReset (arg0 : Word) : Statement (.partitionReset arg0) := of_none _ rfl
theorem attest (arg0 : Word) : Statement (.attest arg0) := of_none _ rfl
theorem setPartitionResetPolicy (arg0 arg1 : Word) : Statement (.setPartitionResetPolicy arg0 arg1) := of_none _ rfl
theorem mailboxBadOp (op : Nat) : Statement (.mailboxBadOp op) := of_none _ rfl
theorem traceTimeRecord (pid : Nat) : Statement (.traceTimeRecord pid) := of_none _ rfl
theorem traceDrain (pid : Nat) : Statement (.traceDrain pid) := of_none _ rfl
theorem fieldRecordCommit : Statement .fieldRecordCommit := of_none _ rfl
theorem zoneMinuteTick : Statement .zoneMinuteTick := of_none _ rfl
theorem registerWrite (r : RegPlace) (v : Word) : Statement (.registerWrite r v) := of_none _ rfl
theorem deviceReset : Statement .deviceReset := of_none _ rfl
theorem regulatorDroop (pid : Nat) : Statement (.regulatorDroop pid) := of_none _ rfl
theorem portTraining (port : Nat) : Statement (.portTraining port) := of_none _ rfl
theorem portTrainingLostFor1S (port : Nat) : Statement (.portTrainingLostFor1S port) := of_none _ rfl
theorem ioDieUncorrectableError : Statement .ioDieUncorrectableError := of_none _ rfl
theorem holdWindowEnd (pid ctx line : Nat) : Statement (.holdWindowEnd pid ctx line) := of_none _ rfl

end Sys2Proof.Laws.F
end

