-- ==== Sys2Proof/Tests/Slice0.lean ====
section
/-! SUPPORT. Tests: words written out from the field tables and read by the decoder, terms that the
encoding checks refuse, and for each statement with hypotheses a state and operands that meet them. -/

namespace Sys2Proof.Tests
open Sys2Proof Sys2Proof.Machine

/-! ### Builders -/

/-- Guard p0. -/
def always : Guard := ⟨false, 0⟩

/-- Guard "not p1", false where p1 holds. -/
def unlessP1 : Guard := ⟨true, 1⟩

def rop (ty : Ty) (d a b : Spec) (c : Spec := 0) (sel : BitVec 4 := 0) (sat : Bool := false)
    (rm : BitVec 3 := 0) (grd : Guard := always) : ROp := ⟨grd, ty, 0, d, a, b, c, sel, sat, rm⟩

def iop (d a : Spec) (imm : Word) (ty : Ty := .none) (var : BitVec 3 := 0) : IOp := ⟨always, ty, var, d, a, imm⟩

def mop (ty : Ty) (d a b : Spec) (disp : BitVec 24 := 0) (ord : Ord := .none) (v0 : Bool := false)
    (nra : Nra := .set) (tgt : BitVec 32 := 0) : MOp := ⟨always, ty, ord, v0, d, a, b, nra, tgt, disp⟩

def eop (d a b : Spec) (sem : BitVec 8 := 0) (imm : BitVec 16 := 0) (ord : Ord := .none) (v0 : Bool := false)
    (nra : Nra := .set) (tgt : BitVec 32 := 0) : EOp := ⟨always, ord, v0, d, a, b, nra, tgt, sem, imm⟩

def bop (d : Spec) (tgt : BitVec 32) (imm : BitVec 24 := 0) : BOp := ⟨always, d, 0, 0, tgt, imm⟩

def vop (ty : Ty) (d a b : Spec) (cnt : BitVec 12 := 1) (low : BitVec 4 := 0) (sd sa sb : BitVec 10 := 0)
    (aS bS : Bool := false) (var : Bool := false) : VOp :=
  ⟨always, ty, var, d, a, b, cnt, sd, sa, sb, 0, 0, aS, bS, low⟩

def xop (fmt : BitVec 4) (d a b : Spec) (kcnt : BitVec 12 := 1) (ak bk : Bool := false) (accf : BitVec 4 := 0)
    (mode : BitVec 2 := 0) (e : Spec := 0) (var : BitVec 2 := 0) : XOp :=
  ⟨always, fmt, var, d, a, b, 0, e, ak, bk, false, false, accf, mode, 0, 0, 0, kcnt⟩

/-! ### Decoding, a word or more for each family, from the field tables of R199 to R210 -/

theorem test_decode_nop : decodeSlot 0 = some .nop := by decide

-- DIV .i32 g2, g3, g4
theorem test_decode_div : decodeSlot 0x060180831000000000000000 = some (.divI (rop .i32 2 3 4)) := by decide

-- CMP .n64 p2, g3, g4, condition 2, guard "not p1"
theorem test_decode_cmp : decodeSlot 0x15940E831002000000000000 = some (.cmp (rop .n64 58 3 4 0 2 false 0 unlessP1)) := by decide

-- FCVT .f32 from .f64 (C = 9), SAT, rounding 1
theorem test_decode_fcvt : decodeSlot 0x290501460090900000000000 = some (.fcvt (rop .f32 5 6 0 9 0 true 1)) := by decide

-- MOVI g31, all ones
theorem test_decode_movi : decodeSlot 0x170007C0FFFFFFFFFFFFFFFF = some (.movi (iop 31 0 0xFFFFFFFFFFFFFFFF)) := by decide

-- BOC mask 06h, one line back
theorem test_decode_boc : decodeSlot 0x3100000000FFFFFFF8000006 = some (.boc (bop 0 0xFFFFFFF8 6)) := by decide

-- ENTER clause 1234h
theorem test_decode_enter : decodeSlot 0x390000000000000000001234 = some (.enter (iop 0 0 0x1234)) := by decide

-- LDB .n64, field of 64 bits
theorem test_decode_ldb : decodeSlot 0x4A0405020C0000000000003F = some (.ldb (mop .n64 20 2 3 63)) := by decide

-- WLD .e4m3 t7, [g2]
theorem test_decode_wld : decodeSlot 0x4D068DC20300000000000000 = some (.wld (mop .e4m3 55 2 0 0 .none false .yield)) := by decide

-- RSTA.REL .f64
theorem test_decode_rsta : decodeSlot 0x6904C0020C00000000000008 = some (.rsta (mop .f64 0 2 3 8 .rel)) := by decide

-- MSEND class 0 with a reply, branch to slot 4
theorem test_decode_msend : decodeSlot 0x730010831100000004000099 = some (.msend (eop 2 3 4 0 0x99 .none true .branch 4)) := by decide

-- START g1, g2, park
theorem test_decode_start : decodeSlot 0x780000420200000000000000 = some (.startI (eop 1 2 0 0 0 .none false .park)) := by decide

-- CLCK 16384 lines
theorem test_decode_clck : decodeSlot 0xC30000420000000000004000 = some (.clck (eop 1 2 0 0 16384)) := by decide

-- VCVT .bf16 v1, v2 from .f32, 3 segments
theorem test_decode_vcvt : decodeSlot 0x8E062188A003000000000000 = some (.vcvt (vop .bf16 33 34 10 3)) := by decide

-- VRED .f64 by maximum, A step -64, SEM 5, INC 2
theorem test_decode_vred : decodeSlot 0x930481082FFF003C00001480 = some (.vred { vop .f64 1 2 2 4095 0 0 0x3C0 with sem := 5, inc := 2 }) := by decide

-- MLD fmt 5 interleaved, 2 tiles from the pair g2
theorem test_decode_mld : decodeSlot 0xB00570080000800000002000 = some (.mld (xop 5 48 2 0 2 true false 0 0 0 1)) := by decide

-- MACC fp32, base in t1
theorem test_decode_macc : decodeSlot 0xB70131C80000014000001000 = some (.macc (xop 1 49 50 0 1 false false 1 1)) := by decide

-- CSRW 472h, g5
theorem test_decode_csrw : decodeSlot 0xD10000050000000000000472 = some (.csrw (iop 0 5 0x472)) := by decide

-- ERET
theorem test_decode_eret : decodeSlot 0xD50000000000000000000000 = some (.eret (rop .none 0 0 0)) := by decide


/-! ### Reserved encodings, and terms that each check refuses (R200–R210, R485, R486) -/

theorem test_decode_reserved :
    decodeSlot 1 = none ∧                                -- opcode 00h with another bit set
    decodeSlot 0x018205555000000000000000 = none ∧       -- GRD 1000b
    decodeSlot 0x010985555000000000000000 = none ∧       -- TYPE 13h
    decodeSlot 0x1E0000000000000000000000 = none ∧       -- no such opcode
    decodeSlot 0xA00000000000000000000000 = none ∧
    decodeSlot 0x010205555000000000000001 = none ∧       -- a bit set below MOD
    decodeSlot (2 ^ 96) = none := by decide

theorem test_wf_guard_type_and_register :
    ∀ i ∈ ([.add { rop .i64 1 2 3 with grd := ⟨true, 0⟩ }, .add (rop .none 1 2 3), .add (rop .f32 1 2 3),
      .add (rop .i64 32 2 3), .add (rop .i64 1 48 3), .add (rop .i64 1 2 56), .add (rop .i64 1 2 3 4),
      .add (rop .i64 1 2 3 0 1), .add (rop .i64 1 2 3 0 0 false 1), .add { rop .i64 1 2 3 with var := 1 },
      .mulh (rop .i64 1 2 3 0 0 true), .clz (rop .i64 1 2 3), .clz (rop .i64 1 2 0 0 0 true),
      .bswap (rop .i8 1 2 0), .addi (iop 1 2 3 .i64 2), .movi (iop 1 2 3), .cmp (rop .i64 58 2 3 0 6),
      .cmp (rop .i64 1 2 3), .sel (rop .none 1 2 3 4), .lea (rop .none 1 2 3 0 8), .bfx (rop .i32 1 2 3),
      .bfi (rop .i64 1 2 3 4), .movp (rop .none 58 57 0), .movp (rop .none 58 2 0 0 1),
      .pset (rop .none 57 58 59 0 4), .fadd (rop .i64 1 2 3), .fadd (rop .e4m3 1 2 3),
      .fadd (rop .f32 1 2 3 0 0 false 5), .fmin (rop .f32 1 2 3 0 0 true), .ffma (rop .f32 1 2 3 32),
      .fsqrt (rop .f32 1 2 0 0 0 true), .fcmp (rop .f32 58 2 3 0 8), .fcvt (rop .f32 1 2 0 0),
      .fcvt (rop .f32 1 2 0 19), .fclass (rop .l6 1 2 0), .fsgn (rop .f32 1 2 3 0 3)] : List Instr),
      ¬ i.WellFormed := by decide

theorem test_wf_control_and_memory :
    ∀ i ∈ ([.br (bop 0 5), .br (bop 1 0), .br (bop 0 0 1), .boc (bop 0 0 256), .loopI (bop 0 0),
      .ret (rop .none 1 0 0), .jmp (rop .none 0 32 0), .park (rop .i64 0 2 3), .enter (iop 0 0 65536),
      .ld (mop .none 1 2 3), .ld (mop .i64 1 2 3 0 .acq), .ld (mop .i64 1 2 3 0 .none true),
      .ld (mop .i64 1 2 3 0 .none false .set 8), .ld (mop .i64 1 2 3 0 .none false .branch 5),
      .ldw (mop .i32 1 2 3), .feq (mop .i64 1 2 3), .feq (mop .none 32 2 3), .feset (mop .none 1 2 3),
      .ldb (mop .i64 1 2 3 64), .stb (mop .i64 1 2 3), .wld (mop .i16 32 2 3), .wld (mop .i64 1 2 3),
      .pfx (mop .none 1 2 3), .rel (mop .none 0 0 0 1), .aadd (mop .i8 1 2 3), .afadd (mop .f16 1 2 3),
      .rsta (mop .i32 0 2 3), .rsta (mop .i64 0 2 3 0 .acq)] : List Instr), ¬ i.WellFormed := by decide

theorem test_wf_synchronisation :
    ∀ i ∈ ([.swait (eop 0 0 1 0 1 .rel), .ssig (eop 0 0 1 0 1 .acq), .ssig (eop 0 0 1 0 1 .none true),
      .sset (eop 0 0 1 0 1 .none false .park), .msend (eop 1 2 3 4), .msend (eop 1 2 3 1 0 .none true),
      .mrd (eop 1 0 0 0 3), .bara (eop 0 0 0 0 1), .barw (eop 0 0 0 0 0 .rel), .startI (eop 1 0 0),
      .take (eop 1 2 0), .rpop (eop 1 2 0), .rdec (eop 0 0 1), .capp (eop 1 2 3), .cadv (eop 0 2 3),
      .cseq (eop 0 1 2 0 0 .rel), .clck (eop 1 2 0 0 0), .clck (eop 1 2 0 0 16385),
      .culk (eop 0 2 0 0 0 .none false .yield), .evpop (eop 3 0 0), .evpop (eop 0 0 0)] : List Instr),
      ¬ i.WellFormed := by decide

theorem test_wf_sweeps :
    ∀ i ∈ ([.vadd (vop .f32 32 33 34 0), .vadd (vop .f32 32 33 34 1 0 1), .vadd (vop .f32 48 33 34),
      .vadd (vop .f32 32 33 34 1 0 0 0 0 true), .vadd (vop .f32 32 2 34 1 0 0 1 0 true),
      .vadd (vop .f32 32 33 34 1 5), .vadd (vop .i32 32 33 34 1 1), .vadd (vop .e4m3 32 33 34),
      .vadd (vop .f32 32 33 34 1 0 0 0 0 false false true), .vfma (vop .i32 32 33 34),
      .vmin (vop .f32 32 33 34 1 8), .vabs (vop .f32 32 33 0 1 1), .vabs (vop .f32 32 33 2),
      .vcmp (vop .i32 32 33 34 1 6), .vcmp (vop .f32 32 33 34 1 8), .vsel (vop .none 32 33 34),
      .vshl (vop .f32 32 33 34), .vcvt (vop .f32 32 33 19), .vexp2 (vop .i32 32 33 0),
      .vred (vop .f32 2 33 3), .vred (vop .f32 2 33 0 1 0 1), .vred (vop .f32 2 33 1 1 1),
      .vperm (vop .i4 32 33 34), .vgath (vop .f32 32 33 34), .vscat (vop .f32 32 33 34),
      .vqnt (vop .e4m3 2 3 9), .vqnt { vop .e4m3 2 3 10 with var := true }, .vdq (vop .f32 2 3 10),
      .vld (vop .f32 32 33 0), .vst (vop .f32 32 33 0), .vmrg (vop .f32 32 2 3), .vbsr (vop .i32 32 3 34)] : List Instr),
      ¬ i.WellFormed := by decide

theorem test_wf_matrix_and_system :
    ∀ i ∈ ([.mld (xop 5 48 2 0 9 true), .mld (xop 0 48 2 0 1 true), .mld (xop 7 48 2 0 1 true),
      .mld (xop 5 48 2 0 1 true false 0 0 0 1), .mst (xop 5 0 2 4 1 true true), .mst (xop 5 0 48 3 1 false true),
      .mma (xop 4 20 8 10 0 true true 2), .mma (xop 4 20 8 10 4 true true 1), .mma (xop 13 20 8 10 4 true true 12),
      .mma (xop 4 20 55 10 2 false true 2), .mzero (xop 0 20 0 0 1 false false 3), .mzero (xop 0 0 0 0 1 false false 1),
      .mtrn (xop 0 48 2 0 1 true), .mcvt (xop 7 20 0 0 1 false false 1 0 48), .mscl (xop 0 20 0 2 1 false false 12),
      .macc (xop 1 20 48 0 1 false false 2), .mstat (xop 0 0 0 0 0), .csrr (iop 1 0 7), .csrr (iop 1 2 0),
      .csrw (iop 1 2 0), .csrw (iop 0 2 4096), .trap (iop 0 0 65536), .markI (iop 0 0 262144),
      .invl { rop .none 0 2 3 with var := 2 }, .perm (rop .none 0 2 3 0 0 true), .issueSelection 0] : List Instr),
      ¬ i.WellFormed := by decide

/-! ### A small machine: core 0 is rank 0 and core 1 rank 1 of a team of 2 in domain 1 -/

def own : Word := 0x9000000000000000
def rank1 : Word := 0x9000000000100000
def dev : Word := 0x8000000000100000
def fab : Word := 0xB001000000000000
def code : Word := 0x8000000000001000

/-- g1 own local store, g2 rank 1, g3 device memory, g4 another device, g5 = 1, g6 = 8, g7 = 2^63,
g8 a NaN of .f64, g9 host memory, g10 no IP; p1 holds. -/
def ctx : Ctx :=
  { live := true, ip := code, p := 2, wsl := 4096, depth := 1, wbase := 1
    g := [(1, own), (2, rank1), (3, dev), (4, fab), (5, 1), (6, 8), (7, 0x8000000000000000),
          (8, 0x7FF8000000000001), (9, 0x100000), (10, code + 5)]
    win := [(8, code)] }

/-- Every right on the whole address space for domain 1. -/
def perms : KMap Perm := [(0, ⟨0x3F, 0xFFFFFFFFFFE00001⟩)]

def core : Core :=
  { ctxs := [(0, ctx)], team := some 1, dom := 1, tvec := 0x8000000000002000, perms := perms
    icache := [(0x200000000000040, ⟨[0, 0, 0, 0, 0], 0x3E0, 0⟩)] }

def team : Team := { grid := 1, number := 0, die := 0, size := 2, map := [0, 1], done := 2 }

def grid : Grid :=
  { queue := 1, pkt := 0, prio := 4, dom := 1, entry := code, arg := 0, ttab := 0, types := [], save := 0
    nsave := 0, binds := [], teams := 1, size := 2, dies := 1 }

def world (c : Core := core) : State :=
  { State.reset with cores := [(0, c), (1, { team := some 1, dom := 1, rank := 1 })], teams := [(1, team)]
                     grids := [(1, grid)] }

/-- `core` with context 0 as given. -/
def withCtx (x : Ctx) : Core := { core with ctxs := [(0, x)] }

/-- The two-slot group at the IP is under execution. -/
def inPair (s : State) : State := { s with pair := some ⟨s.me, s.me.ip, []⟩ }

/-! ### Witnesses: scalar instructions -/

theorem witness_guards :
    world.guard always = true ∧ world.guard unlessP1 = false ∧ world.pair = none ∧
    (inPair world).pair = some ⟨ctx, code, []⟩ ∧ (inPair world).guard always = true := by decide

theorem witness_IntegerResults :
    (∀ o ∈ [rop .i8 0 7 7, rop .n64 31 6 5], ∀ i ∈ ([.add o, .sub o, .mul o, .mulh o, .divI o, .remI o, .andI o,
      .orI o, .xorI o, .andn o, .shl o, .shr o, .sra o, .rot o, .minI o, .maxI o] : List Instr), i.WellFormed) ∧
    (∀ o ∈ [rop .i8 0 7 7 0 0 true, rop .n64 31 6 5 0 0 true],
      ∀ i ∈ ([.add o, .sub o, .mul o] : List Instr), i.WellFormed) ∧
    (Instr.addi (iop 1 1 0xFFFFFFFFFFFFFFFF .i8 1)).WellFormed ∧
    (∀ o ∈ [rop .i16 0 7 0, rop .n64 31 6 0],
      ∀ i ∈ ([.clz o, .ctz o, .popc o, .bswap o] : List Instr), i.WellFormed) ∧
    (world.G 6).toNat % 2 ^ 64 ≠ 0 ∧ (world.G 7).toNat % 2 ^ 16 = 0 := by decide

theorem witness_SelectAndField :
    (∀ c ∈ [0, 1, 2, 3, 4, 5], (Instr.cmp (rop .i64 58 7 5 0 c)).WellFormed) ∧
    (Instr.lea (rop .none 1 5 5 0 7)).WellFormed ∧ (Instr.bfx (rop .n64 1 7 6)).WellFormed ∧
    (∀ c ∈ [0, 1, 2, 3], (Instr.pset (rop .none 58 57 63 0 c)).WellFormed) := by decide

theorem witness_SelectAndField_movp :
    (∀ i ∈ ([.movp (rop .none 1 57 0), .movp (rop .none 57 1 0), .movp (rop .none 1 56 0 0 1),
      .movp (rop .none 56 1 0 0 1)] : List Instr), i.WellFormed) ∧
    isG 1 = true ∧ isP 57 = true ∧ isP 56 = true := by decide

theorem witness_FloatResults :
    world.guard always = true ∧ (Instr.fcvt (rop .bf16 1 5 0 18 0 true 4)).WellFormed ∧ Ty.f64.isF = true ∧
    (world.fval .f64 8).isNan = true ∧ (world.fval .f64 5).isNan = false := by decide

theorem witness_ExactArithmetic :
    (world.fval .f64 5).isFin = true ∧ (world.fval .f64 7).isFin = true ∧
    fmtOf .e4m3 = some (fmtD .e4m3) ∧ 0x7E < 2 ^ (fmtD .e4m3).width ∧ ((fmtD .e4m3).val 0x7E).isFin = true := by
  decide

theorem witness_FloatSelect :
    world.guard always = true ∧ (Instr.fmin (rop .f64 1 5 8)).WellFormed ∧ (Instr.fmax (rop .f64 1 8 5)).WellFormed ∧
    (world.fval .f64 5).isNan = false ∧ (world.fval .f64 8).isNan = true ∧
    (Instr.fcmp (rop .f64 58 5 8 0 7)).WellFormed ∧ (Instr.fclass (rop .e2m1 1 5 0)).WellFormed ∧
    (Instr.fsgn (rop .f64 1 8 5 0 2)).WellFormed := by decide

/-! ### Witnesses: guards, pairs, branches, calls -/

theorem witness_FalseGuardDoesNothing :
    (Instr.add (rop .i64 1 2 3 0 0 false 0 unlessP1)).guardOf = some unlessP1 ∧ world.guard unlessP1 = false ∧
    (∃ i, decodeSlot 0x019205555000000000000000 = some i ∧ i.guardOf = some unlessP1) ∧
    fld 0x018205555000000000000000 84 4 = 8 := by
  refine ⟨by decide, by decide, ⟨_, rfl, by decide⟩, by decide⟩

-- add.n64 g1, g5, g6 and add.n64 g5, g1, g1
theorem witness_PairReadsOldRegisters :
    decodeSlot 0x010400455800000000000000 = some (.add (rop .n64 1 5 22)) ∧
    decodeSlot 0x010401410400000000000000 = some (.add (rop .n64 5 1 1)) ∧ world.guard always = true ∧
    world.pair = none := by decide

theorem witness_IllegalSlotTraps :
    decodeSlot 1 = none ∧ world.pair = none ∧ world.me.mode = false ∧ world.myCore.tvec ≠ 0 ∧
    (world.me.wbase + 3 - world.me.wlow ≤ 5) ∧
    decodeSlot 0x019205555000000000000000 = some (.add (rop .i64 21 21 20 0 0 false 0 unlessP1)) ∧
    world.guard unlessP1 = false := by decide

theorem witness_Branches :
    world.guard always = true ∧ ({ world with conf := ⟨16, 64, false⟩ } : State).conf.monitor = false ∧
    world.myCore.land world.me (targetOf world.ip 4) = .ok ∧ world.me.ip.toNat < (targetOf world.ip 4).toNat ∧
    (bop 0 0 1).imm.getLsbD (world.view.oc.toNat % 8) = true ∧
    (bop 0 0 254).imm.getLsbD (world.view.oc.toNat % 8) = false ∧ world.G 5 = 1 ∧ world.G 6 ≠ 1 ∧
    world.myCore.land world.me (world.G 10) = .bad := by decide

/-- Slot 0 of the line of `code` is a landing slot, and no other; the first word of local store is empty. -/
def unlanded : State :=
  { world { core with icache := [(0x200000000000040, ⟨[0, 0, 0, 0, 0], 0x20, 0⟩)] } with empties := [lsAddr 0 0 / 8] }

theorem witness_Branches_bad :
    unlanded.pair = none ∧ unlanded.myCore.land unlanded.me (targetOf unlanded.ip 1) = .bad ∧
    unlanded.myCore.land unlanded.me (unlanded.G 10) = .bad ∧ unlanded.me.callOverflow = false ∧ unlanded.me.depth ≠ 0 ∧
    (let s := world (withCtx { ctx with win := [(8, code + 5)] })
     s.myCore.land s.me (s.G 16) = .bad) ∧
    (let o := mop .i64 1 1 0 0 .none false .branch 1
     unlanded.lsLocked 0 8 = false ∧ unlanded.relDue o = false ∧ unlanded.me.budPark = false ∧ unlanded.me.armed = false ∧
     unlanded.isFull (lsAddr 0 0) = false ∧ o.nra = .branch ∧
     unlanded.placeOf (unlanded.ea o) { align := 8, own := true, other := true, device := true, fabric := true
                                        write := false, need := rF } = .ok (.own 0) ∧
     unlanded.myCore.land unlanded.me (targetOf unlanded.me.ip o.tgt) = .bad) := by decide

theorem witness_CallMovesTheWindow :
    world.me.callOverflow = false ∧ world.myCore.land world.me (targetOf world.ip 4) = .ok ∧
    world.myCore.land world.me (world.G 16) = .ok ∧
    ({ ctx with wbase := 4, wsp := 4096 } : Ctx).callOverflow = true := by decide

theorem witness_ReturnMovesTheWindowBack :
    world.me.depth ≠ 0 ∧ 0 < world.me.wbase ∧ world.myCore.land world.me (world.G 16) = .ok ∧
    (world (withCtx { ctx with depth := 0 })).me.depth = 0 := by decide

theorem witness_TurnsAndClauses :
    world.guard always = true ∧ world.me.stop = none ∧ world.myCore.migrate = none ∧
    8 ≤ (world (withCtx { ctx with cls := [1, 2, 3, 4, 5, 6, 7, 8] })).me.cls.length := by decide

/-- Context 10, the last helper, executes; its reply is still due in the second state. -/
def helper (x : Ctx) : State := { world { core with ctxs := [(10, x)] } with cur := (0, 10) }

def due : Slot := { id := 7, ip := code, addr := dev, gen := 0, remote := false }

theorem witness_EndOfAHelper :
    (helper ctx).guard always = true ∧ (helper ctx).cur.2 = 10 ∧ (helper ctx).me.held = [] ∧
    (helper ctx).me.replyDue = false ∧ (helper { ctx with slot := some due }).me.replyDue = true ∧
    world.cur.2 = 0 ∧ ({ world with cur := (0, 11) } : State).cur.2 = 11 := by decide

/-! ### Witnesses: own local store -/

theorem witness_LocalLoads :
    (∀ i ∈ ([.ldl (mop .e2m1 1 5 0 0xFFFFF .none true), .ld (mop .i64 1 1 0), .stl (mop .i16 0 6 6),
      .st (mop .l6 0 1 0 1)] : List Instr), i.WellFormed) ∧
    (world.ea (mop .e2m1 1 5 0 0xFFFFE)).toNat = 2 ^ 20 - 1 ∧ (2 ^ 20 - 1) % elemBytes .e2m1 = 0 ∧
    world.placeOf (world.ea (mop .i64 1 1 0 0xFFFF8)) (elemUse (mop .i64 1 1 0) rR false) = .ok (.own 0xFFFF8) ∧
    world.lsLocked 0xFFFF8 8 = false ∧ world.isPoison (lsAddr 0 0xFFFF8) = false ∧
    ({ world with poison := [lsAddr 0 0 / 8] } : State).isPoison (lsAddr 0 7) = true ∧
    (world { core with locks := [(0, ⟨0, 1, true, 0, 64, 0⟩)] }).lsLocked 63 1 = true ∧
    (world.ea (mop .i16 1 5 0)).toNat % 2 ≠ 0 ∧ 2 ^ 20 ≤ (world.ea (mop .i8 1 1 0)).toNat ∧
    world.placeOf (world.ea (mop .i64 1 1 5)) (elemUse (mop .i64 1 1 0) rR false) = .error 7 ∧
    world.placeOf (0x9000000000200000 : Word) (elemUse (mop .i64 1 1 0) rW true) = .error 6 := by decide

theorem witness_LocalLoads_window :
    windowOf world.myCore.rank 0xA000000000000800 = .weight 0 2048 ∧ ∀ d n, windowOf world.myCore.rank own ≠ .weight d n :=
  ⟨by decide, fun _ _ => by rw [show windowOf world.myCore.rank own = .rank 0 0 by decide]; nofun⟩

theorem witness_LocalStoresAndBitFields_stores :
    world.me.wait = none ∧ (Instr.stl (mop .i8 0 5 0 0xFFFFE)).WellFormed ∧
    (world.ea (mop .i8 0 5 0 0xFFFFE)).toNat = 2 ^ 20 - 1 ∧ (Instr.st (mop .n4 0 1 0 0 .none true)).WellFormed ∧
    world.placeOf (world.ea (mop .n4 0 1 0)) (elemUse (mop .n4 0 1 0) rW true) = .ok (.own 0) ∧
    world.lsLocked 0 1 = false := by decide

theorem witness_LocalStoresAndBitFields_fields :
    (∀ i ∈ ([.ldb (mop .i64 1 5 0 63), .ldb (mop .n64 1 5 0 0), .stb (mop .none 1 5 0 63)] : List Instr),
      i.WellFormed) ∧
    2 ^ 23 < (world.G 7 + world.G 0).toNat + 1 ∧ (world.G 5 + world.G 6).toNat + 64 ≤ 2 ^ 23 ∧
    world.lsLocked 1 9 = false ∧ world.lsPoison 0 1 9 = none ∧
    ({ world with poison := [lsAddr 0 8 / 8] } : State).lsPoison 0 1 9 = some 8 := by decide

theorem witness_LocalFullEmptyForms :
    world.lsLocked 0 8 = false ∧ (∀ r ∈ ([.none, .acq, .rel, .ar] : List Sys2Proof.Ord),
      world.relDue (mop .i64 1 1 0 0 r) = false) ∧
    world.placeOf (world.ea (mop .i64 1 1 0)) (feUse false) = .ok (.own 0) ∧
    world.placeOf (world.ea (mop .i64 1 1 0)) (feUse true) = .ok (.own 0) ∧
    world.isFull (lsAddr 0 0) = true ∧ world.isPoison (lsAddr 0 0) = false ∧
    ({ world with poison := [lsAddr 0 0 / 8] } : State).isPoison (lsAddr 0 0) = true ∧
    ({ world with empties := [lsAddr 0 0 / 8] } : State).isFull (lsAddr 0 0) = false := by decide

theorem witness_LocalAtomics :
    (∀ o ∈ [mop .i32 1 1 5, mop .n64 1 1 8], ∀ i ∈ ([.aadd o, .aand o, .aor o, .axor o, .amin o, .amax o, .aswp o,
      .acas o] : List Instr), i.WellFormed) ∧ (Instr.afadd (mop .f64 1 1 8)).WellFormed ∧
    world.placeOf (world.aea (mop .i32 1 1 5)) (elemUse (mop .i32 1 1 5) rA true) = .ok (.own 0) ∧
    world.lsLocked 0 4 = false ∧ world.relDue (mop .i32 1 1 5) = false ∧ world.isPoison (lsAddr 0 0) = false := by
  decide

/-- The first word of local store is empty. -/
def hollow (c : Core := core) : State := { world c with empties := [lsAddr 0 0 / 8] }

theorem witness_EmptyWordActions :
    hollow.pair = none ∧ hollow.lsLocked 0 8 = false ∧ hollow.relDue (mop .i64 1 1 0) = false ∧
    hollow.me.budPark = false ∧ hollow.me.armed = false ∧ hollow.isFull (lsAddr 0 0) = false ∧
    hollow.placeOf (hollow.ea (mop .i64 1 1 0)) (feUse false) = .ok (.own 0) ∧
    hollow.myCore.land hollow.me (targetOf hollow.me.ip 0) = .ok := by decide

/-- Contexts 1 and 2 of core 0 wait for the first word, or for semaphore 9. -/
def twoWait (on : WaitOn) : Core :=
  { core with ctxs := [(0, ctx), (1, { live := true, wait := some ⟨on, 0, 0⟩ }),
                       (2, { live := true, wait := some ⟨on, 0, 0⟩ })] }

def wordWatch (k : Nat) (changing : Bool) : Watch :=
  { word := lsAddr 0 0 / 8, want := some true, changing := changing, pid := 0, ctx := k, gen := 0 }

def waiting (changing : Bool) : State := hollow { twoWait .word with watches := [wordWatch 1 changing, wordWatch 2 true] }

theorem witness_WakesInOrder_words :
    (waiting true).guard always = true ∧ (waiting true).me.wait = none ∧ (waiting true).lsLocked 0 8 = false ∧
    (waiting true).relDue (mop .i64 1 1 0) = false ∧ (waiting true).isFull (lsAddr 0 0) = false ∧
    (waiting true).placeOf ((waiting true).ea (mop .i64 1 1 0)) (feUse true) = .ok (.own 0) ∧
    (waiting true).myCore.watches = [wordWatch 1 true, wordWatch 2 true] ∧
    (waiting true).watchLive (wordWatch 1 true) = true ∧ (waiting true).watchLive (wordWatch 2 true) = true ∧
    (waiting false).watchLive (wordWatch 1 false) = true ∧
    ((waiting true).ctx 0 1).wait = some ⟨.word, 0, 0⟩ ∧ ((waiting true).ctx 0 2).wait = some ⟨.word, 0, 0⟩ := by
  decide

def semWaiting : State :=
  world { twoWait (.sem 9) with semWait := [(9, [⟨some 1, 0, 3, true⟩, ⟨some 2, 0, 65535, false⟩])] }

theorem witness_WakesInOrder_semaphores :
    semWaiting.guard always = true ∧ ((semWaiting.G 6).toNat + (1 : BitVec 8).toNat) % 256 = 9 ∧
    semWaiting.myCore.semWait.get 9 [] = [⟨some 1, 0, 3, true⟩, ⟨some 2, 0, 65535, false⟩] ∧
    (semWaiting.ctx 0 1).wait = some ⟨.sem 9, 0, 0⟩ ∧ (semWaiting.ctx 0 2).wait = some ⟨.sem 9, 0, 0⟩ ∧
    min (semWaiting.myCore.sems.get 9 0 + 0xFFFF) 65535 = 65535 := by decide

/-! ### Witnesses: the reply slot, caches, the store buffer -/

def reqOf (b : Spec) : MOp := mop .i64 20 b 0

theorem witness_ReplySlot_send :
    (∀ f ∈ slotForms (reqOf 3) world .home, world.placeOf f.a f.use = .ok .home) ∧
    (∀ f ∈ slotForms (reqOf 4) world .fabric, world.placeOf f.a f.use = .ok .fabric) ∧
    (∀ f ∈ slotForms (reqOf 2) world (.other 1 0), world.placeOf f.a f.use = .ok (.other 1 0)) ∧
    world.me.slot = none ∧ world.relDue (reqOf 3) = false ∧
    world.vaLocked dev 8 = false ∧ world.vaLocked fab 8 = false ∧ world.vaLocked rank1 8 = false ∧
    world.myCore.absents = [] ∧
    world.me.budPark = false ∧ world.me.armed = false ∧
    (world { core with sbuf := [⟨0, dev, 0, 255, 0, code, 0, 0, 1, 1, 0, none, 0, 0⟩] }).relDue
      (mop .i64 20 3 0 0 .rel) = true := by decide

theorem witness_ReplySlot_wait :
    let s := fun (sl : Slot) => world (withCtx { ctx with slot := some sl })
    (s due).me.slot = some due ∧ due.ip = (s due).ip ∧ due.ans = none ∧
    (s { due with ip := code + 1 }).relDue (reqOf 3) = false ∧ (code + 1 ≠ (s due).ip) ∧
    due.addr = (s due).ea (reqOf 3) ∧ (s { due with ans := some (.ok 5) }).me.slot = some { due with ans := some (.ok 5) } ∧
    (s { due with ans := some (.trap 6 dev) }).me.slot = some { due with ans := some (.trap 6 dev) } ∧
    (∀ f ∈ slotForms (reqOf 3) (s due) .home, (s due).placeOf f.a f.use = .ok .home) ∧
    (let sl : Slot := { due with addr := dev + 8, ans := some (.ok 5) }
     sl.ip = (s sl).ip ∧ sl.ans.isSome = true ∧ sl.addr ≠ (s sl).ea (reqOf 3) ∧ (s sl).relDue (reqOf 3) = false ∧
     (s sl).vaLocked dev 8 = false ∧ (s sl).myCore.absentAt 0 (lineKey 1 dev) = none) := by decide

def copied : KMap CWord := [(wordKey 1 dev, ⟨7, false, false⟩)]

theorem witness_CachedLoads :
    world.placeOf (world.ea (reqOf 3)) (elemUse (reqOf 3) rR false) = .ok .home ∧
    world.placeOf (world.ea (reqOf 9)) (elemUse (reqOf 9) rR false) = .ok .home ∧
    world.myCore.noteAt 0 (lineKey 1 dev) = none ∧ world.vaLocked dev 8 = false ∧ world.myCore.buffered 0 dev = [] ∧
    KMap.find? (world { core with dcache := copied }).myCore.dcache (wordKey 1 dev) = some ⟨7, false, false⟩ ∧
    KMap.find? (world { core with kcache := copied }).myCore.kcache (wordKey 1 dev) = some ⟨7, false, false⟩ ∧
    (world { core with holds := [⟨0, lineKey 1 dev, [7], 1, 0, 0, none⟩] }).myCore.held 0 dev = some ⟨7, false, false⟩ ∧
    (world { core with sbuf := [⟨0, dev, 9, 255, 0, code, 0, 0, 1, 1, 0, none, 0, 0⟩] }).myCore.buffered 0 dev =
      [⟨0, dev, 9, 255, 0, code, 0, 0, 1, 1, 0, none, 0, 0⟩] ∧
    world.myCore.copyFor 0 dev true = none ∧ world.myCore.absentAt 0 (lineKey 1 dev) = none ∧
    world.myCore.lineReqs = [] ∧ 0 < world.conf.lineDepth := by decide

theorem witness_CachedLoads_whole_word :
    (⟨0, dev, 9, 255, 0, code, 0, 0, 1, 1, 0, none, 0, 0⟩ : SEntry).bits = BitVec.allOnes 64 := by decide

def full : List SEntry := List.replicate 64 ⟨0, dev, 9, 255, 0, code, 0, 0, 1, 1, 0, none, 0, 0⟩

theorem witness_BufferedStores :
    (∀ i ∈ ([.st (mop .e2m1 20 3 0 0 .none true), .ste (reqOf 3), .feset (mop .none 0 4 0)] : List Instr),
      i.WellFormed) ∧
    world.placeOf (world.ea (reqOf 3)) (elemUse (reqOf 3) rW true) = .ok .home ∧
    world.placeOf (world.ea (reqOf 4)) (feUse true) = .ok .fabric ∧ world.relDue (reqOf 3) = false ∧
    world.vaLocked (wordAddr dev) 8 = false ∧ world.myCore.sbuf.length < 64 ∧
    64 ≤ (world { core with sbuf := full }).myCore.sbuf.length := by decide

/-- Context 0 holds two vector registers and one tile; g3 names the weight store of its die. -/
def holder : Ctx :=
  { ctx with vbase := 4, vcnt := 2, tbase := 1, tcnt := 1, g := ctx.g.put 3 0xA000000000000800 }

def mark (n : Nat) (v : Bool) : Work :=
  { id := n, instr := .nop, ctx := 0, gen := 0, ip := 0, cls := 0, d := 0, a := 0, b := 0, e := 0, a2 := 0, b2 := 0
    vbase := 0, tbase := 0, dom := 1, vregs := if v then [5] else [], tregs := if v then [] else [1] }

theorem witness_WeightLoadsAndPrefetch_loads :
    let s := world (withCtx holder)
    s.me.pool 33 = some 5 ∧ s.me.pool 48 = some 1 ∧
    s.placeOf (s.ea (mop .f32 48 3 0)) { align := 2048, weight := true, need := rR } = .ok (.weight 2048) ∧
    s.placeOf (s.ea (mop .f32 33 3 0)) { align := 64, weight := true, need := rR } = .ok (.weight 2048) ∧
    (mark 1 true).vregs.contains 5 = true ∧ (mark 1 false).tregs.contains 1 = true ∧
    s.isPoison (wsAddr 0 2048) = false := by decide

theorem witness_WeightLoadsAndPrefetch_refresh :
    world.refreshing 0 = true ∧ ({ world with ticks := 840 * 64 } : State).refreshing 0 = false := by decide

theorem witness_WeightLoadsAndPrefetch_lines :
    (∀ q ∈ ([(1, .own 0), (2, .other 1 0), (3, .home), (4, .fabric), (9, .home)] : List (Spec × Place)),
      world.placeOf (world.ea (mop .none 0 q.1 0))
        { align := 8, own := true, other := true, host := true, device := true, weight := true, anyDie := true
          fabric := true, need := rR } = .ok q.2) ∧
    world.myCore.dcache = [] ∧ world.vaLocked (wordAddr dev) 8 = false ∧
    ({ world with conf := ⟨16, 0, true⟩ } : State).conf.lineDepth = 0 ∧
    (∀ i < 8, (KMap.find? (world { core with dcache := (List.range 8).map fun j =>
      (lineKey 1 dev * 8 + j, ⟨0, false, false⟩) }).myCore.dcache (lineKey 1 dev * 8 + i)).isSome = true) := by decide

def sent : Msg :=
  { id := 1, kind := .arrival 0, team := 1, pid := 0, ctx := 0, gen := 0, srank := 0, rank := 0, ip := code, cls := 0 }

theorem witness_AcquireAndRelease :
    world.myCore.sbuf = [] ∧ world.me.slot = none ∧ world.posted 0 = [] ∧
    (∃ e ∈ (world { core with sbuf := full }).myCore.sbuf, e.ctx = 0 ∧ e.gen = 0) ∧
    (∃ m ∈ ({ world with msgs := [sent] } : State).posted 0, m.ctx = 0 ∧ m.gen = 0) ∧
    (∃ e ∈ (world { core with dcache := [(5, ⟨1, true, false⟩)] }).myCore.dcache, e.2.owned = true) := by
  decide

theorem witness_ParkForms :
    (∀ q ∈ ([(1, .own 0), (2, .other 1 0), (3, .home), (9, .home)] : List (Spec × Place)),
      world.placeOf (world.G q.1) { align := 8, own := true, other := true, host := true, device := true
                                    need := rR } = .ok q.2) ∧
    world.lsLocked 0 8 = false ∧ world.isPoison (lsAddr 0 0) = false ∧
    world.rd (lsAddr 0 0) 8 = (world.G 0).toNat ∧ world.rd (lsAddr 0 0) 8 ≠ (world.G 5).toNat ∧
    world.vaLocked dev 8 = false := by decide

/-! ### Witnesses: semaphores, messages, barriers, tasks -/

theorem witness_SemaphoreCounts :
    world.myCore.semWait = [] ∧ (Instr.swait (eop 0 0 6 0xFF 0 .acq true .park)).WellFormed ∧
    (Instr.ssig (eop 0 5 6 1 0xFFFF .rel true)).WellFormed ∧ (Instr.sset (eop 0 0 6 1 0xFFFF)).WellFormed ∧
    (0 : BitVec 16).toNat ≤ world.myCore.sems.get 7 0 ∧ world.myCore.sems.get 7 0 < (1 : BitVec 16).toNat ∧
    (world.G 0).toNat = world.myCore.rank ∧ world.myCore.rank < world.teamSize world.cur.1 ∧
    world.relMet 0 0 = true := by decide

theorem witness_MessagesArePosted :
    (world.G 5).toNat = 1 ∧ 1 < world.teamSize 0 ∧ 1 ≠ world.myCore.rank ∧ world.relMet 0 0 = true ∧ world.cur.2 ≤ 10 ∧
    (world.G 0).toNat % 32 = 0 ∧ (world.myCore.barq + 65536 - world.myCore.ph) % 65536 ≠ 2 ∧
    (world.posted 0).length < world.conf.outDepth ∧
    ({ world with msgs := [sent], conf := ⟨1, 64, true⟩ } : State).conf.outDepth ≤
      (({ world with msgs := [sent] } : State).posted 0).length ∧
    (∀ i ∈ ([.ssig (eop 0 5 6 0 1 .none true), .msend (eop 1 5 6 3 0xFFFF), .rdec (eop 0 5 0),
      .bara (eop 0 0 0 0 0 .rel)] : List Instr), i.WellFormed) ∧
    world.teamSize 0 ≤ (world.G 6).toNat ∧ 256 ≤ (world.G 7).toNat := by decide

def mail (rep : Bool) : Msg := { sent with kind := .software rep 3 65535 11 12 }

theorem witness_HandlersReadMessages :
    world.me.msg = none ∧ (world (withCtx { ctx with msg := some (mail true) })).me.msg = some (mail true) ∧
    (Instr.mrd (eop 1 0 0 0 2)).WellFormed ∧ world.cur.2 < 11 ∧
    (∀ k ∈ [11, 15], 11 ≤ ({ helper ctx with cur := (0, k) } : State).cur.2 ∧
      ({ helper ctx with cur := (0, k) } : State).me.replyDue = false ∧
      ({ helper ctx with cur := (0, k) } : State).me.held = []) := by decide

theorem witness_BarrierAndDone :
    (helper ctx).cur.2 ≤ 10 ∧ 10 < ({ world with cur := (0, 11) } : State).cur.2 ∧
    (∃ c : Core, c.barq = 1 ∧ c.ph = 65535 ∧ (c.barq + 65536 - c.ph) % 65536 = 2) ∧
    world.myCore.barq % 65536 = world.myCore.ph % 65536 ∧ (Instr.barw (eop 0 0 0 0 0 .acq)).WellFormed ∧
    (world { core with barq := 1 }).myCore.barq % 65536 ≠ (world { core with barq := 1 }).myCore.ph % 65536 ∧
    (∀ e ∈ world.myCore.ctxs, e.2.held = []) ∧ ∀ e ∈ world.myCore.posts, e.trap = none := by
  refine ⟨by decide, by decide, ⟨{ barq := 1, ph := 65535 }, by decide⟩, by decide, by decide, by decide, by decide, by decide⟩

-- a record of zeros at offset 0: task type 0, which needs one helper and nothing of the pools
theorem witness_HelpersStart :
    world.cur.2 = 0 ∧ (helper ctx).cur.2 ≠ 0 ∧ (world.G 6).toNat % 32 ≠ 0 ∧ (world.G 0).toNat % 32 = 0 ∧
    world.lsLocked 0 32 = false ∧ world.rd (lsAddr 0 16) 8 < 2 ^ 24 ∧ unusedType 0 (world.typeOf 0) = false ∧
    (needFor 0 (world.typeOf 0).1).slots ≤ world.myCore.freeSlots.length ∧
    (world.myCore.fit (needFor 0 (world.typeOf 0).1)).isSome = true ∧ world.myCore.cnum < 256 := by decide

/-- Core 0 has executed DONE, and `n` cores of its team have not come to their ends. -/
def atEnd (n : Nat) : State :=
  { world { core with ctxs := [], finishing := some 10 } with teams := [(1, { team with done := n })] }

theorem witness_BarrierAndDone_end :
    (∀ n ∈ [2, 1], let s := atEnd n
      isCore 0 = true ∧ (s.core 0).gated = false ∧ (s.core 0).stopped = false ∧ (s.core 0).migrate = none ∧
      (s.core 0).finishing = some 10 ∧ (s.core 0).sweeps = [] ∧ (s.core 0).mats = [] ∧ (s.core 0).sbuf = [] ∧ s.chains = [] ∧
      s.msgs = [] ∧ s.homeReqs = [] ∧ s.replies = [] ∧ s.issue = false ∧ (s.core 0).team = some 1 ∧
      s.teams.find? 1 = some { team with done := n } ∧ s.grids.find? team.grid = some grid) ∧
    ∀ n j, ((atEnd n).ctx 0 j).slot = none :=
  ⟨by decide, fun _ _ => rfl⟩

/-- Core 0 with every helper slot, or all of local store, given away. -/
def given (slots : List Nat) (ls : List (Nat × Nat)) : State :=
  world { core with allots := [⟨0, slots, false, ls, [], [], []⟩] }

theorem witness_HelpersStart_full :
    (given [1, 2, 3, 4, 5, 6, 7, 8, 9, 10] []).myCore.freeSlots.length < (needFor 0 0).slots ∧
    (given [] [(0, 2 ^ 20)]).myCore.fit { needFor 0 0 with ls := 1024 } = none := by decide

theorem witness_HelperRingAndDispenser :
    (∀ k, 1 ≤ k → k ≤ 10 → bitAt (world.G 5).toNat (k - 1) = true → (world.ctx 0 k).live = false) ∧
    (∃ k, 1 ≤ k ∧ k ≤ 10 ∧ bitAt (semWaiting.G 5).toNat (k - 1) = true ∧ (semWaiting.ctx 0 k).live = true ∧
      (semWaiting.ctx 0 k).cnum.toNat = fld (semWaiting.G 5).toNat 16 8) ∧
    world.myCore.rrhead = world.myCore.rrtail ∧ (world { core with rrtail := 1 }).myCore.rrhead ≠ 1 ∧
    world.me.wait = none ∧ (world.G 0).toNat = world.myCore.rank ∧ (world.G 0).toNat % 32 = 0 ∧
    world.lsLocked 0 32 = false ∧ world.lsLocked 0 8 = false ∧ world.isPoison (lsAddr 0 0) = false ∧
    world.myCore.watches = [] ∧ world.rd (lsAddr 0 0) 8 ≠ 1 ∧
    ({ world with mem := [⟨lsAddr 0 0, 1⟩] } : State).rd (lsAddr 0 0) 8 = 1 ∧
    ringCount core.rrhead core.rrtail 256 ≠ 256 ∧ core.rrbase + 1024 ≤ 2 ^ 20 := by
  refine ⟨?_, ⟨1, by decide⟩, by decide, by decide, by decide, by decide, by decide, by decide, by decide, by decide,
    by decide, by decide, by decide, by decide, by decide⟩
  intro k h1 h2 _
  interval_cases k <;> decide

def rec0 (g : Nat) : DRec := ⟨g, [1, 2, 3, 4], 1, 64, 0⟩

theorem witness_HelperRingAndDispenser_records :
    world.teamOf 0 = some team ∧ (world.dispenser 0).recs.length < 8192 ∧
    8192 ≤ (({ world with dispensers := [(0, { recs := List.replicate 8192 (rec0 1) })] } : State).dispenser 0).recs.length ∧
    (∀ r ∈ (({ world with dispensers := [(0, { recs := [rec0 2] })] } : State).dispenser 0).recs, r.grid ≠ team.grid) ∧
    (({ world with dispensers := [(0, { recs := [rec0 1, rec0 2] })] } : State).dispenser 0).recs = rec0 1 :: [rec0 2] ∧
    (rec0 1).grid = team.grid ∧ world.withheld (zoneOf 0) = none ∧ (world.dispenser 0).grant = [] ∧
    (let s : State := { world with dispensers := [(0, { recs := [rec0 1] })], zones := [(0, { evac := true })] }
     (s.dispenser 0).recs = rec0 1 :: [] ∧ s.withheld (zoneOf 0) = some 3 ∧ (s.dispenser 0).grant = [] ∧ s.cur.2 ≤ 10) ∧
    (∃ g ∈ (world { core with holds := [⟨0, 7, [], 0, 0, 0, some 6⟩] }).myCore.holds, g.ctx = 0 ∧ g.fault.isSome = true) := by
  refine ⟨by decide, by decide, by decide +kernel, by decide, by decide, by decide, by decide +kernel, by decide,
    by decide +kernel, by decide⟩

/-! ### Witnesses: sweeps and matrix work -/

/-- Context 0 holds 16 vector registers and 8 tiles. -/
def pools : Ctx := { ctx with vcnt := 16, tcnt := 8 }

def vworld (c : Core := withCtx pools) : State := world c

/-- The plan of the sweep of number `i` in the list of forms. -/
def plan (o : VOp) (s : State) (i : Nat) : VPlan := (((sweepForms o s)[i]?).map (·.plan)).getD ⟨[], [], none, false, 0⟩

-- every sweep of the list with boundary operands: v0, v15, step 0, one segment; and memory operands
theorem witness_SweepsAreAccepted_forms :
    (∀ i ∈ (sweepForms (vop .f32 32 47 33) vworld).map (·.i), i ∈ (sweepForms (vop .f32 32 47 33) vworld).map (·.i)) ∧
    (sweepForms (vop .f32 32 47 33) vworld).length = 31 ∧
    (∀ i ∈ ([.vadd (vop .n4 32 1 47 1 8 0 0x201), .vfma (vop .f64 32 33 34), .vabs (vop .f16 0 33 0), .vcmp (vop .f32 32 33 34 1 7),
      .vsel (vop .e4m3 32 33 34), .vand (vop .none 32 33 34), .vor (vop .none 32 33 34), .vxor (vop .none 32 33 34),
      .vshl (vop .i8 32 33 34), .vshr (vop .i8 32 33 34), .vcvt (vop .i4 32 33 18), .vexp2 (vop .bf16 32 33 0 1 4),
      .vlog2 (vop .f32 32 33 0), .vrcp (vop .f32 32 33 0), .vrsq (vop .f32 32 33 0), .vred (vop .i4 0 33 2),
      .vscan (vop .f32 32 33 0)] : List Instr), i.WellFormed) ∧
    (∀ i ∈ ([.vsub (vop .f32 32 33 34), .vmul (vop .f32 32 33 34), .vmin (vop .f32 32 33 34), .vmax (vop .f32 32 33 34),
      .vperm (vop .f32 32 33 34), .vgath (vop .f32 32 1 34), .vscat (vop .f32 0 33 34), .vqnt (vop .e4m3 1 2 10),
      .vdq (vop .e2m1 1 2 12), .vmov (vop .none 32 33 0), .vld (vop .f32 32 3 0), .vst (vop .f32 3 33 0),
      .vmrg (vop .i32 32 1 2), .vbsr (vop .i64 32 2 34)] : List Instr), i.WellFormed) := by
  refine ⟨fun _ h => h, rfl, by decide, by decide⟩

theorem witness_SweepsAreAccepted_checks :
    let p := plan (vop .f32 32 33 34) vworld 0
    vworld.badTag p.regs = none ∧ p.spans = [] ∧ p.locks = [] ∧ p.locks.length ≤ 16 - vworld.myCore.locks.length ∧
    vworld.myCore.sweeps.length < 4 ∧ world.badTag p.regs = some (tagInfo 32 15) ∧
    (vworld { withCtx pools with vregs := [(1, ⟨0, 1, 0⟩)] }).badTag p.regs = some (tagInfo 33 1) ∧
    (vworld { withCtx pools with mats := [{ mark 1 true with vregs := [1] }] }).myCore.mats.length = 1 ∧
    (vworld { withCtx pools with sweeps := List.replicate 4 (mark 1 true) }).myCore.sweeps.length = 4 := by decide

theorem witness_SweepsAreAccepted_ranges :
    let p := plan (vop .f32 32 6 34 2 0 0 16) vworld 0
    p.spans = [⟨8, 16, 2, 64, 4, false⟩] ∧ (p.spans.all fun q => q.aligned && q.inside) = true ∧
    p.locks = [(true, 8, 80)] ∧
    ((plan (vop .f32 32 5 34) vworld 0).spans.find? fun q => !q.aligned).isSome = true ∧
    ((plan (vop .f32 32 7 34) vworld 0).spans.find? fun q => !q.inside).isSome = true ∧
    (vworld { withCtx pools with locks := [(0, ⟨1, 0, true, 87, 1, 0⟩)] }).myCore.lockedFor 0 true 8 80 = true ∧
    (vworld { withCtx pools with locks := (List.range 16).map fun i => (i, ⟨0, 0, false, 0, 0, 0⟩) }).myCore.locks.length = 16 := by
  decide

-- VLD from device memory; from the own local store, which is no memory side
theorem witness_SweepsAreAccepted_memory :
    ∃ m, (plan (vop .f32 32 3 0) vworld 27).mem = some m ∧ vworld.memFault m.1 m.2 = none ∧
      vworld.memFault { m.1 with x0 := own } m.2 = some own ∧
      (vworld { withCtx pools with perms := [] }).memFault m.1 m.2 = some dev ∧
      overlap (wordAddr dev).toNat 8 m.1.lo.toNat m.1.len = true ∧
      vworld.memFault { m.1 with x0 := 0xA000000000000800 } rW = some 0xA000000000000800 ∧
      windowOf vworld.myCore.rank 0xA000000000000800 = .weight 0 2048 := by
  refine ⟨_, rfl, by decide, by decide, by decide, by decide, by decide, by decide⟩

theorem witness_MatrixWorkIsAccepted_forms :
    (matrixForms (xop 12 48 49 51 2) vworld).length = 8 ∧
    (∀ i ∈ ([.mma (xop 4 20 8 10 4 true true 2), .mld (xop 10 48 2 0 8 true false 0 0 0 1), .mst (xop 5 0 48 2 8 false true),
      .mzero (xop 0 55 0 0 1 false false 13 1), .mtrn (xop 0 48 55 0), .mcvt (xop 14 20 0 0 1 false false 13 0 48),
      .mscl (xop 0 48 0 2 1 false false 2 3), .macc (xop 13 48 49 0 1 false false 13 1), .mstat (xop 0 1 0 0 0)] : List Instr),
      i.WellFormed) := by
  refine ⟨rfl, by decide⟩

/-- The plan of the matrix instruction of number `i` in the list of forms. -/
def xplan (x : XOp) (s : State) (i : Nat) : XPlan := (((matrixForms x s)[i]?).map (·.2)).getD {}

theorem witness_MatrixWorkIsAccepted_checks :
    let p := xplan (xop 0 48 0 0 1 false false 1 1) vworld 3
    p.bad = false ∧ vworld.badTile p.tiles = none ∧ p.aligns = [] ∧ p.ranges = [] ∧ vworld.myCore.mats.length < 4 ∧
    vworld.myCore.sweeps = [] ∧ world.badTile p.tiles = some (tagInfo 48 15) ∧
    (vworld.zone 0).r = 0 ∧ (vworld.zone 0).refused = [] ∧
    (vworld { withCtx pools with mats := List.replicate 4 (mark 1 false) }).myCore.mats.length = 4 := by decide

theorem witness_MatrixWorkIsAccepted_ranges :
    let q := fun (d : Spec) => xplan (xop 0 d 0 0 1 false false 1 0) vworld 3
    (q 5).aligns.find? (fun a => a.1.toNat % a.2 != 0) = some (1, 64) ∧
    (q 7).ranges.find? MRange.outside = some ⟨0x8000000000000000, 0x8000000000000000, 2048, true⟩ ∧
    (q 0).ranges = [⟨0, 0, 2048, true⟩] ∧ (q 0).ranges.find? MRange.outside = none ∧
    ((q 0).and { bad := true }).bad = true ∧
    vworld.badTile [(48, some [1])] = some (tagInfo 48 0) := by decide

-- the limiter of zone 0 withholds an MMA of 251 units
theorem witness_MatrixWorkIsAccepted_limiter :
    ({ world with zones := [(0, { r := 1 })] } : State).zone 0 = { r := 1 } ∧
    ({ r := 1 } : Zone).act + ({ r := 1 } : Zone).rup.toNat < 1 + 250 := by decide

/-- Tiles 0, 1 and 2 hold .e4m3, .i8 and fp64 (R335). -/
def tworld : State := vworld { withCtx pools with tregs := [(0, ⟨0, 5, scOne⟩), (1, ⟨0, 8, 0⟩), (2, ⟨0, 1, 0⟩)] }

def XPlan.passes (p : XPlan) (s : State) : Bool :=
  !p.bad && (s.badTile p.tiles).isNone && p.aligns.all (fun a => a.1.toNat % a.2 == 0) &&
    p.ranges.all fun r => r.off.toNat < 2 ^ 20 && r.lo + r.len ≤ 2 ^ 20

-- the forms of MMA, MLD, MST, MZERO, MTRN, MCVT, MSCL and MACC, in the order of the list
theorem witness_MatrixInstructionsComplete :
    (∀ e ∈ [(xop 5 50 48 48 1 false false 2, 0), (xop 5 48 12 0 1 true, 1), (xop 5 0 48 12 1 false true, 2),
        (xop 0 50 0 0 1 false false 1, 3), (xop 0 51 48 0, 4), (xop 5 50 0 0 1 false false 1 1 48, 5),
        (xop 0 50 0 0 1 false false 1 3, 6), (xop 1 50 50 0 1 false false 1 1, 7)],
      XPlan.passes (xplan e.1 tworld e.2) tworld = true) ∧
    ((matrixForms (xop 5 50 48 48 1 false false 2) tworld).map (·.1))[0]? = some (.mma (xop 5 50 48 48 1 false false 2)) ∧
    tworld.myCore.sweeps = [] ∧ tworld.myCore.locks = [] ∧ tworld.myCore.mats.length < 4 ∧
    (tworld.zone 0).r = 0 ∧ (tworld.zone 0).refused = [] := by decide

/-! ### Witnesses: the engine's instructions, system registers, exceptions -/

/-- Chain 0 is bound to core 0, and its next record lies in device memory; context 0 is in the mode given. -/
def bound (mode : Bool) (c : Core := core) : State :=
  { world { c with chn := [(0, 2 ^ 13)], ctxs := [(0, { ctx with mode := mode })] } with chains := [(0, { team := some 1, pend := dev })] }

theorem witness_EngineInstructions :
    world.myCore.chn = [] ∧ (∃ e ∈ (bound false).myCore.chn, e.2 = 2 ^ 13 + ((bound false).G 0).toNat % 2 ^ 13) ∧
    ((bound false).G 0).toNat % 64 = 0 ∧ ((bound false).G 5).toNat % 64 ≠ 0 ∧ 2 ^ 20 ≤ ((bound false).G 7).toNat ∧
    ((bound false).chain 0).pend = dev ∧ isDevice dev = true ∧ (bound false).myCore.allowed dev rW = true ∧
    (bound false { core with perms := [] }).myCore.allowed dev rW = false ∧
    ((bound false).chain 0).recs.length < 64 ∧ (bound false).lsLocked 0 64 = false ∧
    (bound false).myCore.sbuf.length ≤ 56 ∧ 56 < (bound false { core with sbuf := full }).myCore.sbuf.length ∧
    (bound false).relMet 0 0 = true ∧ (bound false { core with sbuf := full }).relMet 0 0 = false := by decide

theorem witness_EngineInstructions_locks :
    (Instr.cseq (eop 0 1 2 0 0 .acq)).WellFormed ∧ (Instr.evpop (eop 30 0 0)).WellFormed ∧
    ((bound false).G 0).toNat ≤ ((bound false).chain 0).delivered ∧
    ((bound false).chain 0).delivered < ((bound false).G 5).toNat ∧
    ((bound false).G 0).toNat + 64 * 16384 ≤ 2 ^ 20 ∧ 2 ^ 20 < ((bound false).G 7).toNat + 64 ∧
    (bound false).lsLocked 0 (2 ^ 20) = false ∧ (bound false).me.wait = none ∧
    KMap.find? (bound false { core with locks := [(0, ⟨3, 0, true, 0, 64, 0⟩)] }).myCore.locks 0 = some ⟨3, 0, true, 0, 64, 0⟩ ∧
    core.evqhead = core.evqtail ∧ ({ core with evqtail := 64 } : Core).evqhead ≠ 64 := by decide

theorem witness_SystemRegisters :
    (∀ n ∈ [0, 0x10, 0x104, 0x121, 0x23F, 0x410, 0x479, 0x502], csrListed n = true) ∧ csrUser 0x102 = 0 ∧
    csrUser 0 ≠ 0 ∧ csrUser 0x10C = 2 ∧ csrUser 0x106 ≠ 2 ∧ (bound true).me.mode = true ∧ world.me.mode = false ∧
    rwMask 0x20 ≠ 0 ∧ rwMask 0x121 = 0 ∧
    (∀ i ∈ ([.csrr (iop 1 0 0x502), .csrw (iop 0 1 0), .csrs (iop 0 1 0x20), .csrc (iop 0 1 0x104)] : List Instr),
      i.WellFormed) := by decide

theorem witness_ExceptionEntryAndReturn :
    (world.core 0).tvec ≠ 0 ∧ world.me.wbase + 3 - world.me.wlow ≤ 5 ∧ world.me.mode = false ∧
    (world.core 1).tvec = 0 ∧ ¬ (({ ctx with wbase := 4, wsp := 4096 } : Ctx).entryRoom) ∧ ipOk (nextIp world.me.ip) = true ∧
    (bound true).me.mode = true ∧ (bound true).me.depth ≠ (bound true).me.tdepth ∧
    ({ ctx with tdepth := 1, tip := code } : Ctx).depth = 1 ∧ ipOk code = true ∧ ipOk (code + 5) = false := by
  refine ⟨by decide, by decide, by decide, by decide, ?_, by decide, by decide, by decide, by decide, by decide, by decide⟩
  unfold Ctx.entryRoom
  decide

theorem witness_SystemInstructions :
    (bound true).me.mode = true ∧ world.me.mode = false ∧ isDevice (world.G 3) = true ∧ isDevice (world.G 1) = false ∧
    (∃ e, KMap.find? world.myCore.perms 0 = some e ∧ e.w1.getLsbD 0 = true ∧ e.w0.toNat / 32 % 2 ^ 16 = world.myCore.dom) ∧
    world.myCore.trace.length < 127 ∧ world.myCore.loss = 0 ∧ world.me.live = true ∧ world.myCore.finishing = none ∧
    world.cur.2 < 16 ∧ (world.G 0).toNat % 2 ^ 16 = 0 ∧ (world.G 5).getLsbD 0 = true ∧
    (∀ i ∈ ([.invl { rop .none 0 2 3 with var := 1 }, .wbk (rop .none 0 2 3), .perm (rop .none 0 2 3), .dstp (rop .none 0 31 0),
      .markI (iop 0 0 262143), .bkpt (iop 0 0 65535), .trap (iop 0 0 65535)] : List Instr), i.WellFormed) := by
  refine ⟨by decide, by decide, by decide, by decide, ⟨_, rfl, by decide⟩, by decide, by decide, by decide, by decide,
    by decide, by decide, by decide, by decide⟩

/-! ### Witnesses: events of a core, homes, messages, work, records -/

/-- Context 0 of core 0 waits as given. -/
def waits (on : WaitOn) (c : Core := core) (ticks : Nat := 0) : State :=
  { world { c with ctxs := [(0, { ctx with wait := some ⟨on, 0, 0⟩ })] } with ticks := ticks }

theorem witness_SelectorEvents :
    (world { core with gated := true }).myCore.gated = true ∧ (world { core with stopped := true }).myCore.stopped = true ∧
    core.gated = false ∧ core.stopped = false ∧ core.finishing = none ∧ core.migrate = none ∧
    (core.ctx 0).held = [] ∧ world.issue = false ∧ (core.ctx 0).entryCheck = false ∧
    ({ core with cyc := core.cyc + 1 } : Core).ready 0 = true ∧ (0 = (core.rot + 1 + 0) % 16) ∧ core.floor = none ∧
    ({ core with cyc := 18, rot := 1, ctxs := [(0, ctx), (2, ctx)] } : Core).inTurn 2 = true ∧
    ({ core with cyc := 18, rot := 1, ctxs := [(0, ctx), (2, ctx)] } : Core).ready 0 = true ∧ core.last0 + 16 < 18 := by decide

theorem witness_SelectorEvents_windows :
    (∀ j < 16, ({ core with ctxs := [], cyc := 1 } : Core).inTurn j = false) ∧
    ({ ctx with wbase := 4, wsp := 2 ^ 20 - 64 } : Ctx).spillDue = true ∧ (2 ^ 20 - 64) % 8 = 0 ∧ (2 ^ 20 - 64) + 64 ≤ 2 ^ 20 ∧
    ({ ctx with wlow := 2, wsp := 64 } : Ctx).fillDue = true ∧ ctx.spillDue = false ∧ ctx.fillDue = false ∧ ctx.mode = false ∧
    (∀ e ∈ [({ cause := 7 } : Trap), { cause := 8 }], e ≠ ({ cause := 7 } : Trap) → 7 < e.cause) ∧ core.tvec ≠ 0 := by decide

def codeLine : Nat := 0x200000000000040

/-- Translations and lines of `code` and `dev`, with the words `ws` in both lines. -/
def homed (s : State) (ws : List Word := List.replicate 8 0) : State :=
  { s with xlates := [(0x800000000000, ⟨0x20000, 31, 0, true⟩), (0x800000000010, ⟨0x10000, 31, 0, true⟩)]
           lines := [(codeLine, ⟨ws, 255, 0, false, false, 0x21000, 1⟩), (0x200000000004000, ⟨ws, 0, 0, false, false, 0x10000, 1⟩)] }

theorem witness_LineEvents_fetch :
    let s := homed (waits (.fetch codeLine))
    (s.ctx 0 0).wait = some ⟨.fetch codeLine, 0, 0⟩ ∧ isDevice (keyVa codeLine) = true ∧ isHost (keyVa codeLine) = false ∧
    (s.core 0).allowed (keyVa codeLine) rX = true ∧
    (waits (.fetch codeLine) { core with perms := [] }).myCore.allowed (keyVa codeLine) rX = false ∧
    isDevice (keyVa (lineKey 1 own)) = false ∧ isHost (keyVa (lineKey 1 own)) = false ∧
    (s.xlate 1 (keyVa codeLine) rX).2 = .ok (0x20000 + 0x1000) ∧ (s.lines.find? (lineKey 1 (keyVa codeLine))).isSome = true ∧
    (ILine.ofWords (List.replicate 8 0) 0).sound = true ∧ (ILine.ofWords [1, 0, 0, 0, 0, 0, 0, 0] 0).sound = false := by decide +kernel

/-- A line request of context 0. -/
def asked (f : Option Fill) (stale : Bool) : Core :=
  { core with lineReqs := [⟨0x200000000004000, dev, 1, [(0, .ld)], stale, f⟩] }

theorem witness_LineEvents_request :
    let s := homed (waits (.line 0x200000000004000) (asked none false))
    (s.core 0).lineReqs = [⟨0x200000000004000, dev, 1, [(0, .ld)], false, none⟩] ∧
    (s.ctx 0 0).wait = some ⟨.line 0x200000000004000, 0, 0⟩ ∧
    (s.xlate 1 dev rR).2 = .ok 0x10000 ∧ (s.lines.find? (lineKey 1 dev)).isSome = true ∧
    (s.xlate 1 own rR).2 = .fail 0x0B ∧
    (({ s with hostPages := [(5 * 2 ^ 44 + 0x100, ⟨0, true, true, false, false⟩)] } : State).xlateHost 1 0x100000 rR).2 ≠ .ok 0 := by
  decide

theorem witness_LineEvents_arrival :
    (asked (some .absent) false).lineReqs.map (·.waiters) = [[(0, .ld)]] ∧
    (asked (some (.fault 0x0B)) true).lineReqs.map (·.fill) = [some (.fault 0x0B)] ∧
    (∃ ws v q o, (asked (some (.data [7] 1 0 1)) false).lineReqs.map (·.fill) = [some (.data ws v q o)] ∧ bitAt v 0 = true) ∧
    core.dcache.find? (0x200000000004000 * 8) = none ∧
    ({ waits (.line 0x200000000004000) with pageIns := [pageKey 1 dev] } : State).pagePending (pageKey 1 dev) = true ∧
    (∃ g : Hold, g.fault = none ∧ (512 : Nat) < g.cyc + 512 ∧ g.cyc = 1) ∧ (∃ g : Hold, g.fault = none ∧ g.cyc + 512 ≤ 512) := by
  refine ⟨by decide, by decide, ⟨[7], 1, 0, 1, by decide⟩, by decide, by decide, ⟨⟨0, 0, [], 0, 0, 1, none⟩, by decide⟩,
    ⟨⟨0, 0, [], 0, 0, 0, none⟩, by decide⟩⟩

theorem witness_WaitsEnd :
    (∀ on ∈ [WaitOn.monitor, .parkWatch 0 5, .timed, .parkTimed 0, .word, .busy 0],
      (waits on { core with cyc := 2 ^ 36 } (16 * 840000)).me.wait = some ⟨on, 0, 0⟩) ∧
    (0 + 65536 ≤ 2 ^ 36 ∧ 0 + 5 ≤ 2 ^ 36 ∧ 0 + 16 * 840000 ≤ 16 * 840000) ∧
    WaitOn.word.parked = true ∧ (WaitOn.busy 0).parked = true ∧ WaitOn.word.byOutcome = true ∧
    ((waits .parkAgain core (16 * 840000)).ctx 0 0).wait = some ⟨.parkAgain, 0, 0⟩ ∧
    dieOf 511 = 0 ∧ ((waits (.busy 5)).ctx 0 0).wait = some ⟨.busy 5, 0, 0⟩ := by decide

/-- A park heap of 64 KiB a slice in `dev`'s page, whose one record is of context 0, for the first word there. -/
def heaped : State :=
  { waits .word { core with cyc := 2 ^ 24 } with
      parkrsz := 16, parkbase := dev, xlates := [(0x800000000010, ⟨0x100000, 31, 0, true⟩)]
      mem := [(0x2000, 1), (0x2001, 0x40), (0x4000, 0xFF), (0x4001, 3), (0x100000, 0x10), (0x100001, 0x10), (0x101008, 1),
        (0x101010, 4), (0x101012, 0x10), (0x101017, 0x80)]
      rootTable := 0x2000, frames := [(0x10, 0x100005)] }

theorem witness_WaitsEnd_heap :
    (∃ w ∈ heaped.heapAll, w.pid = 0 ∧ w.ctx = 0) ∧ (heaped.ctx 0 0).wait = some ⟨.word, 0, 0⟩ ∧ heaped.watches = [] ∧
    (∀ e ∈ heaped.cores, e.2.watches = []) ∧ 0 + 2 ^ 24 ≤ (heaped.core 0).cyc := by decide +kernel

def entry (fe : Nat) : SEntry := ⟨0, dev, 9, 255, fe, code, 0, 0, 1, 1, 0, none, 0, 0⟩

theorem witness_HomeEvents_stores :
    (∀ fe ∈ [0, 1, 2],
      ((world { core with sbuf := [entry fe] }).core 0).sbuf.find? (fun e => e.seq == 0) = some (entry fe) ∧
      (world { core with sbuf := [entry fe] }).storeBehind 0 (entry fe) = false ∧
      ((homed world).xlate 1 dev (if fe = 0 then rW else rF)).2 = .ok 0x10000) ∧
    isFabric dev = false ∧ ((homed world).lines.find? (lineKey 1 dev)).isSome = true ∧ (homed world).watches = [] ∧
    (homed world).heapOn = false ∧ (∃ x, (homed world).xlates.find? (pageKey 0 dev) = some x ∧ x.d = true) ∧
    (world.xlate 1 dev rW).2 = .fail 0x0B ∧ core.evqEn = false ∧ (core.ctx 0).live = true ∧ core.finishing = none := by decide

def hreq (op : HomeOp) : HomeReq := ⟨7, 0, 0, 0, 1, dev, op, true, false, 0, 0, none⟩

theorem witness_HomeEvents_requests :
    isAtomic (.ldc) = false ∧ isRsta .ldc = false ∧ isAtomic (.atomic .add .i64 1 0) = true ∧ isRsta (.rsta .i64 1) = true ∧
    (∀ op ∈ [HomeOp.ldc, .atomic .add .i64 1 0, .rsta .i64 1, .park 0],
      ({ homed world with homeReqs := [hreq op] } : State).homeReqs.find? (fun r => r.id == 7) = some (hreq op) ∧
      (homed world).requestBehind (hreq op) = false ∧ ((homed world).xlate 1 dev (opNeed op)).2 = .ok 0x10000) ∧
    (homed world).sender 0 0 0 = true ∧ (opEval .ldc 0 0 false false).res = .unready ∧ (opEval .ldc 0 0 true false).res = .ok 0 ∧
    (opEval .ldw 0 0 true true).res = .poisoned := by decide

/-- Context 0 waits for the answer to the check 7 of its PARK. -/
def asking : State := world (withCtx { ctx with asked := some 7, wait := some ⟨.parkAsk 5, 0, 0⟩ })

theorem witness_HomeEvents_checks :
    asking.sender 0 0 0 = true ∧ asking.asks 0 0 0 7 = true ∧ asking.asks 0 0 0 8 = false ∧ isPark (.park 0) = true ∧
    isPark .ldc = false ∧ (opEval (.park 5) 0 5 true false).res = .unready ∧
    (∀ e ∈ [(HomeOp.rsta .i64 1, dev), (.rsta .f64 1, dev), (.rsta .f32 1, dev + 4), (.rsta .f32 1, dev)],
      isRsta e.1 = true ∧ ((homed world).xlate 1 e.2 (opNeed e.1)).2 = .ok (0x10000 + e.2.toNat % 8) ∧
      (e.2.toNat % 8 = 4 * 0 ∨ e.2.toNat % 8 = 4 * 1)) := by decide

def answer (park : Bool) (a : Answer) : ReplyMsg := ⟨7, 0, 0, 0, dev, park, a⟩

theorem witness_HomeEvents_replies :
    ({ world with replies := [answer false (.ok 5)] } : State).replies.find? (fun r => r.id == 7) = some (answer false (.ok 5)) ∧
    ((world (withCtx { ctx with slot := some due })).ctx 0 0).slot = some due ∧ due.id = 7 ∧ due.gen = 0 ∧ due.ans = none ∧
    world.me.slot = none ∧ (∀ a ∈ [Answer.ok 0, .unready true, .unready false],
      ({ waits (.parkAsk 5) with replies := [answer true a] } : State).replies = [answer true a]) ∧
    asking.me.wait = some ⟨.parkAsk 5, 0, 0⟩ ∧ asking.me.asked = some 7 ∧ asking.me.rung = none ∧ asking.me.live = true ∧
    asking.me.gen.toNat = 0 ∧ (waits (.parkAsk 5)).me.asked = none := by decide

/-- Core 1 has sent a message to core 0. -/
def mailed (k : MsgKind) (c : Core := core) : State := { world c with msgs := [{ sent with kind := k, pid := 1, srank := 1 }] }

theorem witness_MessageEvents :
    (∀ k ∈ [MsgKind.access (.load .i64 false) 0 false, .access (.store .i8 false 5) (2 ^ 20 - 1) false, .access (.ldc) 8 true,
      .access (.atomic .add .i32 1 0) 4 false, .parkCheck 0 0, .signal 255 65535, .decrement 32, .arrival 0],
      (mailed k).nextMsg 1 = some { sent with kind := k, pid := 1, srank := 1 } ∧
      (mailed k).msgCore { sent with kind := k, pid := 1, srank := 1 } = some 0) ∧
    isLoad (.load .i64 false) = true ∧ isStore (.store .i8 false 5) = true ∧ isPark .ldc = false ∧
    (∀ k ∈ [MsgKind.arrival 0, .signal 7 1, .decrement 0], ((mailed k { core with finishing := some 0 }).core 0).finishing ≠ none) ∧
    (mailed (.arrival 0)).msgLocked 0 0 32 = false ∧ core.watches = [] ∧ core.semWait = [] ∧
    ({ mailed (.decrement 0) with mem := [⟨lsAddr 0 16, 4⟩] } : State).rd (lsAddr 0 16) 8 % 2 ^ 20 % 8 ≠ 0 ∧
    ({ world with teams := [(1, { team with arr0 := 1 })] } : State).teams.find? 1 = some { team with arr0 := 1 } := by decide

theorem witness_HandlersAndReturns :
    ((mailed (.software false 3 0 0 0)).queued 0 14).isSome = true ∧ ((mailed (.software true 0 0 0 0)).queued 0 15).isSome = true ∧
    core.mhent.get 0 0 = 0 ∧ ({ core with mhent := [(0, code)] } : Core).mhent.get 0 0 ≠ 0 ∧ (core.ctx 11).live = false ∧
    (core.ctx 11).wait = none ∧
    ((world (withCtx { ctx with slot := some due })).ctx 0 0).slot = some due ∧ (world.ctx 0 0).live = true ∧
    (world.ctx 0 0).gen.toNat = sent.gen ∧ asking.me.gen.toNat = sent.gen ∧ asking.me.asked = some 7 ∧
    (let s := world { core with finishing := some 0, ctxs := [(0, { ctx with live := false })] }
     (s.core 0).finishing ≠ none ∧ (∀ e ∈ (s.core 0).ctxs, e.2.live = false) ∧ (s.core 0).team = some 1 ∧
     s.teams.find? 1 = some team ∧ s.root.parts = []) ∧ world.teamOf 0 = some team ∧ team.ph = (world.core 0).ph ∧
    ({ team with ph := 1 } : Team).ph ≠ (world.core 0).ph ∧ (waits .barrier).me.wait = some ⟨.barrier, 0, 0⟩ := by decide

/-- An accepted sweep on v0, v1, v2, whose pool registers are 0, 1, 2. -/
def swept (i : Instr) (performed : Bool) : Work :=
  { id := 3, instr := i, ctx := 0, gen := 0, ip := code, cls := 0, d := 0, a := 0, b := 0, e := 0, a2 := 0, b2 := 0, vbase := 0
    tbase := 0, dom := 1, vregs := [0, 1, 2], tregs := [], dreg := some 0, dtag := 2, performed := performed }

theorem witness_SweepsPerform :
    (world { core with sweeps := [swept (.vadd (vop .f32 32 33 34)) false] }).myCore.sweeps = [swept (.vadd (vop .f32 32 33 34)) false] ∧
    ((laneForms { vop .f32 32 33 34 with cnt := BitVec.ofNat 12 0 })[0]?).isSome = true ∧
    ((laneForms { vop .f32 32 33 34 with cnt := BitVec.ofNat 12 1 })[12]?).isSome = true ∧
    (Ty.f32.width ∣ 512) ∧ 0 < Ty.f32.width ∧ isV 32 = true ∧
    (world.runSweep 0 (swept (.vadd (vop .f32 32 33 34 0)) false)).2 = none ∧
    world.workBehind 0 (swept (.vadd (vop .f32 32 33 34)) false) = false ∧
    (world { core with sbuf := [entry 0] }).workBehind 0 { swept (.vst (vop .f32 32 33 34)) false with seq := 1 } = true := by
  decide +kernel

theorem sound_world {off n : Nat} (h : off + n ≤ 2 ^ 20) : world.sound 0 off n := ⟨h, fun _ _ => rfl⟩

-- no segment is left: each form ends where it began
theorem witness_SweepsPerform_ends :
    (∀ i ∈ ([.vabs (vop .f32 1 2 0 0), .vexp2 (vop .f32 1 2 0 0), .vlog2 (vop .f32 1 2 0 0), .vrcp (vop .f32 1 2 0 0),
      .vrsq (vop .f32 1 2 0 0), .vmov (vop .f32 1 2 0 0), .vperm (vop .f32 1 2 3 0), .vgath (vop .f32 1 2 3 0),
      .vbsr (vop .f32 1 2 3 0), .vld (vop .f32 1 2 0 0), .vmrg (vop .i32 1 2 3 0), .vscan (vop .f32 1 2 0 0),
      .vcvt (vop .f32 1 2 10 0), .vst (vop .f32 1 2 0 0), .vscat (vop .f32 1 2 3 0)] : List Instr),
      (world.runSweep 0 (swept i false)).2 = none) ∧
    0 < (tsOf (vop .bf16 32 33 10)).width ∧ (tsOf (vop .bf16 32 33 10)).width ∣ 512 ∧ cvtBytes .bf16 .f32 = 32 := by
  decide +kernel

theorem witness_SweepsPerform_places :
    world.usable 0 2 false 0 64 0 ∧ world.usable 0 33 false 0 0 3 ∧ Lands (swept .nop false) (vop .f32 1 2 3 1) 64 0 ∧
    world.sound 0 (2 ^ 20 - 4) 4 ∧ world.sound 0 0 (32 * 32 * 7 + 14) ∧
    (∀ k < 2, ∀ i < k + 1, Ty.i64.int (world.rd (lsAddr 0 (8 * i)) 8) ≤ Ty.i64.int (world.rd (lsAddr 0 (8 * k)) 8)) ∧
    (∀ x ∈ [1024, 2048], segOff 0 64 0 + 64 ≤ 2 ^ 20 ∧ (segOff 0 64 0 + 64 ≤ x ∨ x + 68 ≤ segOff 0 64 0)) ∧
    (∀ j < 7, world.rd (lsAddr 0 (224 * j)) 2 / 256 = 0) ∧ ((64 : Nat) : Int) % 4 = 0 := by
  refine ⟨Or.inr (Or.inr (sound_world (by decide))), Or.inl (by decide), Or.inr (by decide), sound_world (by decide),
    sound_world (by decide), by decide, by decide, by decide, by decide⟩

theorem witness_SweepsPerform_memory :
    (match memGet 1 dev.toNat 8 (homed world) with
      | (_, .ok ws) => ws.length == 8
      | _ => false) = true ∧
    (memPut 0 1 ((List.range 8).map fun j => (dev.toNat + 8 * j, 5, false)) (homed world)).2 = none := by decide +kernel

theorem witness_WorkCompletes :
    (swept (.vadd (vop .f32 32 33 34)) true).performed = true ∧ core.semWait = [] ∧
    ({ swept (.vadd (vop .f32 32 33 34)) false with fault := some (6, own, 0) } : Work).fault = some (6, own, 0) ∧
    (core.ctx 0).live = true ∧ (core.ctx 0).gen.toNat = 0 ∧ core.finishing = none ∧
    (xop 0 48 0 0 1 false false 12 1).mode.getLsbD 0 = true ∧
    (xop 8 48 49 50 1 false false 13 1).mode.getLsbD 0 = true ∧ (xop 8 48 49 50 1 false false 13 1).kcnt = 1 := by decide

-- a scratchpad pair of rows of 128 bytes from offset 0, whose 32 lines lie one behind the other, with its scale columns behind them
theorem witness_WorkCompletes_pads :
    (∀ i j, i < 16 → j < 2 → world.sound 0 (padLine 0 128 0 i j) 64) ∧
    (∀ n < 32, padLine 0 128 0 (n / 2) (n % 2) = 64 * n) ∧ 64 * 31 + 64 ≤ 4096 ∧
    (∀ i < 16, world.rd (lsAddr 0 (4096 + 2 * i)) 2 / 256 = 0) ∧ world.sound 0 4096 32 ∧
    (xop 5 48 2 0 1 true false 0 0 4 2).sc = true ∧ (xop 5 48 2 0 2 true false 0 0 0 1).var.getLsbD 0 = true ∧ 2 % 2 = 0 ∧
    (xop 0 1 2 0 1 true false 13 0).mode.getLsbD 0 = false ∧ world.sound 0 0 (256 * 8) ∧ world.sound 0 0 (16 * 8) := by
  have h : ∀ i < 16, ∀ j < 2, padLine 0 128 0 i j + 64 ≤ 2 ^ 20 := by decide +kernel
  exact ⟨fun i j hi hj => sound_world (h i hi j hj), by decide +kernel, by decide, by decide, sound_world (by decide), by decide, by decide,
    by decide, by decide, sound_world (by decide), sound_world (by decide)⟩

/-- A record of chain 0 with the eight words `ws`, and the chain in the middle of it. -/
def crec (ws : List Word) : CRec := ⟨dev, true, 1, 0, 1, 0, 0, 0, code, 0, [], ws⟩

def running (r : Run) : State := { homed (bound false) with chains := [(0, { team := some 1, recs := [crec r.ws], run := some r })] }

/-- COPY of 8 bytes from own offset 0 to own offset 64; FILL there; COW of an 8-byte block. -/
def copyWords (kind : Word) : List Word := [kind, own, own + 64, 7, 0, 0, 0, 0]

theorem witness_RecordsRun_start :
    (running { ws := [], rc := crec [] }).chain 0 ≠ {} ∧
    (let s : State := { homed (bound false) with chains := [(0, { team := some 1, recs := [crec []] })] }
     (s.chain 0).run = none ∧ (s.chain 0).stopped = false ∧ s.chainAway 0 = false ∧
     ({ s with teams := [(1, { team with swapped := true })] } : State).chainAway 0 = true ∧ (s.chain 0).recs = [crec []] ∧ (crec []).advanced = true) ∧
    (match ((homed (bound false) (copyWords 1)).readRecord 1 dev 8).2 with
      | .ok ws => ws == copyWords 1
      | .error _ => false) = true ∧
    rWthr (copyWords 1) = 0 ∧ rKind (copyWords 0) = 0 ∧ rKind (copyWords 10) = 10 ∧
    (let s := running { ws := [], rc := crec [] }
     (s.namedCores 0 (copyWords 1)).any (fun q => (s.core q).stopped) = false ∧ s.lockCores 0 (crec []) [1, own, dev, 7, 0, 0, 0, 0] = [] ∧ s.recordFault 0 (copyWords 1) false = none ∧
     s.recordFault 0 (copyWords 0) false = some 1 ∧ s.recordLocked 0 (crec []) (copyWords 1) = false ∧
     s.recordFault 0 [1, own, 0x9000000000200000, 7, 0, 0, 0, 0] false = some 6) := by
  decide +kernel

def copying (kind : Word) : State := running { ws := copyWords kind, rc := crec [] }

theorem witness_RecordsRun_rows :
    ((copying 1).chain 0).run = some { ws := copyWords 1, rc := crec [] } ∧
    ((copying 5).chain 0).run = some { ws := copyWords 5, rc := crec [] } ∧
    rKind (copyWords 1) = 1 ∧ rKind (copyWords 5) = 5 ∧ rSfe (copyWords 1) = 0 ∧ rDfe (copyWords 5) = 0 ∧
    (copying 1).rowLocked 0 (crec []) (rowOf (copyWords 1) 0 0 0) = false ∧
    (copying 5).rowLocked 0 (crec []) (rowOf (copyWords 5) 0 0 0) = false ∧
    rMcast (copyWords 1) = 0 ∧ rSidecar (copyWords 5) = false ∧ rRow (copyWords 1) = 8 ∧ (copying 1).engCore 0 0 = some 0 ∧
    rRows [1, own, own + 64, 7, 1, 0, 0, 0] = 1 := by decide +kernel

theorem witness_RecordsRun_places :
    windowOf 0 (ofInt ((rSrc (copyWords 1) : Int) + (0 : Nat) * rSpp (copyWords 1) + (0 : Nat) * rSrp (copyWords 1))) = .rank 0 0 := by
  decide

-- the pointer at offset 0 names a block at offset 128, whose count at 136 is 2
theorem witness_RecordsRun_cow :
    let s : State := { running { ws := copyWords 6, rc := crec [] } with
      mem := [⟨lsAddr 0 0, 128⟩, ⟨lsAddr 0 7, 0x90⟩, ⟨lsAddr 0 136, 2⟩] }
    rKind (copyWords 6) = 6 ∧ rFo (copyWords 6) = false ∧ rRow (copyWords 6) = 8 ∧ windowOf 0 own = .rank 0 0 ∧
    s.rd (lsAddr 0 0) 8 = 0x9000000000000080 ∧ windowOf 0 0x9000000000000080 = .rank 0 128 ∧ s.engCore 0 0 = some 0 ∧
    (s.core 0).locks = [] ∧ (128 + 8) % 8 = 0 ∧ s.isPoison (lsAddr 0 136) = false ∧ s.rd (lsAddr 0 136) 8 = 2 ∧
    ({ s with mem := [] } : State).rd (lsAddr 0 136) 8 ≤ 1 ∧ windowOf 0 (own + 64) = .rank 0 64 ∧
    lsAddr 0 64 + 8 + 8 ≤ lsAddr 0 128 ∧ lsAddr 0 0 + 8 ≤ lsAddr 0 64 := by
  decide +kernel

def offered : Offer := { id := 9, pid := 0, image := 0xB2041042188000000C200200000001000, chain := 0, rc := crec [] }

theorem witness_RecordsComplete :
    let r : Run := { ws := copyWords 1, rc := crec [], ended := true }
    ((running r).chain 0).run = some r ∧ r.acks = [] ∧ ((running r).chain 0).team = some 1 ∧
    (running r).chainCore 0 = some 0 ∧ ((running r).chain 0).seqVa.toNat % 8 = 0 ∧ r.posting = false ∧ (running r).offers = [] ∧ rEvq r.ws = false ∧ rSinc r.ws = 0 ∧
    rSinc [1, 0, 0, 0, 0, 2 ^ 40, 0, 0] = 1 ∧ ((running r).core 0).semWait = [] ∧
    ((running { r with fault := some (6, dev) }).chain 0).run = some { r with fault := some (6, dev) } ∧
    ((running r).ctx 0 0).live = true ∧ ((running r).ctx 0 0).gen.toNat = (crec []).gen ∧
    (∃ c : Core, c.evqEn = true ∧ ringCount c.evqhead c.evqtail 64 = 64) ∧ core.evqEn = false ∧
    ringCount core.evqhead core.evqtail 64 < 64 ∧ world.chains = [] := by
  refine ⟨by decide, by decide, by decide, by decide, by decide, by decide, by decide, by decide, by decide, by decide,
    by decide, by decide, by decide, by decide, ⟨{ evqEn := true, evqtail := 64 }, by decide⟩, by decide, by decide, by decide⟩

/-! ### Witnesses: host, queues, dispatch, power, platform, root, the step -/


theorem witness_HostAndFabricEvents_inbound :
    let s : State := ({ homed world with imports := [(0, 0x80000002001F0001)] } : State).remoteGen 2 0 0 5
    s.imported 2 1 (opNeed .ldc) = true ∧ world.imported 2 1 (opNeed .ldc) = false ∧
    (s.xlate 1 (fabricVa 0x100000) (opNeed .ldc)).2 = .ok 0x10000 ∧ (s.lines.find? (lineKey 1 (fabricVa 0x100000))).isSome = true ∧
    (opEval .ldc 0 0 false false).res = .unready ∧ (waits .word).me.wait = some ⟨.word, 0, 0⟩ ∧ (waits .word).me.live = true ∧
    (waits .far).me.wait = some ⟨.far, 0, 0⟩ ∧ world.heapOn = false ∧ world.dirUsed (world.sliceOf codeLine) < 64 ∧
    (homed world).watches = [] := by
  decide

def remote (chain : Option Nat) : HomeReq := ⟨7, 0, 0, 0, 1, fab, .put 0 255 none false, true, false, 0, 0, chain⟩

theorem witness_HostAndFabricEvents_answers :
    world.fabricReq 7 = none ∧ ({ world with homeReqs := [remote none] } : State).fabricReq 7 = some (remote none) ∧
    ({ running { ws := [], rc := crec [] } with homeReqs := [remote (some 0)] } : State).fabricReq 7 = some (remote (some 0)) ∧
    (let e : SEntry := { entry 0 with va := fab }
     world.storeBehind 0 e = false ∧ isFabric e.va = true ∧ world.loopback e.va = none ∧ e.state = 1 ∧ e.seq < 2 ^ 32 ∧
     world.fabricReq (2 ^ 64 + 0 * 2 ^ 32 + e.seq) = none ∧ world.ticks < e.ticks + 840000000 ∧
     e.ticks + 840000000 ≤ ({ world with ticks := 840000000 } : State).ticks) ∧
    core.evqEn = false ∧ (core.ctx 0).live = true := by decide

/-- The bytes of a packet at its slot: a LAUNCH of one team of one core, a CKPT through port 0, or another kind. -/
def packetBytes (kind : Nat) : List Host.Cell :=
  (hostBase, BitVec.ofNat 8 kind) ::
    (if kind = 1 then [(hostBase + 1, 1), (hostBase + 9, 0x10), (hostBase + 15, 0x80), (hostBase + 26, 0x11), (hostBase + 31, 0x80)]
     else if kind = 7 then [(hostBase + 9, 0x10)] else [])

/-- Physical memory with a root table at 2000h that maps the first 64 GiB of the device window to frame 0, the
descriptor of queue 0 at 100000h, and the packet in host memory. -/
def qmem (kind : Nat) : List Host.Cell :=
  [(0x2000, 1), (0x2001, 0x40), (0x4000, 0xFF), (0x4001, 3), (0x100002, 0x20), (0x100008, 4), (0x10000B, 0x50),
   (0x10000E, 1), (0x100020, 1), (0x100028, 1)] ++ packetBytes kind

def queued (kind : Nat) : State :=
  { world with mem := qmem kind, rootTable := 0x2000, qdbase := dev, pup := 1
               hostPages := [(5 * 2 ^ 44 + 0x200, ⟨0, true, false, false, true⟩)]
               frames := [(0x10, 0x100005)]
               lines := (List.range 4).map fun i => (lineKey 0 (dev + 0x10000) + i,
                 ⟨List.replicate 8 0, 255, 0, false, false, 0x110000 + 64 * i, 1⟩)
               xlates := [(0x800000000010, ⟨0x100000, 31, 0, true⟩), (0x800000000011, ⟨0x110000, 31, 0, true⟩),
                          (2 ^ 64 + 2 ^ 44 + 0x200, ⟨hostBase, 31, 0, true⟩)] }

def packet (kind : Nat) : List Word :=
  if kind = 1 then [0x101, code, 0, dev + 0x10000, 0, 0, 0, 0] else if kind = 7 then [7, 0x1000, 0, 0, 0, 0, 0, 0]
  else BitVec.ofNat 64 kind :: List.replicate 7 0

-- queue 0 acts under domain 1, whose PASID is 5
theorem witness_HostAndFabricEvents_pages :
    let s : State := { queued 3 with
      pri := [5 * 2 ^ 44 + 9], cores := (waits (.page (2 ^ 64 + 2 ^ 44 + 9))).cores
      hostPages := [(5 * 2 ^ 44 + 9, ⟨0, false, true, true, false⟩)] }
    (5 * 2 ^ 44 + 9 ∈ s.pri) ∧ (5 * 2 ^ 44 + 9 ∉ world.pri) ∧ 1 ∈ s.domsOf 5 ∧ (s.hostPages.find? (5 * 2 ^ 44 + 9)).isSome = true ∧
    (s.ctx 0 0).wait = some ⟨.page (2 ^ 64 + 2 ^ 44 + 9), 0, 0⟩ := by decide +kernel

theorem witness_QueueEvents_turn (kind : Nat) (h : kind = 1 ∨ kind = 3 ∨ kind = 7 ∨ kind = 8) :
    Turn (queued kind) (queued kind) 0 (packet kind) ∧ Unwatched (queued kind) ∧ Noted (queued kind) ((queued kind).descVa 0 4) := by
  rcases h with rfl | rfl | rfl | rfl <;>
    exact ⟨⟨by decide, by decide +kernel, by rfl, by decide⟩, ⟨by rfl, by rfl⟩, ⟨_, by rfl, by rfl⟩, Or.inr (by decide +kernel)⟩

theorem witness_QueueEvents_checks :
    (∀ k ∈ [2, 3, 4, 5, 6, 7], (queued k).pkCode 0 (packet k) = .done (queued k) none ∧ pkKind (packet k) = k) ∧
    (queued 8).pkCode 0 (packet 8) = .done (queued 8) (some 1) ∧ (queued 3).qState 0 = 1 ∧
    (queued 3).qSize 0 = 16 ∧ (queued 3).qHead 0 = 0 ∧ (queued 3).qTail 0 = 1 ∧ (queued 3).qDom 0 = 1 ∧
    ((queued 3).rawAddr ((queued 3).descVa 0 4)).isSome = true ∧ world.qState 0 ≠ 1 ∧
    (queued 1).bpMatches 0 (packet 1) 0 = false ∧
    ({ queued 1 with bpa := [(0, code)], bpc := [(0, 0x8C00000000000000)] } : State).bpMatches 0 (packet 1) 0 = true ∧
    ({ queued 1 with bpc := [(0, 0x8C00000000000000)] } : State).bpAct 0 = 0 := by decide +kernel

theorem noted_of {s : State} {va : Word} (h : ((s.xlates.find? (pageKey 0 va)).any (·.d)) = true)
    (r : (s.lines.filter fun e => s.sliceOf e.1 == s.sliceOf (lineKey 0 va)).length < sliceLines) : Noted s va := by
  simp only [Option.any_eq_true] at h
  exact ⟨h, Or.inr r⟩

theorem witness_QueueEvents_launch : pkKind (packet 1) = 1 ∧
    ∃ u v x, (queued 1).pkCode 0 (packet 1) = .done u none ∧ u.launchTables (u.qDom 0) (packet 1) = .done v x ∧
      Unwatched v ∧
      ((∀ n < 8, u.bpMatches 0 (packet 1) n = false) ∧ ∀ e ∈ v.lines, keyHost e.1 = false) ∧ Noted v (v.descVa 0 3) :=
  ⟨by decide, _, _, _, by rfl, by rfl, ⟨by rfl, by rfl⟩, by decide +kernel, noted_of (by decide +kernel) (by decide +kernel)⟩

theorem witness_QueueEvents_poison :
    (({ queued 3 with poison := [hostBase / 8] } : State).readSlot 1 0x200000).2 = .poisoned (packet 3) 1 ∧
    ({ queued 3 with poison := [hostBase / 8] } : State).nextQueue = some 0 ∧
    (∀ e ∈ [(3, 4), (8, 1)], let s : State := { queued e.1 with poison := [hostBase / 8 + 1] }
      (s.readSlot 1 0x200000).2 = .poisoned (packet e.1) 2 ∧
      (match (s.readSlot 1 0x200000).1.damagedCode 0 (packet e.1) 2 with
        | .done _ code => code == e.2
        | _ => false) = true) ∧
    ({ queued 3 with mem := (queued 3).mem.map fun c => if c.1 = 0x100020 then ⟨c.1, 17⟩ else c } : State).qTail 0 = 17 := by
  decide +kernel

def under (kind : Nat) (ended : Bool) : State :=
  { homed world with cp := { packets := [⟨0, 0, packet kind, ended, false⟩] }
                     dies := [(0, { filling := [0] })] }

theorem witness_QueueEvents_packets :
    (under 5 false).cp.packets = [⟨0, 0, packet 5, false, false⟩] ∧ pkKind (packet 5) = 5 ∧ pkKind (packet 7) = 7 ∧
    ((under 5 false).die 0).filling = [0 * 2 ^ 32 + 0] ∧
    (∃ e ∈ (under 5 false).teams, e.2.die = 0 ∧ e.2.swapped = false) ∧
    (∀ e ∈ ({ under 5 false with teams := [] } : State).teams, e.2.die = 0 → e.2.swapped = true) ∧
    recF (packet 7) 1 12 16 &&& (under 7 false).pup.toNat = 0 ∧ pkKind (packet 5) = 5 ∧
    (under 3 true).cp.packets.find? (fun p => p.q == 0 && p.idx == 0) = some ⟨0, 0, packet 3, true, false⟩ ∧
    pkSig (packet 3) = false ∧ pkSig (0x13 :: List.replicate 7 0) = true ∧ (homed world).die 1 = {} := by decide

/-- One grid of one team of one core is to be placed on die 0; `world` itself holds the grid of its team. -/
def fresh : State := { State.reset with grids := [(3, { grid with teams := 1, size := 1 })], root := {} }

-- a fill of no bytes, and one of a page of host memory that is not there
theorem witness_QueueEvents_fill :
    (∃ u, (under 5 false).fillStore 0 0 0 0 0 = .done u () ∧ u.cp = (under 5 false).cp ∧ u.die 0 = (under 5 false).die 0) ∧
    (match ({ queued 5 with hostPages := [(5 * 2 ^ 44, ⟨0, true, true, true, false⟩)] } : State).fillStore 1 0 0 0 1 with
      | .wait _ => true
      | _ => false) = true :=
  ⟨⟨_, rfl, rfl, rfl⟩, by decide +kernel⟩

/-- A CKPT through port 0 to device 1, of no partition, with room for a MiB. -/
def ckptTo : List Word := [7, 0x1001, 0, 0, 0x100000, 0, 0, 0]

theorem witness_QueueEvents_stream :
    let s : State := { world with pup := 1, cp := { packets := [⟨0, 0, ckptTo, false, false⟩] } }
    pkKind ckptTo = 7 ∧ recF ckptTo 1 12 16 &&& s.pup.toNat ≠ 0 ∧ recF ckptTo 1 0 12 ≠ s.fabn.toNat ∧
    s.coresDrained ((s.partsOf (recW ckptTo 2)).flatMap (fun e => e.2.cores)) = true ∧
    (∀ e ∈ s.lines, e.2.dirty = true → keyHost e.1 = true) ∧
    64 * (s.streamFlits (recW ckptTo 2) (s.ckptFrames (s.partsOf (recW ckptTo 2)))).length ≤ recW ckptTo 4 := by
  decide +kernel

-- the length goes to a word of `dev`'s line, or to a page of the host that is not resident
theorem witness_QueueEvents_ends :
    ((homed world).writePiece 1 dev 0x40 false).2 = true ∧ ((homed world).writePiece 1 dev 0x40 false).1.cp = (homed world).cp ∧
    (({ queued 3 with hostPages := [(5 * 2 ^ 44 + 0x200, ⟨0, true, true, false, false⟩)], xlates := [] } : State).writePiece 1
      0x200000 0x40 false).2 = false ∧
    (match (homed world).writeStream ⟨0, 0, ckptTo, false, false⟩ [(List.replicate 8 0, 0)] with
      | .done _ _ => true
      | _ => false) = true := by decide +kernel

/-- The signal page of queue 0 follows `dev`'s; its SIGNAL packet has ended. -/
def signalled : State :=
  { queued 3 with
      mem := [(0x2000, 1), (0x2001, 0x40), (0x4000, 0xFF), (0x4001, 3), (0x10000B, 0x50), (0x10000E, 1), (0x100012, 0x11),
        (0x100017, 0x80), (0x100028, 1)]
      cp := { packets := [⟨0, 0, 0x13 :: List.replicate 7 0, true, false⟩] } }

theorem witness_QueueEvents_signal :
    let s := signalled
    let va := dev + 0x10000
    s.cp.packets.find? (fun p => p.q == 0 && p.idx == 0) = some ⟨0, 0, 0x13 :: List.replicate 7 0, true, false⟩ ∧
    BitVec.ofNat 64 (s.desc 0 2 + 8 * recF (0x13 :: List.replicate 7 0) 7 0 13) = va ∧ s.qDom 0 = 1 ∧
    (s.xlate 1 va rA).2 = .ok 0x110000 ∧ (s.lines.find? (lineKey 1 va)).isSome = true ∧ va.toNat % 8 = 0 ∧
    (∃ x, s.xlates.find? (pageKey 0 va) = some x ∧ x.d = true) ∧ s.watches = [] ∧ s.heapOn = false := by decide +kernel

/-- The signal page is a page of the host that is not resident. -/
theorem witness_QueueEvents_absent :
    let s := { signalled with mem := signalled.mem.take 7 ++ signalled.mem.drop 8
                              hostPages := [(5 * 2 ^ 44 + 0x110, ⟨0, true, true, false, false⟩)] }
    (s.xlate 1 0x110000 rA).2 = .absent ∧ s.qDom 0 = 1 ∧ s.desc 0 2 = 0x110000 := by decide +kernel

theorem witness_DispatchEvents_start :
    fresh.nextHead 0 = some 1 ∧ fresh.headOf 0 1 = some (.fresh 3) ∧ (fresh.startHead 0 1).fits = true ∧
    (fresh.startTeam 0 3).fits = true ∧ (match fresh.startHead 0 1 with
      | .placed _ => true
      | _ => false) = true ∧ fresh.heapOn = false ∧ fresh.nextHead 1 = none ∧ fresh.watches = [] ∧
    (match fresh.startTeam 0 3 with
      | .placed u => (u.teams.find? 0).map fun (t : Team) => t.map
      | _ => none) = some [0] := by decide +kernel

/-- The die has no cluster left, and a resident team of lower priority may go. -/
def crowded : State :=
  { world with grids := [(1, { grid with prio := 3, nsave := 1, next := 1 }), (3, { grid with queue := 2, size := 4, teams := 1 })]
               dies := [(0, { withdrawn := List.range 64 })] }

theorem witness_DispatchEvents_quantum :
    crowded.headOf 0 2 = some (.fresh 3) ∧ (∀ j < 64, j ≠ 2 → crowded.headOf 0 j = none) ∧
    (crowded.placeHead 0 (.fresh 3)).fits = false ∧ (crowded.die 0).filling = [] ∧
    crowded.victim 0 (crowded.headPrio (.fresh 3)) = some 1 ∧ crowded.swappable team = some 0 ∧ crowded.cp.reloading = false ∧
    crowded.quantumOver 0 = false ∧ ({ crowded with ticks := 840000 * 4000 } : State).quantumOver 0 = true ∧
    ({ crowded with ticks := 840000 * 4000 } : State).headOf 0 2 = some (.fresh 3) ∧
    (({ crowded with ticks := 840000 * 4000 } : State).placeHead 0 (.fresh 3)).fits = false := by
  decide +kernel

theorem witness_DispatchEvents_fills :
    (∀ emptied ∈ [true, false], let s : State := { crowded with
        ticks := 840000 * 4000, dies := [(0, { withdrawn := List.range 64, filling := [5], emptied := emptied })] }
      (s.die 0).emptied = emptied ∧ (s.die 0).filling ≠ [] ∧ s.quantumOver 0 = true ∧ s.cp.reloading = false ∧
      s.residents 0 = [(1, team)] ∧ s.teams.find? 1 = some team ∧ s.swappable team = some 0) := by decide +kernel

theorem witness_DispatchEvents_instead :
    crowded.candidates 0 = [] ∧ (∀ e ∈ crowded.cores, e.2.reserved = none) ∧ (crowded.core 0).stopped = false ∧ dieOf 2 = dieOf 0 ∧
    crowded.swappable team = some 0 ∧ (crowded.core 0).team = some 1 ∧ crowded.teams.find? 1 = some team ∧
    crowded.teamOf 0 = some team ∧ team.slot = none ∧ (crowded.core 0).migrate = none ∧ crowded.moveOf 0 = none ∧
    (({ crowded with teams := [(1, { team with slot := some 0 })] } : State).teamOf 0).map (·.slot) = some (some 0) := by
  decide +kernel

/-- Every core of the team has stopped for its swap; and the team is out. -/
def halted (reason : Nat) : State :=
  { crowded with cores := [(0, { team := some 1, stopped := true, stopReason := reason }),
                           (1, { team := some 1, rank := 1, stopped := true, stopReason := reason })]
                 teams := [(1, { team with slot := some 0 })] }

theorem witness_DispatchEvents_swap :
    (halted 1).ranksDrained [0, 1] = true ∧ (∀ p ∈ [0, 1], ((halted 1).core p).stopped = true ∧ ((halted 1).core p).stopReason = 1) ∧
    (∃ g u, ([].foldl State.cancelHomes ((halted 1).queueAll [])).saveAll 1 g 0 [] = .done u ()) ∧
    ({ crowded with teams := [(1, { team with slot := some 0, swapped := true })] } : State).headOf 0 1 = some (.back 1) ∧
    (halted 1).headOf 0 1 ≠ some (.back 1) := by
  refine ⟨by decide +kernel, by decide, ⟨grid, _, rfl⟩, by decide +kernel, by decide +kernel⟩

/-- The team is out, and its save area is not there, or in no page. -/
def outside (known : Bool) : State :=
  { queued 3 with teams := [(1, { team with slot := some 0, swapped := true, saved := [⟨0, {}, []⟩] })], cores := []
                  hostPages := if known then [(5 * 2 ^ 44, ⟨0, true, true, true, false⟩)] else [] }

theorem witness_DispatchEvents_swapIn :
    ∀ b ∈ [true, false], (outside b).headOf 0 1 = some (.back 1) ∧ (outside b).nextHead 0 = some 1 ∧ (outside b).watches = [] ∧
      (match (outside b).startHead 0 1 with
        | .wait _ => b
        | .placed _ => !b
        | .no => false) = true := by decide +kernel

-- the save area of the grid is not resident, or no page of the host
theorem witness_DispatchEvents_saves :
    ∀ b ∈ [true, false], let s : State := { queued 3 with
        hostPages := if b then [(5 * 2 ^ 44, ⟨0, true, true, true, false⟩)] else [], root := {} }
      (match s.saveAll 1 grid 0 [(0, 0)] with
        | .wait _ => b
        | .fail _ => !b
        | .done _ _ => false) = true := by decide +kernel

theorem witness_DispatchEvents_moves :
    (crowded.core 0).team = some 1 ∧ (crowded.core 0).stopped = false ∧ (crowded.core 0).migrate = none ∧ crowded.moveOf 0 = none ∧
    (crowded.core 2).team = none ∧ dieOf 2 = dieOf 0 ∧ ({ grid with nsave := 1 } : Grid).freeSlot = some 0 ∧
    2 ∈ world.candidates 0 ∧ (halted 2).ranksDrained [0] = true ∧
    ({ halted 2 with cores := (halted 2).cores ++ [(2, { reserved := some (0, 0) })] } : State).moveOf 0 = some (2, 0) ∧
    crowded.root.parts = [] ∧ crowded.teams.find? 1 = some team := by decide +kernel

theorem witness_DispatchEvents_dispenser :
    let s : State := { world with dispensers := [(0, { recs := [rec0 1] })], cores := [(0, core)], zones := [(0, { evac := true })] }
    (∃ r ∈ (s.dispenser 0).recs, r.grid = 1) ∧ s.allWithheld 1 = true ∧ (1 ∉ (s.dispenser 0).grant) ∧
    (s.dispenser 0).recs[0]? = some (rec0 1) ∧ (s.dispenser 0).recs[1]? = none ∧ (s.core 0).posts = [] ∧
    (waits (.busy 1)).me.wait = some ⟨.busy 1, 0, 0⟩ := by decide +kernel

def lent : Lease := ⟨3, 1, 10, 5, 0, 3⟩

theorem witness_PowerEvents :
    world.ticks < (world.window + 1) * 840000 ∧ (({ world with ticks := 840000 } : State).window + 1) * 840000 ≤ 840000 ∧
    ({ r := 1, refused := [⟨0, 300, false, []⟩] } : Zone).refused = ⟨0, 300, false, []⟩ :: [] ∧
    world.power.grant ≤ 4800 ∧ 4799 < world.power.grant ∧ world.power.pending = [] ∧
    (∃ w : Power, w.pending = [⟨4000, 0, true⟩] ∧ 4000 < w.grant) ∧
    (let w : Power := { lmax := 100, bmax := 100 }
     w.lent + 100 ≤ w.lmax.toNat ∧ w.borrowed + 100 ≤ w.bmax.toNat ∧ w.lentLeases.length < 15 ∧ 1000 ≤ 0 + 1000 * w.lease.toNat) ∧
    ([lent].find? (fun l => l.id == 1) = some lent) ∧ ([lent].find? (fun l => l.src == 3 && l.id == 1) = some lent) ∧
    3600 < world.power.grant := by
  refine ⟨by decide, by decide, rfl, by decide, by decide, rfl, ⟨{ pending := [⟨4000, 0, true⟩] }, by decide⟩, by decide, by decide,
    by decide, by decide⟩

-- a GRANT, a LEND and a RETURN of 100 tokens: from device 3 to this device 0, and from this one
theorem witness_PowerEvents_flits :
    (∀ k ∈ [1, 2, 3], let w := BitVec.ofNat 64 (100 * 2 ^ 28 + 3 * 16 + k)
      fld w.toNat 0 4 = k ∧ fld w.toNat 4 12 = 3 ∧ fld w.toNat 16 12 = world.fabn.toNat ∧ fld w.toNat 28 16 = 100) ∧
    (∀ k ∈ [2, 3], let w := BitVec.ofNat 64 (100 * 2 ^ 28 + 3 * 2 ^ 16 + k)
      fld w.toNat 0 4 = k ∧ fld w.toNat 4 12 = world.fabn.toNat ∧ fld w.toNat 16 12 = 3) ∧
    (let w : Power := { heldLeases := [lent], borrowed := 10 }
     w.heldLeases = [lent] ∧ lent.due ≤ 5 ∧ 4 < lent.due) ∧
    (let w : Power := { lentLeases := [lent], lent := 10 }
     w.lentLeases = [lent] ∧ lent.due + 840000000 ≤ 840000005) := by decide

-- domain 1 is charged for core 0, or for the records of chain 0
theorem witness_PowerEvents_energy :
    let s : State := { homed (running { ws := [], rc := crec [] }) with power := { ebase := dev } }
    let va := dev + 8
    (s.core 0).team ≠ none ∧ (s.core 0).dom = 1 ∧ s.jobDom (.copy 0) = some 1 ∧ s.jobDom (.move none) = none ∧
    s.power.booked = [] ∧ s.power.ebase ≠ 0 ∧ va.toNat % 8 = 0 ∧ (s.xlate 0 va rA).2 = .ok 0x10008 ∧
    (s.lines.find? (lineKey 0 va)).isSome = true ∧ (∃ x, s.xlates.find? (pageKey 0 va) = some x ∧ x.d = true) ∧
    s.watches = [] ∧ s.heapOn = false ∧ world.power.ebase = 0 := by decide

-- the team of core 0, or of chain 0, has ended since, or another domain's has come
theorem witness_PowerEvents_ran :
    (∀ d ∈ [none, some 1], ({ ran := [(ranCore 0, d)] } : Power).ran = [(ranCore 0, d)]) ∧ jobKey (.copy 0) = some (ranChain 0) ∧
    ({ ran := [(ranChain 0, none)] } : Power).ran = [(ranChain 0, none)] ∧ world.power.ebase = 0 ∧ world.power.ran = [] := by decide

theorem witness_PowerEvents_lends :
    (world.budgets : Int) = 3200 ∧ (world.budgets : Int) + 100 ≤ world.power.avail := by decide +kernel

theorem witness_PowerEvents_zones :
    (world.zone 127).budget.toNat < 26 ∧ 16 * 23 ≤ 15 * (world.zone 127).budget.toNat ∧ 15 * 25 < 16 * 24 ∧
    ({ hot := true } : Zone).hot = true ∧ 4 * 18 ≤ 3 * (world.zone 0).budget.toNat ∧ 0 ∈ zoneTiles 0 ∧ 1 ∉ zoneTiles 0 ∧
    (world.core 0).clkHeld = false ∧ (world.core 0).clk = 8 ∧
    world.shares - (world.zone 0).share' + ({ world.zone 0 with share := 2 } : Zone).share' ≤ 256 := by decide +kernel

theorem witness_PowerEvents_hot :
    (let s := world { core with temp := 0x5A1 }
     sextInt (s.zone 0).wthr.toNat 16 < s.zoneTemp 0) ∧ ¬ sextInt (world.zone 0).wthr.toNat 16 < world.zoneTemp 0 ∧
    128 ≤ 128 ∧ 127 < 128 := by decide +kernel

theorem witness_PowerEvents_counts :
    let s : State := { homed world with power := { ebase := dev }, cacheCnt := [(1, { hit := 5 })] }
    s.power.ebase ≠ 0 ∧ (s.xlate 0 dev rA).2 = .ok 0x10000 ∧ (s.lines.find? (lineKey 0 dev)).isSome = true ∧
    s.power.ebase.toNat % 64 = 0 ∧ s.cacheCnt = [((0 * 64 + 0) * 65536 + 1, { hit := 5 })] ∧ s.watches = [] ∧
    isDevice (dev + BitVec.ofNat 64 (512 * 1024 + 64)) = true := by decide

theorem witness_CoolantAndPlatformEvents_zones :
    ({ nIn := 1 } : Zone).nIn = 1 ∧ sextInt (world.zone 0).itrap.toNat 16 < 721 ∧ sextInt (world.zone 0).otrap.toNat 16 < 1121 ∧
    4 * 0 < 5 * (world.zone 0).share' ∧ ({ valve := 64, nDry := 2 } : Zone).step = 0 ∧ 5 * (world.zone 0).share' ≤ 4 * 3 ∧
    2 * 24 < 25 * (world.zone 0).share' ∧ (world.zone 0).step < 3 ∧ world.vacant (zoneTiles 2) = true ∧ world.vacant [0] = false ∧
    (world.core 0).team ≠ none ∧ (world.ctx 0 0).live = true ∧ ({ step := 6, fails := 2 } : Zone).fails = 2 ∧
    63 ∉ (world.die 0).withdrawn ∧ (world.die 0).spares = 64 :: [65, 66, 67] := by decide +kernel

-- a valve 17 off its position for 10 ms; ten good readings; a port down for more than 1 s
theorem witness_CoolantAndPlatformEvents_times :
    (let s : State := { world with ticks := 8400000000, zones := [(0, { offSince := some 0 })] }
     (s.zone 0).offTold = false ∧ (s.zone 0).offSince = some 0 ∧ 0 + 8400000000 ≤ s.ticks) ∧
    16 < ({ want := 0 } : Zone).want + 17 - ({ valve := 0 } : Zone).valve ∧ 45 * (world.zone 0).share' ≤ 4 * 23 ∧
    10 ≤ ({ step := 6, nGood := 10 } : Zone).nGood ∧ ({ step := 6, nGood := 9 } : Zone).nGood < 10 ∧
    (let s : State := { world with ticks := 840000000001, root := { portLost := [(15, 0)] } }
     s.root.portLost.find? 15 = some 0 ∧ 0 + 840000000000 < s.ticks) ∧
    (world.root.portLost.find? 15).isNone = true ∧ (2 : Nat) ^ (8 + 7) = 32768 ∧ (core.hot = false ∧ 0x5F0 ≤ (0x5F0 : Int)) := by
  decide

theorem witness_CoolantAndPlatformEvents_platform :
    (196607 * 65536 + 1023 % 1024 * 64 < hbmEnd) ∧ hbmEnd ≤ 12582912 * 65536 ∧ world.cp.reloading = false ∧
    ({ world with root := { reloads := [1, 2] } } : State).root.reloads = 1 :: 2 :: [] ∧ world.pup.getLsbD 15 = false ∧
    ({ world with pup := 0x8000 } : State).pup.getLsbD 15 = true ∧ (∀ e ∈ world.cores, e.2.watches = []) ∧
    ((waits .word).ctx 0 0).wait = some ⟨.word, 0, 0⟩ := by decide +kernel

/-- A log of 128 bytes a core at the first ring, with one record to drain. -/
def logging : State :=
  { homed (world { core with cyc := 0x3FFFF, trace := [7] }) with
      trbase := dev + 1
      xlates := [(0x800000000010, ⟨0x10000, 31, 0, true⟩)]
      lines := [(0x200000000004000, ⟨List.replicate 8 0, 0, 0, false, false, 0x10000, 1⟩),
                (0x200000000004001, ⟨List.replicate 8 0, 0, 0, false, false, 0x10040, 1⟩)] }

theorem witness_CoolantAndPlatformEvents_logs :
    logging.traceSz = 1 ∧ 0x3FFFF ≤ (logging.core 0).cyc - (logging.core 0).lastRec ∧ (logging.core 0).tstate < 4 ∧
    (logging.core 0).trace = [7] ∧ (logging.core 0).loss = 0 ∧
    BitVec.ofNat 64 (fld logging.trbase.toNat 16 48 * 65536 + 0 * 2 ^ (1 + 6)) = dev ∧
    (logging.lines.find? (lineKey 0 (dev + BitVec.ofNat 64 (64 * (1 + 0 % (2 ^ 1 - 1)))))).isSome = true ∧
    (logging.lines.find? (lineKey 0 dev)).isSome = true ∧ world.myCore.trace = [] ∧ isCore 0 = true ∧ isCore 272 = false ∧
    logging.drainDue (logging.core 0) = false ∧ logging.drainDue { logging.core 0 with trace := List.replicate 8 7 } = true ∧
    ({ logging with ticks := 840000 * 64 } : State).drainDue { logging.core 0 with made := [0] } = true ∧
    ({ logging.core 0 with waitRec := some (0, 7) } : Core).waitRec = some (0, 7) := by decide +kernel

/-- The mailbox holds a command with its operands. -/
def boxed (op : Nat) (args : List Word) (priv : Bool) (s : State := world) : State :=
  { s with root := { s.root with mbBusy := true, mbPriv := priv, mbOp := op, mbArg := args.zipIdx.map fun e => (e.2, e.1) } }

theorem witness_RootEvents_mailbox :
    (∀ op ∈ List.range 10, ∀ priv ∈ [true, false], let s := boxed op [1, 2, 3] priv
      s.root.mbBusy = true ∧ s.root.mbOp = op ∧ s.root.mbPriv = priv ∧ s.root.mbResult < 256 ∧
      s.root.mbArg.get 0 0 = 1 ∧ s.root.mbArg.get 1 0 = 2 ∧ s.root.mbArg.get 2 0 = 3) ∧
    (∃ pa e sh, (queued 3).walk dev = .leaf pa e sh ∧ (bitAt e 2 || fld e 10 30 != 0) = true) ∧
    (match (queued 3).readBytes dev 32 with
      | .done _ nonce => nonce.length == 32
      | _ => false) = true ∧
    (0 &&& 0xFFFFFFFFFFE0F000 : Word) = 0 ∧ 0 ∈ world.dieCores (dieOf 0) := by
  refine ⟨by decide +kernel, ⟨16384, 1023, 2, by decide +kernel, by decide⟩, by decide +kernel, by decide, by decide⟩

/-- Queue 0 has no state yet; its descriptor's lines and that of its place in the field record are in the slices. -/
def enabling : State :=
  { queued 3 with
      mem := (queued 3).mem.filter fun c => c.1 != 0x100028
      lines := [(lineKey 0 dev, ⟨List.replicate 8 0, 255, 0, false, false, 0x100000, 1⟩),
                (lineKey 0 (dev + 0x1000), ⟨List.replicate 8 0, 255, 0, false, false, 0x101000, 1⟩)] }

theorem witness_RootEvents_enable :
    let s := enabling
    let va := s.platVa (0x1000 + 64 * 0)
    s.qState 0 = 0 ∧ s.pasidClash 0 = false ∧ s.watches = [] ∧ (s.lines.find? (lineKey 0 va)).isSome = true ∧
    (∃ x, s.xlates.find? (pageKey 0 va) = some x ∧ x.d = true) ∧ (s.rawAddr va).isSome = true ∧
    (s.lineOrMem (lineKey 0 va) 0x101000).ws.length = 8 ∧
    (∃ x, s.xlates.find? (pageKey 0 (s.descVa 0 5)) = some x ∧ x.d = true) ∧
    (s.lines.find? (lineKey 0 (s.descVa 0 5))).isSome = true := by decide +kernel

theorem witness_RootEvents_places :
    (∃ e : Perm, world.activeCore 0 = true ∧ (world.core 0).perms.find? 0 = some e ∧ e.w1.getLsbD 0 = true ∧
      fld e.w0.toNat 5 16 = (world.core 0).dom) ∧ (0x1000 % 8 = 0 ∧ 0x1000 < 2 ^ 60) ∧ ¬ (hostBase ≤ 0x1000 ∧ 0x1000 < wsBase) ∧
    (0 : Word).getLsbD 1 = false ∧ (1 : Word).getLsbD 0 = true ∧ 0x1000 < hbmEnd := by
  refine ⟨⟨⟨0x3F, 0xFFFFFFFFFFE00001⟩, by decide, by decide, by decide, by decide⟩, by decide, by decide, by decide, by decide,
    by decide⟩

theorem witness_RootEvents :
    (world.frames.get 0 0).getLsbD 0 = false ∧ ({ world with frames := [(12582911, 1)] } : State).frames.get 12582911 0 = 1 ∧
    (511 ∈ world.dieCores (dieOf 511) ∨ 255 ∈ world.dieCores (dieOf 255)) ∧ 508 ∉ world.dieCores 1 ∧ world.qState 63 = 0 ∧
    (queued 3).qState 0 ≠ 0 ∧ (queued 3).watches = [] ∧ world.groupCached 2047 = false ∧ (homed world).groupCached 0 = true ∧
    world.root.parts.find? 0 = none ∧
    ({ world with root := { parts := [(63, ⟨[0], [1], [2]⟩)] } } : State).root.parts.find? 63 = some ⟨[0], [1], [2]⟩ ∧
    (match world.readBytes dev 32 with
      | .fail _ => true
      | _ => false) = true ∧ (0x100 : Nat) ≤ 0x2FF ∧ 0x2FF < 0x300 := by decide +kernel

/-! ### A program of one slot, from reset (withFetchWord) -/

-- addi.i64 g1, g0, 5: the decoder reads it, and the first step after reset runs it
theorem test_withFetchWord :
    decodeTableWord 96 0x030200400000000000000005 = some (.addi (iop 1 0 5 .i64)) ∧
    (match step (State.reset.withFetchWord 96 0x030200400000000000000005) with
      | .next t => t.me.reg 1 == 5 && t.me.ip == nextIp (State.reset.withFetchWord 96 0x030200400000000000000005).me.ip
      | _ => false) = true := by decide +kernel

theorem witness_StepRunsTheDecodedInstruction :
    State.reset.agenda = [] ∧ ({ State.reset with agenda := [⟨0, .rampWindowBoundary⟩] } : State).agenda = [⟨0, .rampWindowBoundary⟩] ∧
    (opcFields .rampWindowBoundary).isSome = false ∧ ipOk code = true ∧
    (world.myCore.icache.find? (lineKey world.myCore.dom world.me.ip)).isSome = true ∧ world.me.entryCheck = false ∧
    world.myCore.allowed (lineOf world.me.ip) rX = true ∧ world.me.line ≠ some (lineOf world.me.ip) ∧
    (world { core with perms := [] }).myCore.allowed (lineOf world.me.ip) rX = false ∧
    (let l : ILine := ⟨[0x010400455800000000000000, 0x010401450400000000000000, 0, 0, 0], 0x420, 0⟩
     l.pairFault = false ∧ l.pairAt 0 = true ∧ pairBad ((l.slots[0]?).getD 0) ((l.slots[1]?).getD 0) = false ∧
     l.landAt 0 = true ∧ l.slotPoison 1 = false) ∧
    -- a damaged word in one member of that pair, or in the other
    (∀ e ∈ [(1, true), (4, false)], (match (world { core with icache :=
        [(0x200000000000040, ⟨[0x010400455800000000000000, 0x010401450400000000000000, 0, 0, 0], 0x420, e.1⟩)] }).fetchGroup with
      | .half _ first _ => first == e.2
      | _ => false) = true) ∧
    (let l : ILine := ⟨[0, 0, 0, 0, 0], 0x3E0, 0⟩
     l.pairFault = false ∧ l.pairAt 0 = false ∧ l.slotPoison 0 = false) ∧
    (match exec (.issueSelection 0) world with
      | .next u => u.issue
      | _ => false) = true := by decide +kernel

theorem witness_MemoryStaysCanonical :
    Memory.wf State.reset.mem ∧ (match step State.reset with
      | .next _ => true
      | _ => false) = true := by decide +kernel

/-! ### One step each, with results worked out from the rules -/

def gives (i : Instr) (s : State) (f : State → Bool) : Bool :=
  match exec i s with
  | .next t => f t
  | _ => false

/-- `world` with g11 and g12 as given. -/
def with2 (a b : Word) : State := world (withCtx { ctx with g := (ctx.g.put 11 a).put 12 b })

-- R224, R226: 127 + 1 wraps to -128, and saturates to 127; a shift counts modulo the width
theorem test_add : gives (.add (rop .i8 13 11 12)) (with2 127 1) (fun t => t.me.reg 13 == 0xFFFFFFFFFFFFFF80) = true := by decide
theorem test_add_sat : gives (.add (rop .i8 13 11 12 0 0 true)) (with2 127 1) (fun t => t.me.reg 13 == 127) = true := by decide
theorem test_shl : gives (.shl (rop .n32 13 11 12)) (with2 3 33) (fun t => t.me.reg 13 == 6) = true := by decide
-- R227: a quotient by zero
theorem test_div_zero : gives (.divI (rop .n16 13 11 12)) (with2 5 0) (fun t => t.me.reg 13 == 0xFFFF) = true := by decide
-- R212: a write to g0 is discarded, and the IP moves on
theorem test_g0 : gives (.add (rop .i64 0 11 12)) (with2 5 6) (fun t => t.me.reg 0 == 0 && t.me.ip == code + 1) = true := by decide
-- R228: -1 is below 1 as .i32, not as .n32
theorem test_cmp : gives (.cmp (rop .i32 58 11 12 0 2)) (with2 0xFFFFFFFF 1) (fun t => t.me.reg 58 == 1) = true ∧
    gives (.cmp (rop .n32 58 11 12 0 2)) (with2 0xFFFFFFFF 1) (fun t => t.me.reg 58 == 0) = true := by decide
-- R238: 1 + 2^-24 in .f32 is a tie, to even, and one place up towards plus infinity
theorem test_fadd : gives (.fadd (rop .f32 13 11 12)) (with2 0x3F800000 0x33800000) (fun t => t.me.reg 13 == 0x3F800000) = true := by
  decide
theorem test_fadd_up : gives (.fadd (rop .f32 13 11 12 0 0 false 2)) (with2 0x3F800000 0x33800000)
    (fun t => t.me.reg 13 == 0x3F800001) = true := by decide
-- R242: 448 is the largest finite .e4m3; 500 saturates to it
theorem test_fcvt : gives (.fcvt (rop .e4m3 13 11 0 10 0 true)) (with2 0x43FA0000 0) (fun t => t.me.reg 13 == 0x7E) = true := by
  decide
-- R265, R267: STL writes one byte; LDL of it as .i8 extends the sign
theorem test_stl : gives (.stl (mop .i8 11 0 0 5)) (with2 0x1FF 0)
    (fun t => t.mem == [(lsAddr 0 5, 0xFF)] && t.me.oc == 0) = true := by decide
theorem test_ldl : gives (.ldl (mop .i8 13 0 0 5)) { world with mem := [(lsAddr 0 5, 0x80)] }
    (fun t => t.me.reg 13 == 0xFFFFFFFFFFFFFF80) = true := by decide
-- R271: LDC of a full word empties it; of an empty word it answers EMPTY (2) with reason 0
theorem test_ldc : gives (.ldc (mop .i64 13 1 0)) world (fun t => !t.isFull (lsAddr 0 0) && t.me.oc == 0) = true := by decide
theorem test_ldc_empty : gives (.ldc (mop .i64 13 1 0)) hollow (fun t => t.me.oc == 2 && t.me.nrip == code) = true := by decide
-- R286: a signal saturates and is counted
theorem test_ssig : gives (.ssig (eop 0 0 0 7 2)) (world { core with sems := [(7, 65534)] })
    (fun t => t.myCore.sems.get 7 0 == 65535 && t.myCore.semsat == 1) = true := by decide
-- R439: a TRAP enters the handler
theorem test_trap : gives (.trap (iop 0 0 9)) world (fun t => t.me.mode && t.me.ip == 0x8000000000002000 && t.me.tip == code + 1 &&
    t.me.tcause == 0x17 && t.me.tinfo == 9) = true := by decide

end Sys2Proof.Tests
end

section
/-! What the guard field GRD means to an instruction (R200): where it stands in the slot, that it is
checked, and that the whole effect of the instruction stands under it. Settles O9. -/

namespace Sys2Proof

/-! ### The field GRD of a slot -/

/-- The value of a four-bit field packed at bit 84, below the opcode. -/
theorem fld_pack_guard {low : List (Nat × Nat)} (hlow : widthOf low = 84) (g : Guard) (c : Nat) :
    fld (pack (low ++ [(4, g.code)] ++ [(8, c)])) 84 4 = g.code := by
  rw [fld, ← hlow, List.append_assoc, pack_append_div]
  simpa [pack] using Guard.code_lt g

/-- 1000b is the code of the one guard that is reserved. -/
theorem Guard.not_ok_of_code {g : Guard} (h : g.code = 8) : g.ok = false := by
  rw [← Guard.ofCode_code g, h]
  decide

/-- What it is for a slot to hold an instruction: it is legal, and the slot is its encoding. -/
theorem decodeSlot_some {w : Nat} {i : Instr} (h : decodeSlot w = some i) :
    legal i = true ∧ encode i = some w := by
  unfold decodeSlot at h
  split at h
  · split at h
    · next hi =>
      obtain rfl := Option.some.inj h
      simpa using hi
    · cases h
  · cases h

/-- The fields of a format end in GRD, which stands at bit 84. -/
def EndsInGuard (fs : List (Nat × Nat)) (g : Guard) : Prop :=
  ∃ low, fs = low ++ [(4, g.code)] ∧ widthOf low = 84

theorem ROp.endsInGuard (o : ROp) : EndsInGuard o.fields o.grd :=
  ⟨o.fields.dropLast, rfl, by simp only [ROp.fields, List.dropLast, widthOf]⟩
theorem IOp.endsInGuard (o : IOp) : EndsInGuard o.fields o.grd :=
  ⟨o.fields.dropLast, rfl, by simp only [IOp.fields, List.dropLast, widthOf]⟩
theorem MOp.endsInGuard (o : MOp) : EndsInGuard o.fields o.grd :=
  ⟨o.fields.dropLast, rfl, by simp only [MOp.fields, List.dropLast, widthOf]⟩
theorem EOp.endsInGuard (o : EOp) : EndsInGuard o.fields o.grd :=
  ⟨o.fields.dropLast, rfl, by simp only [EOp.fields, List.dropLast, widthOf]⟩
theorem BOp.endsInGuard (o : BOp) : EndsInGuard o.fields o.grd :=
  ⟨o.fields.dropLast, rfl, by simp only [BOp.fields, List.dropLast, widthOf]⟩
theorem VOp.endsInGuard (o : VOp) : EndsInGuard o.fields o.grd :=
  ⟨o.fields.dropLast, rfl, by simp only [VOp.fields, List.dropLast, widthOf]⟩
theorem XOp.endsInGuard (o : XOp) : EndsInGuard o.fields o.grd :=
  ⟨o.fields.dropLast, rfl, by simp only [XOp.fields, List.dropLast, widthOf]⟩

/-! ### Instructions with an encoding -/

/-- NOP is the slot of zeros (R193). -/
theorem eq_zero_of_encode_nop {w : Nat} (h : encode .nop = some w) : w = 0 :=
  (Option.some.inj h).symm

theorem encoded_of_encode {i : Instr} {w : Nat} (h : encode i = some w) : i.Encoded := by
  obtain ⟨p, hp, -⟩ := Option.map_eq_some_iff.1 h
  exact Option.isSome_of_eq_some hp

theorem encoded_of_guardOf {i : Instr} {g : Guard} (h : i.guardOf = some g) : i.Encoded := by
  obtain ⟨p, hp, -⟩ := Option.bind_eq_some_iff.1 h
  exact Option.isSome_of_eq_some hp

/-! ### The codes of a guard -/

/-- GRD[3] is set in the codes from 8 up. -/
theorem bitAt_three {n : Nat} (h : n < 16) : bitAt n 3 = decide (8 ≤ n) := by
  simp only [bitAt, beq_eq_decide, decide_eq_decide]
  omega

/-- GRD[2:0] names the predicate that stands at specifier 38h plus its number. -/
theorem predicate_spec (n : Nat) :
    (56 + (BitVec.ofNat 3 n).setWidth 6 : Spec) = BitVec.ofNat 6 (56 + n % 8) := by
  apply BitVec.eq_of_toNat_eq
  have h56 : (56 : Spec).toNat = 56 := rfl
  simp only [BitVec.toNat_add, BitVec.toNat_setWidth, BitVec.toNat_ofNat, h56]
  omega

end Sys2Proof

namespace Sys2Proof.Machine
open Sys2Proof

/-! ### Instructions under a guard -/

/-- `g` is the guard of `i` in every respect that R200 names: its code stands in bits 87:84, just below
the opcode; a legal `i` has no reserved guard; and where `g` is false, `i` ends with nothing done. -/
structure GuardedBy (i : Instr) (g : Guard) : Prop where
  field : ∃ c fs, opcFields i = some (c, fs) ∧ EndsInGuard fs g
  checked : g.ok = false → legal i = false
  effect : ∀ s, ∃ t, exec i s = .next (if s.guard g then t else s.finish s .next)

namespace GuardedBy
variable {i : Instr} {g : Guard}

theorem guardOf_eq (h : GuardedBy i g) : i.guardOf = some g := by
  obtain ⟨c, _, hf, low, rfl, -⟩ := h.field
  have hg : Guard.ofCode (g.code % 16) = g := by
    rw [show g.code % 16 = g.code from Nat.mod_eq_of_lt (Guard.code_lt g), Guard.ofCode_code]
  simp [Instr.guardOf, hf, hg]

theorem fld_eq_code (h : GuardedBy i g) {w : Nat} (hw : encode i = some w) : fld w 84 4 = g.code := by
  obtain ⟨c, _, hf, low, rfl, hlow⟩ := h.field
  rw [encode, hf] at hw
  obtain rfl := Option.some.inj hw
  exact fld_pack_guard hlow g c

theorem gives_nothing (h : GuardedBy i g) {s : State} (hs : s.guard g = false) : Gives i s 0 0 := by
  obtain ⟨t, he⟩ := h.effect s
  rw [hs] at he
  rw [Gives, he]
  exact ⟨_, rfl, s.retire_same⟩

end GuardedBy

/-- Every encoded instruction but NOP, which has no field at all, stands under a guard: format by format,
GRD is the highest field and heads the checks of `legal`, and `exec` begins with it. -/
theorem exists_guardedBy {i : Instr} (h : i.Encoded) (hn : i ≠ .nop) : ∃ g, GuardedBy i g := by
  cases i with
  | nop => exact absurd rfl hn
  | add o | sub o | mul o | mulh o | divI o | remI o | andI o | orI o | xorI o | andn o | shl o | shr o
  | sra o | rot o | clz o | ctz o | popc o | minI o | maxI o | cmp o | sel o | lea o | bfx o | bfi o
  | bswap o | movp o | pset o | fadd o | fsub o | fmul o | ffma o | fdiv o | fsqrt o | fmin o | fmax o
  | fcmp o | fcvt o | fclass o | fsgn o | ret o | jmp o | calli o | yieldI o | park o | leave o | endI o
  | acq o | doneI o | mret o | eret o | invl o | wbk o | perm o | dstp o =>
    exact ⟨o.grd, ⟨_, _, rfl, o.endsInGuard⟩, fun hg => by
      simp [legal, ROp.int2, ROp.int1, ROp.flt2, ROp.plain, ROp.bare, hg], fun _ => ⟨_, rfl⟩⟩
  | addi o | movi o | enter o | csrr o | csrw o | csrs o | csrc o | trap o | bkpt o | markI o =>
    exact ⟨o.grd, ⟨_, _, rfl, o.endsInGuard⟩, fun hg => by simp [legal, IOp.sys, hg],
      fun _ => ⟨_, rfl⟩⟩
  | br o | boc o | call o | loopI o =>
    exact ⟨o.grd, ⟨_, _, rfl, o.endsInGuard⟩, fun hg => by simp [legal, hg], fun _ => ⟨_, rfl⟩⟩
  | ld o | st o | ldw o | ldc o | stf o | ste o | feq o | feset o | ldl o | stl o | ldb o | stb o | ldk o
  | wld o | pfx o | rel o | fence o | aadd o | aand o | aor o | axor o | amin o | amax o | aswp o | acas o
  | afadd o | rsta o =>
    exact ⟨o.grd, ⟨_, _, rfl, o.endsInGuard⟩, fun hg => by
      simp [legal, MOp.elem, MOp.fe, MOp.atom, MOp.plain, MOp.base, hg], fun _ => ⟨_, rfl⟩⟩
  | swait o | ssig o | sset o | msend o | mrd o | bara o | barw o | startI o | hchk o | rpop o | rdec o
  | take o | give o | capp o | cadv o | cseq o | clck o | culk o | evpop o =>
    exact ⟨o.grd, ⟨_, _, rfl, o.endsInGuard⟩, fun hg => by
      simp [legal, EOp.noVar, EOp.base, hg], fun _ => ⟨_, rfl⟩⟩
  | vadd o | vsub o | vmul o | vfma o | vmin o | vmax o | vabs o | vcmp o | vsel o | vand o | vor o | vxor o
  | vshl o | vshr o | vcvt o | vexp2 o | vlog2 o | vrcp o | vrsq o | vred o | vscan o | vperm o | vgath o
  | vscat o | vqnt o | vdq o | vmov o | vld o | vst o | vmrg o | vbsr o =>
    exact ⟨o.grd, ⟨_, _, rfl, o.endsInGuard⟩, fun hg => by
      simp [legal, VOp.binary, VOp.unary, VOp.reduce, VOp.quant, VOp.base, hg], fun _ => ⟨_, rfl⟩⟩
  | mld o | mst o | mma o | mzero o | mtrn o | mcvt o | mscl o | macc o | mstat o =>
    exact ⟨o.grd, ⟨_, _, rfl, o.endsInGuard⟩, fun hg => by simp [legal, XOp.one, hg],
      fun _ => ⟨_, rfl⟩⟩
  | _ => cases h

theorem guardedBy_of_guardOf {i : Instr} {g : Guard} (h : i.guardOf = some g) (hn : i ≠ .nop) :
    GuardedBy i g := by
  obtain ⟨g', hg⟩ := exists_guardedBy (encoded_of_guardOf h) hn
  obtain rfl := Option.some.inj (hg.guardOf_eq.symm.trans h)
  exact hg

/-- The guard of the instruction that a slot holds is the one that its field GRD names. -/
theorem guardOf_decodeSlot {w : Nat} {i : Instr} {g : Guard} (h : decodeSlot w = some i)
    (hg : i.guardOf = some g) : g = Guard.ofCode (fld w 84 4) := by
  obtain ⟨-, hw⟩ := decodeSlot_some h
  by_cases hn : i = .nop
  · subst hn
    rw [eq_zero_of_encode_nop hw]
    exact (Option.some.inj hg).symm
  · rw [(guardedBy_of_guardOf hg hn).fld_eq_code hw, Guard.ofCode_code]

/-- A slot with GRD = 1000b holds no instruction. -/
theorem decodeSlot_reserved_guard {w : Nat} (h : fld w 84 4 = 8) : decodeSlot w = none := by
  refine Option.eq_none_iff_forall_ne_some.2 fun i hi => ?_
  obtain ⟨hl, hw⟩ := decodeSlot_some hi
  by_cases hn : i = .nop
  · subst hn
    rw [eq_zero_of_encode_nop hw] at h
    exact absurd h (by decide)
  · obtain ⟨g, hg⟩ := exists_guardedBy (encoded_of_encode hw) hn
    have hcode : g.code = 8 := (hg.fld_eq_code hw).symm.trans h
    simp [hg.checked (Guard.not_ok_of_code hcode)] at hl

/-! ### The value of a guard -/

theorem guard_ofCode (s : State) {n : Nat} (h : n < 16) : s.guard (Guard.ofCode n) =
    xor (s.view.reg (BitVec.ofNat 6 (56 + n % 8)) == 1) (decide (8 ≤ n)) := by
  rw [State.guard, Guard.ofCode, predicate_spec, bitAt_three h]

/-- GRD = 0000b names p0, which is true. -/
theorem guard_ofCode_zero (s : State) : s.guard (Guard.ofCode 0) = true := by
  rw [guard_ofCode s (by decide)]
  have hp0 : s.view.reg (BitVec.ofNat 6 56) = 1 := rfl
  simp [hp0]

theorem runSlot_illegal {w : Nat} (s : State) (h : decodeSlot w = none) :
    runSlot w s = .next (s.illegal w) := by
  rw [runSlot, h]

/-- Settles O9: every encoded instruction but NOP does all that it does under its guard, the field GRD is
its guard's code, and the reserved code 1000b fails the checks of every format. -/
theorem falseGuardDoesNothing : Obligations.FalseGuardDoesNothing := by
  refine ⟨fun i g s hg hn hs => (guardedBy_of_guardOf hg hn).gives_nothing hs,
    fun n s hn => ⟨guard_ofCode s hn, ?_⟩, fun w i g => guardOf_decodeSlot,
    fun w s => ⟨decodeSlot_reserved_guard, runSlot_illegal s⟩⟩
  rintro rfl
  exact guard_ofCode_zero s

end Sys2Proof.Machine
end

section
/-! The entry of a handler (R439) and the slot that is no instruction (R485): alone it raises 01h, behind a
first member of a pair that found no trap it raises 01h in its place. Settles O11. -/

namespace Sys2Proof.Machine
open Sys2Proof

/-! ### The window after an advance (R31) -/

/-- A fresh half leaves what lies below it. -/
theorem get_freshHalf_of_lt (m : KMap Word) (h n k : Nat) {j : Nat} (hj : j < 8 * h) :
    (freshHalf m h n k).get j 0 = m.get j 0 := by
  induction k with
  | zero => rfl
  | succ k ih => rw [freshHalf, KMap.get_put_ne _ _ _ (by omega), ih]

/-- The halves up to the two of the old window keep their contents. -/
theorem Ctx.get_win_advance (x : Ctx) (n : Nat) {j : Nat} (hj : j < 8 * (x.wbase + 2)) :
    (x.advance n).win.get j 0 = x.win.get j 0 :=
  get_freshHalf_of_lt x.win (x.wbase + 2) n 8 hj

/-- The lower half of the new window is the upper half of the old one. -/
theorem Ctx.reg_advance_window (x : Ctx) (n : Nat) {r : Spec} (h16 : 16 ≤ r.toNat) (h23 : r.toNat ≤ 23) :
    (x.advance n).reg r = x.reg (r + 8) := by
  have hr : (r + 8).toNat = r.toNat + 8 := by
    have h8 : (8 : Spec).toNat = 8 := rfl
    rw [BitVec.toNat_add, h8]
    omega
  have hj : 8 * (x.advance n).wbase + (r.toNat - 16) = 8 * x.wbase + (r.toNat + 8 - 16) := by
    simp only [Ctx.advance]
    omega
  simp only [Ctx.reg, hr, show r.toNat ≠ 0 by omega, show ¬ r.toNat < 16 by omega,
    show r.toNat < 32 by omega, show r.toNat + 8 ≠ 0 by omega, show ¬ r.toNat + 8 < 16 by omega,
    show r.toNat + 8 < 32 by omega, if_true, if_false, hj]
  exact x.get_win_advance n (by omega)

/-- Registers outside the window do not move. -/
theorem Ctx.reg_advance_shared (x : Ctx) (n : Nat) {r : Spec} (h : r.toNat < 16 ∨ 32 ≤ r.toNat) :
    (x.advance n).reg r = x.reg r := by
  by_cases hlow : r.toNat < 16
  · simp only [Ctx.reg, hlow, if_true]
    rfl
  · simp only [Ctx.reg, hlow, show ¬ r.toNat < 32 by omega, if_false]
    rfl

/-! ### The entry of a handler (R439–R441) -/

/-- An update of context `k` of core `p` leaves every other context. -/
theorem State.ctx_setCtx_ne (s : State) {p k q j : Nat} (x : Ctx) (h : (q, j) ≠ (p, k)) :
    (s.setCtx p k x).ctx q j = s.ctx q j := by
  by_cases hq : q = p
  · subst hq
    have hj : j ≠ k := fun e => h (by rw [e])
    simp [State.ctx, hj]
  · simp [State.ctx, hq]

/-- An update of a context leaves every core's own registers and tables. -/
theorem State.core_setCtx_ctxs (s : State) (p k : Nat) (x : Ctx) (q : Nat) :
    { (s.setCtx p k x).core q with ctxs := [] } = { s.core q with ctxs := [] } := by
  by_cases hq : q = p
  · subst hq
    simp [Core.setCtx]
  · simp [hq]

/-- The context `x` at the first group of its handler at `tvec`, with the frame of trap `tr`; its window is
advanced with the free values from `n`. -/
def Ctx.entered (x : Ctx) (tr : Trap) (tip tvec : Word) (n : Nat) : Ctx :=
  { x.advance n with tip := tip, tcause := BitVec.ofNat 8 tr.cause, tinfo := tr.info, tsrc := tr.src
                     tsrcx := tr.srcx, mode := true, ip := tvec, tdepth := x.depth + 1, wait := none
                     retry := false, entryCheck := false, mon := { x.mon with dirty := true } }

theorem Ctx.bare_entered (x : Ctx) (tr : Trap) (tip tvec : Word) (n : Nat) :
    (x.entered tr tip tvec n).bare = x.bare := rfl

/-- The window of a handler: the trap has moved it by 8. -/
theorem Ctx.window_entered (x : Ctx) (tr : Trap) (tip tvec : Word) (n : Nat) :
    let y := x.entered tr tip tvec n
    y.wbase = x.wbase + 1 ∧ y.depth = x.depth + 1 ∧ y.tdepth = y.depth ∧
    (∀ j, j < 8 → y.win.get (8 * x.wbase + j) 0 = x.win.get (8 * x.wbase + j) 0) ∧
    (∀ r : Spec, 16 ≤ r.toNat → r.toNat ≤ 23 → y.reg r = x.reg (r + 8)) ∧
    ∀ r : Spec, r.toNat < 16 ∨ 32 ≤ r.toNat → y.reg r = x.reg r :=
  ⟨rfl, rfl, rfl, fun j hj => x.get_win_advance n (by omega),
    fun _ h16 h23 => x.reg_advance_window n h16 h23, fun _ h => x.reg_advance_shared n h⟩

/-- With room at entry, no spill is due or the one that is fits below the limit of the window stack. -/
theorem Ctx.entryRoom.spill_fits {x : Ctx} (h : x.entryRoom) :
    x.spillAt = none ∨ ∃ a, x.spillAt = some a ∧ ¬ x.wsl < a + 64 := by
  unfold Ctx.spillAt
  split_ifs with hdue
  · have hfit := h.resolve_left (by omega)
    exact .inr ⟨x.wsp, rfl, by omega⟩
  · exact .inl rfl

/-- The machine when context `k` of core `p` has entered its handler. -/
def State.atHandler (s : State) (p k : Nat) (tr : Trap) (tip : Word) : State :=
  { s.setCtx p k ((s.ctx p k).entered tr tip (s.core p).tvec s.free) with free := s.free + 8 }

theorem State.ctx_atHandler (s : State) (p k : Nat) (tr : Trap) (tip : Word) :
    (s.atHandler p k tr tip).ctx p k = (s.ctx p k).entered tr tip (s.core p).tvec s.free :=
  s.ctx_setCtx_self p k _

/-- With a handler and room for the spill, an exception puts its context into the handler; an exhausted
budget (0Ah) is also counted in the field record of the die. -/
theorem State.deliver_eq_entered {s : State} {p k : Nat} (tr : Trap) (tip : Word) (hv : (s.core p).tvec ≠ 0)
    (hroom : (s.ctx p k).entryRoom) :
    s.deliver p k tr tip = if tr.cause = 0x0A then (s.atHandler p k tr tip).field (0x1800 + 4 * dieOf p) 4
      else s.atHandler p k tr tip := by
  rw [State.deliver]
  change ((s.core p).ctx k).entryRoom at hroom
  obtain hs | ⟨a, hs, hfit⟩ := hroom.spill_fits
  · simp only [hs, hv, Bool.or_false, decide_false, Bool.false_eq_true, if_false]
    rfl
  · simp only [hs, hv, hfit, Bool.or_false, decide_false, Bool.false_eq_true, if_false]
    rfl

/-- A count in the platform's field records changes nothing else. -/
theorem Entered.field {s t : State} {p k : Nat} {tr : Trap} {tip : Word} (h : Entered s t p k tr tip)
    (hc : tr.cause = 10) (off bytes : Nat) : Entered s (t.field off bytes) p k tr tip where
  frame := h.frame
  place := h.place
  window := h.window
  kept := h.kept
  others := h.others
  cores := h.cores
  machine := ⟨by rw [h.machine.1]; rfl, fun hn => absurd hc hn⟩

theorem State.atHandler_entered (s : State) (p k : Nat) (tr : Trap) (tip : Word) :
    Entered s (s.atHandler p k tr tip) p k tr tip := by
  refine ⟨?_, ?_, ?_, ?_, fun q j => s.ctx_setCtx_ne _, s.core_setCtx_ctxs p k _, rfl, fun _ => rfl⟩
  all_goals rw [s.ctx_atHandler]
  · exact ⟨rfl, rfl, rfl, rfl, rfl⟩
  · exact ⟨rfl, rfl⟩
  · exact Ctx.window_entered _ tr tip _ _
  · exact Ctx.bare_entered _ tr tip _ _

theorem State.deliver_entered {s : State} {p k : Nat} (tr : Trap) (tip : Word) (hv : (s.core p).tvec ≠ 0)
    (hroom : (s.ctx p k).entryRoom) : Entered s (s.deliver p k tr tip) p k tr tip := by
  rw [State.deliver_eq_entered tr tip hv hroom]
  have hu := s.atHandler_entered p k tr tip
  split_ifs with hc
  · exact hu.field hc _ _
  · exact hu

/-- A precise trap in user mode enters the handler, at the slot that the trap names or else at its group. -/
theorem State.raise_entered {s : State} {p k : Nat} (tr : Trap) (tip : Word) (hm : (s.ctx p k).mode = false)
    (hv : (s.core p).tvec ≠ 0) (hroom : (s.ctx p k).entryRoom) :
    Entered s (s.raise p k tr tip) p k tr (tr.tip.getD tip) := by
  simpa [State.raise, hm] using State.deliver_entered tr (tr.tip.getD tip) hv hroom

/-! ### A slot alone -/

theorem runSlot_instr {w : Nat} {i : Instr} (s : State) (h : decodeSlot w = some i) : runSlot w s = exec i s := by
  rw [runSlot, h]

/-- What a slot that is no instruction raises: 01h, with bits 95:32 of the slot. -/
def illegalTrap (w : Nat) : Trap := { cause := 1, info := BitVec.ofNat 64 (w / 2 ^ 32) }

theorem State.illegal_alone {s : State} (w : Nat) (hp : s.pair = none) :
    s.illegal w = s.raise s.cur.1 s.cur.2 (illegalTrap w) s.me.ip := by
  rw [State.illegal, State.check, State.finish_alone s hp]
  rfl

theorem State.illegal_pair {s : State} (w : Nat) {p : Pair} (hp : s.pair = some p) :
    s.illegal w = { s with pair := some { p with ends := p.ends ++ [(s.ip, .trap 2 false (illegalTrap w))] } } := by
  rw [State.illegal, State.check, State.finish_pair s hp]
  rfl

/-! ### A slot behind the first member of a pair -/

/-- The first trap of a pair whose last member alone found one. -/
theorem pairTrap_concat {es : List (Word × End)} (h : pairTrap es = none) (ip : Word) (order : Nat) (keep : Bool)
    (tr : Trap) : pairTrap (es ++ [(ip, .trap order keep tr)]) = some (order, keep, tr) := by
  induction es with
  | nil => rfl
  | cons e es ih =>
    obtain ⟨ip', e⟩ := e
    cases e with
    | trap o k x =>
      simp only [pairTrap] at h
      split at h
      · split at h <;> cases h
      · cases h
    | next | ok _ | jump _ _ | notReady _ _ _ _ => exact ih h

/-- A trap that keeps nothing is taken at the pair's first slot, in the state before the group (R443). -/
theorem State.finishPair_suppressed (s0 : State) {s : State} {p : Pair} {order : Nat} {tr : Trap}
    (hp : s.pair = some p) (ht : pairTrap p.ends = some (order, false, tr)) :
    s0.finishPair s = State.raise { s0 with pair := none } s.cur.1 s.cur.2 tr p.ip := by
  simp [State.finishPair, hp, ht]

/-- A second slot that is no instruction suppresses a first member that ended without a trap. -/
theorem runPair_illegal_second {a b : Nat} {s t : State} {e : End} (hp : s.pair = none)
    (hb : decodeSlot b = none) (ha : runSlot a s.openPair = .next t) (hend : Ended s.openPair t e)
    (hcur : t.cur = s.cur) (he : ∀ ip, pairTrap [(ip, e)] = none) :
    runPair a b s = .next (s.raise s.cur.1 s.cur.2 (illegalTrap b) s.me.ip) := by
  obtain ⟨htp, -⟩ := hend
  have hs : { s with pair := none } = s := by rw [← hp]
  rw [runPair, ha]
  dsimp only
  rw [runSlot_illegal t hb, State.illegal_pair b htp]
  dsimp only
  rw [State.finishPair_suppressed s rfl (pairTrap_concat (he _) _ _ _ _), hs]
  simp [hcur]

/-- ADD ends without a trap in every state, its guard true or false, and changes its own context alone. -/
theorem exec_add_ended (o : ROp) (s : State) :
    ∃ t, exec (.add o) s = .next t ∧ Ended s t .next ∧ Alone s t := by
  cases hg : s.guard o.grd with
  | true =>
    obtain ⟨t, ht, hw, ha⟩ := intOp_gives hg (s.ival o.ty o.a + s.ival o.ty o.b)
    exact ⟨t, ht, hw.ended, ha⟩
  | false =>
    obtain ⟨t, ht, hw, ha⟩ := guarded_false_gives hg
      fun s' => s'.retire (s'.setG o.d (wint o.ty o.sat (s.ival o.ty o.a + s.ival o.ty o.b)))
    exact ⟨t, ht, hw.ended, ha⟩

theorem Alone.cur {s t : State} (h : Alone s t) : t.cur = s.cur := by rw [h.machine]

/-- Settles O11: `runSlot` looks at the encoding before any guard; the trap enters the handler as every
precise trap does, and in a pair it is the only one, which suppresses the ADD before it. -/
theorem illegalSlotTraps : Obligations.IllegalSlotTraps := by
  intro w1 w2 o s hp hill
  have halone : runSlot w2 s = .next (s.raise s.cur.1 s.cur.2 (illegalTrap w2) s.me.ip) := by
    rw [runSlot_illegal s hill, State.illegal_alone w2 hp]
  refine ⟨halone, fun hm hv hroom => ⟨_, halone, State.raise_entered (illegalTrap w2) s.me.ip hm hv hroom⟩,
    fun i g hd hg hn hs => ?_, fun hadd => ?_⟩
  · rw [runSlot_instr s hd]
    exact (guardedBy_of_guardOf hg hn).gives_nothing hs
  · obtain ⟨t, ht, hend, ha⟩ := exec_add_ended o s.openPair
    have hrun : runSlot w1 s.openPair = .next t := by rw [runSlot_instr _ hadd, ht]
    exact runPair_illegal_second hp hill hrun hend ha.cur fun _ => rfl

end Sys2Proof.Machine
end

section
/-! The encoder and the decoder of slots: every encoding is a word of 96 bits that is read back, and the bits of a slot
that its format leaves zero or reserves. Settles O1 and O2. -/

namespace Sys2Proof

/-! ### Bytes of a slot -/

theorem ofBytes_bytesOf (x n : Nat) : ofBytes (bytesOf x n) = x % 256 ^ n := by
  induction n generalizing x with
  | zero => simp [bytesOf, ofBytes, Nat.mod_one]
  | succ n ih => rw [bytesOf, ofBytes, ih, Nat.pow_succ', Nat.mod_mul, BitVec.toNat_ofNat]

theorem length_bytesOf (x n : Nat) : (bytesOf x n).length = n := by
  induction n generalizing x with
  | zero => rfl
  | succ n ih => rw [bytesOf, List.length_cons, ih]

/-- A slot comes back from the bytes of its fetch line. -/
theorem decodeBytes_slotBytes {w : Nat} (h : w < 2 ^ 96) : decodeBytes (slotBytes w) = decodeSlot w := by
  have hw : ofBytes (bytesOf w 12) = w := by
    rw [ofBytes_bytesOf, show (256 : Nat) ^ 12 = 2 ^ 96 by norm_num, Nat.mod_eq_of_lt h]
  rw [decodeBytes, slotBytes, length_bytesOf, if_pos rfl, hw]

/-! ### Every instruction -/

/-- The laws of the encodings, together. -/
theorem encode_statement (i : Instr) : Laws.F.Statement i := by
  cases i with
  | nop => exact Laws.F.nop | add o => exact Laws.F.add o | sub o => exact Laws.F.sub o | addi o => exact Laws.F.addi o
  | mul o => exact Laws.F.mul o | mulh o => exact Laws.F.mulh o | divI o => exact Laws.F.divI o
  | remI o => exact Laws.F.remI o | andI o => exact Laws.F.andI o | orI o => exact Laws.F.orI o
  | xorI o => exact Laws.F.xorI o | andn o => exact Laws.F.andn o | shl o => exact Laws.F.shl o
  | shr o => exact Laws.F.shr o | sra o => exact Laws.F.sra o | rot o => exact Laws.F.rot o
  | clz o => exact Laws.F.clz o | ctz o => exact Laws.F.ctz o | popc o => exact Laws.F.popc o
  | minI o => exact Laws.F.minI o | maxI o => exact Laws.F.maxI o | cmp o => exact Laws.F.cmp o
  | sel o => exact Laws.F.sel o | movi o => exact Laws.F.movi o | lea o => exact Laws.F.lea o
  | bfx o => exact Laws.F.bfx o | bfi o => exact Laws.F.bfi o | bswap o => exact Laws.F.bswap o
  | movp o => exact Laws.F.movp o | pset o => exact Laws.F.pset o | fadd o => exact Laws.F.fadd o
  | fsub o => exact Laws.F.fsub o | fmul o => exact Laws.F.fmul o | ffma o => exact Laws.F.ffma o
  | fdiv o => exact Laws.F.fdiv o | fsqrt o => exact Laws.F.fsqrt o | fmin o => exact Laws.F.fmin o
  | fmax o => exact Laws.F.fmax o | fcmp o => exact Laws.F.fcmp o | fcvt o => exact Laws.F.fcvt o
  | fclass o => exact Laws.F.fclass o | fsgn o => exact Laws.F.fsgn o | br o => exact Laws.F.br o
  | boc o => exact Laws.F.boc o | call o => exact Laws.F.call o | ret o => exact Laws.F.ret o
  | jmp o => exact Laws.F.jmp o | calli o => exact Laws.F.calli o | loopI o => exact Laws.F.loopI o
  | yieldI o => exact Laws.F.yieldI o | park o => exact Laws.F.park o | enter o => exact Laws.F.enter o
  | leave o => exact Laws.F.leave o | endI o => exact Laws.F.endI o | ld o => exact Laws.F.ld o
  | st o => exact Laws.F.st o | ldw o => exact Laws.F.ldw o | ldc o => exact Laws.F.ldc o | stf o => exact Laws.F.stf o
  | ste o => exact Laws.F.ste o | feq o => exact Laws.F.feq o | feset o => exact Laws.F.feset o
  | ldl o => exact Laws.F.ldl o | stl o => exact Laws.F.stl o | ldb o => exact Laws.F.ldb o
  | stb o => exact Laws.F.stb o | ldk o => exact Laws.F.ldk o | wld o => exact Laws.F.wld o
  | pfx o => exact Laws.F.pfx o | acq o => exact Laws.F.acq o | rel o => exact Laws.F.rel o
  | fence o => exact Laws.F.fence o | aadd o => exact Laws.F.aadd o | aand o => exact Laws.F.aand o
  | aor o => exact Laws.F.aor o | axor o => exact Laws.F.axor o | amin o => exact Laws.F.amin o
  | amax o => exact Laws.F.amax o | aswp o => exact Laws.F.aswp o | acas o => exact Laws.F.acas o
  | afadd o => exact Laws.F.afadd o | rsta o => exact Laws.F.rsta o | swait o => exact Laws.F.swait o
  | ssig o => exact Laws.F.ssig o | sset o => exact Laws.F.sset o | msend o => exact Laws.F.msend o
  | mrd o => exact Laws.F.mrd o | bara o => exact Laws.F.bara o | barw o => exact Laws.F.barw o
  | doneI o => exact Laws.F.doneI o | startI o => exact Laws.F.startI o | hchk o => exact Laws.F.hchk o
  | rpop o => exact Laws.F.rpop o | rdec o => exact Laws.F.rdec o | take o => exact Laws.F.take o
  | give o => exact Laws.F.give o | mret o => exact Laws.F.mret o | vadd o => exact Laws.F.vadd o
  | vsub o => exact Laws.F.vsub o | vmul o => exact Laws.F.vmul o | vfma o => exact Laws.F.vfma o
  | vmin o => exact Laws.F.vmin o | vmax o => exact Laws.F.vmax o | vabs o => exact Laws.F.vabs o
  | vcmp o => exact Laws.F.vcmp o | vsel o => exact Laws.F.vsel o | vand o => exact Laws.F.vand o
  | vor o => exact Laws.F.vor o | vxor o => exact Laws.F.vxor o | vshl o => exact Laws.F.vshl o
  | vshr o => exact Laws.F.vshr o | vcvt o => exact Laws.F.vcvt o | vexp2 o => exact Laws.F.vexp2 o
  | vlog2 o => exact Laws.F.vlog2 o | vrcp o => exact Laws.F.vrcp o | vrsq o => exact Laws.F.vrsq o
  | vred o => exact Laws.F.vred o | vscan o => exact Laws.F.vscan o | vperm o => exact Laws.F.vperm o
  | vgath o => exact Laws.F.vgath o | vscat o => exact Laws.F.vscat o | vqnt o => exact Laws.F.vqnt o
  | vdq o => exact Laws.F.vdq o | vmov o => exact Laws.F.vmov o | vld o => exact Laws.F.vld o
  | vst o => exact Laws.F.vst o | vmrg o => exact Laws.F.vmrg o | vbsr o => exact Laws.F.vbsr o
  | mld o => exact Laws.F.mld o | mst o => exact Laws.F.mst o | mma o => exact Laws.F.mma o
  | mzero o => exact Laws.F.mzero o | mtrn o => exact Laws.F.mtrn o | mcvt o => exact Laws.F.mcvt o
  | mscl o => exact Laws.F.mscl o | macc o => exact Laws.F.macc o | mstat o => exact Laws.F.mstat o
  | capp o => exact Laws.F.capp o | cadv o => exact Laws.F.cadv o | cseq o => exact Laws.F.cseq o
  | clck o => exact Laws.F.clck o | culk o => exact Laws.F.culk o | evpop o => exact Laws.F.evpop o
  | csrr o => exact Laws.F.csrr o | csrw o => exact Laws.F.csrw o | csrs o => exact Laws.F.csrs o
  | csrc o => exact Laws.F.csrc o | trap o => exact Laws.F.trap o | eret o => exact Laws.F.eret o
  | invl o => exact Laws.F.invl o | wbk o => exact Laws.F.wbk o | perm o => exact Laws.F.perm o
  | bkpt o => exact Laws.F.bkpt o | markI o => exact Laws.F.markI o | dstp o => exact Laws.F.dstp o
  | _ => exact Laws.F.of_none _ rfl

theorem decodeSlot_encode {i : Instr} {w : Nat} (hl : legal i = true) (hw : encode i = some w) :
    decodeSlot w = some i := by
  simp [decodeSlot, (encode_statement i w hw).2, hl, hw]

/-! ### What a format reserves -/

/-- A field stands above the fields below it. -/
theorem fld_pack (low : List (Nat × Nat)) (n v : Nat) (high : List (Nat × Nat)) :
    fld (pack (low ++ (n, v) :: high)) (widthOf low) n = v % 2 ^ n := by
  simp [fld, pack_append_div, pack]

theorem fld_type_lt (low : List (Nat × Nat)) (hl : widthOf low = 79) (t : Ty) (high : List (Nat × Nat)) :
    fld (pack (low ++ (5, t.code) :: high)) 79 5 < 0x13 := by
  rw [← hl, fld_pack, Nat.mod_eq_of_lt t.code_lt]
  cases t <;> decide

/-- The ranges of opcodes that R215 does not assign. -/
noncomputable def unassigned : List (Nat × Nat) :=
  [(0x1E, 0x1F), (0x2C, 0x2F), (0x3C, 0x3F), (0x52, 0x5F), (0x6A, 0x6F), (0x7F, 0x7F), (0x9F, 0xAF), (0xB9, 0xBF),
    (0xC6, 0xCF), (0xDC, 0xFF)]

/-- The opcode of an instruction of format R (R215). -/
abbrev IsROpcode (c : Nat) : Prop :=
  1 ≤ c ∧ c ≤ 0x2B ∧ c ≠ 0x03 ∧ c ≠ 0x17 ∨
    c ∈ [0x33, 0x34, 0x35, 0x37, 0x38, 0x3A, 0x3B, 0x4F, 0x77, 0x7E, 0xD5, 0xD6, 0xD7, 0xD8, 0xDB]

/-- What the opcode `c` of an instruction says of the fields `fs` below it. -/
structure Slotted (c : Nat) (fs : List (Nat × Nat)) : Prop where
  width : widthOf fs = 88
  byte : c < 2 ^ 8
  assigned : ∀ r ∈ unassigned, ¬ (r.1 ≤ c ∧ c ≤ r.2)
  coded : c ≠ 0
  typed : ¬ (0xB0 ≤ c ∧ c ≤ 0xB8) → ∀ high, fld (pack (fs ++ high)) 79 5 < 0x13
  low : IsROpcode c → ∀ high, fld (pack (fs ++ high)) 0 44 = 0

/-! ### The fields at bit 79 and at bit 0 -/

theorem ROp.fld_type (o : ROp) (high : List (Nat × Nat)) : fld (pack (o.fields ++ high)) 79 5 < 0x13 :=
  fld_type_lt (o.fields.take 9) rfl o.ty _
theorem IOp.fld_type (o : IOp) (high : List (Nat × Nat)) : fld (pack (o.fields ++ high)) 79 5 < 0x13 :=
  fld_type_lt (o.fields.take 4) rfl o.ty _
theorem MOp.fld_type (o : MOp) (high : List (Nat × Nat)) : fld (pack (o.fields ++ high)) 79 5 < 0x13 :=
  fld_type_lt (o.fields.take 8) rfl o.ty _
theorem EOp.fld_type (o : EOp) (high : List (Nat × Nat)) : fld (pack (o.fields ++ high)) 79 5 < 0x13 :=
  fld_type_lt (o.fields.take 9) rfl .none _
theorem VOp.fld_type (o : VOp) (high : List (Nat × Nat)) : fld (pack (o.fields ++ high)) 79 5 < 0x13 :=
  fld_type_lt (o.fields.take 13) rfl o.ty _

/-- Format B has eight zeros at bit 76, the type code among them. -/
theorem BOp.fld_type (o : BOp) (high : List (Nat × Nat)) : fld (pack (o.fields ++ high)) 79 5 < 0x13 := by
  have h : pack (o.fields ++ high) / 2 ^ 76 = 2 ^ 8 * pack ((4, o.grd.code) :: high) :=
    (pack_append_div (o.fields.take 6) ((8, 0) :: (4, o.grd.code) :: high)).trans (Nat.zero_add _)
  rw [fld, show (2 : Nat) ^ 79 = 2 ^ 76 * 2 ^ 3 by norm_num, ← Nat.div_div_eq_div_mul, h]
  omega

/-- Format R has 44 zeros at bit 0. -/
theorem ROp.fld_low (o : ROp) (high : List (Nat × Nat)) : fld (pack (o.fields ++ high)) 0 44 = 0 :=
  fld_pack [] 44 0 _

/-- The opcodes that R215 assigns, other than zero, one bit for each. -/
noncomputable def assignedMask : Nat := 0xFFF003F01FF00007FFFFFFF7FFF03FF0003FFFF0FFF0FFF3FFFFFFE

/-- Those of them whose format is not R. -/
noncomputable def otherMask : Nat := 0x61F003F01FF00007FFFFFFF3F7F03FF00037FFF0247000000800008

theorem clear_of_range {m a b c : Nat} (h : m / 2 ^ a % 2 ^ (b + 1 - a) = 0) (hc : a ≤ c ∧ c ≤ b) :
    m.testBit c = false := by
  have hbit : (m / 2 ^ a % 2 ^ (b + 1 - a)).testBit (c - a) = m.testBit c := by
    rw [Nat.testBit_mod_two_pow, Nat.testBit_div_two_pow, decide_eq_true (by omega : c - a < b + 1 - a), Bool.true_and,
      show c - a + a = c by omega]
  rw [← hbit, h, Nat.zero_testBit]

theorem assigned_of_mask {c : Nat} (h : assignedMask.testBit c = true) :
    c < 2 ^ 8 ∧ c ≠ 0 ∧ ∀ r ∈ unassigned, ¬ (r.1 ≤ c ∧ c ≤ r.2) := by
  have hclear : ∀ r ∈ (0, 0) :: unassigned, assignedMask / 2 ^ r.1 % 2 ^ (r.2 + 1 - r.1) = 0 := by decide
  have hout : ∀ r ∈ (0, 0) :: unassigned, ¬ (r.1 ≤ c ∧ c ≤ r.2) := fun r hr hc => by
    rw [clear_of_range (hclear r hr) hc] at h
    cases h
  refine ⟨?_, fun h0 => hout _ (List.mem_cons_self ..) ⟨by omega, by omega⟩,
    fun r hr => hout r (List.mem_cons_of_mem _ hr)⟩
  by_contra hc
  rw [Nat.testBit_lt_two_pow (Nat.lt_of_lt_of_le (by decide : assignedMask < 2 ^ 256)
    (Nat.pow_le_pow_right (by decide) (by omega)))] at h
  cases h

theorem other_of_mask {c : Nat} (h : otherMask.testBit c = true) :
    assignedMask.testBit c = true ∧ ¬ IsROpcode c := by
  refine ⟨?_, fun hR => ?_⟩
  · have hsub : (assignedMask &&& otherMask).testBit c = true := by
      rw [show assignedMask &&& otherMask = otherMask by decide, h]
    rw [Nat.testBit_and, Bool.and_eq_true] at hsub
    exact hsub.1
  · have hclear : otherMask.testBit c = false := by
      obtain ⟨h1, h2, h3, h4⟩ | hR := hR
      · have hrange : ∀ r ∈ [(1, 2), (4, 0x16), (0x18, 0x2B)],
            otherMask / 2 ^ r.1 % 2 ^ (r.2 + 1 - r.1) = 0 := by
          decide
        have hcase : (1 ≤ c ∧ c ≤ 2) ∨ (4 ≤ c ∧ c ≤ 0x16) ∨ (0x18 ≤ c ∧ c ≤ 0x2B) := by omega
        obtain hc | hc | hc := hcase
        · exact clear_of_range (hrange (1, 2) (by decide)) hc
        · exact clear_of_range (hrange (4, 0x16) (by decide)) hc
        · exact clear_of_range (hrange (0x18, 0x2B) (by decide)) hc
      · have hsingle : ∀ c ∈ [0x33, 0x34, 0x35, 0x37, 0x38, 0x3A, 0x3B, 0x4F, 0x77, 0x7E, 0xD5, 0xD6, 0xD7, 0xD8,
            0xDB], otherMask.testBit c = false := by decide
        exact hsingle c hR
    rw [hclear] at h
    cases h

theorem Slotted.of_other {c : Nat} {fs : List (Nat × Nat)} (hw : widthOf fs = 88) (hc : otherMask.testBit c = true)
    (ht : ¬ (0xB0 ≤ c ∧ c ≤ 0xB8) → ∀ high, fld (pack (fs ++ high)) 79 5 < 0x13) : Slotted c fs :=
  have ⟨ha, hn⟩ := other_of_mask hc
  have ⟨hb, h0, hr⟩ := assigned_of_mask ha
  ⟨hw, hb, hr, h0, ht, fun hR => absurd hR hn⟩

/-- What R199, R201 and R215 say of an instruction: the slot of NOP is all zeros, a machine event has neither an
encoding nor a legal form. -/
inductive SlotOrEvent : Instr → Prop
  | nop : SlotOrEvent .nop
  | slot {i : Instr} {c : Nat} {fs : List (Nat × Nat)} (h : opcFields i = some (c, fs)) (hs : Slotted c fs) :
    SlotOrEvent i
  | event {i : Instr} (h : opcFields i = none) (hl : legal i = false) : SlotOrEvent i

theorem ROp.hasSlot {i : Instr} {c : Nat} (o : ROp) (h : opcFields i = some (c, o.fields))
    (hc : assignedMask.testBit c = true) : SlotOrEvent i :=
  have ⟨hb, h0, hr⟩ := assigned_of_mask hc
  .slot h ⟨o.width, hb, hr, h0, fun _ => o.fld_type, fun _ => o.fld_low⟩
theorem IOp.hasSlot {i : Instr} {c : Nat} (o : IOp) (h : opcFields i = some (c, o.fields))
    (hc : otherMask.testBit c = true) : SlotOrEvent i :=
  .slot h (.of_other o.width hc fun _ => o.fld_type)
theorem BOp.hasSlot {i : Instr} {c : Nat} (o : BOp) (h : opcFields i = some (c, o.fields))
    (hc : otherMask.testBit c = true) : SlotOrEvent i :=
  .slot h (.of_other o.width hc fun _ => o.fld_type)
theorem MOp.hasSlot {i : Instr} {c : Nat} (o : MOp) (h : opcFields i = some (c, o.fields))
    (hc : otherMask.testBit c = true) : SlotOrEvent i :=
  .slot h (.of_other o.width hc fun _ => o.fld_type)
theorem EOp.hasSlot {i : Instr} {c : Nat} (o : EOp) (h : opcFields i = some (c, o.fields))
    (hc : otherMask.testBit c = true) : SlotOrEvent i :=
  .slot h (.of_other o.width hc fun _ => o.fld_type)
theorem VOp.hasSlot {i : Instr} {c : Nat} (o : VOp) (h : opcFields i = some (c, o.fields))
    (hc : otherMask.testBit c = true) : SlotOrEvent i :=
  .slot h (.of_other o.width hc fun _ => o.fld_type)

/-- The X format gives bit 79 to another field; its opcodes are the ones that may (R201). -/
theorem XOp.hasSlot {i : Instr} {c : Nat} (o : XOp) (h : opcFields i = some (c, o.fields))
    (hc : otherMask.testBit c = true) (hx : (Nat.ble 0xB0 c && c.ble 0xB8) = true) : SlotOrEvent i :=
  .slot h (.of_other o.width hc fun hn => by
    simp only [Bool.and_eq_true, Nat.ble_eq] at hx
    exact absurd hx hn)

/-- Format by format. -/
theorem slotOrEvent (i : Instr) : SlotOrEvent i := by
  cases i with
  | nop => exact .nop
  | add o | sub o | mul o | mulh o | divI o | remI o | andI o | orI o | xorI o | andn o | shl o
  | shr o | sra o | rot o | clz o | ctz o | popc o | minI o | maxI o | cmp o | sel o | lea o | bfx o
  | bfi o | bswap o | movp o | pset o | fadd o | fsub o | fmul o | ffma o | fdiv o | fsqrt o
  | fmin o | fmax o | fcmp o | fcvt o | fclass o | fsgn o | ret o | jmp o | calli o | yieldI o
  | park o | leave o | endI o | acq o | doneI o | mret o | eret o | invl o | wbk o | perm o
  | dstp o =>
    exact o.hasSlot rfl rfl
  | addi o | movi o | enter o | csrr o | csrw o | csrs o | csrc o | trap o | bkpt o | markI o =>
    exact o.hasSlot rfl rfl
  | br o | boc o | call o | loopI o =>
    exact o.hasSlot rfl rfl
  | ld o | st o | ldw o | ldc o | stf o | ste o | feq o | feset o | ldl o | stl o | ldb o | stb o
  | ldk o | wld o | pfx o | rel o | fence o | aadd o | aand o | aor o | axor o | amin o | amax o
  | aswp o | acas o | afadd o | rsta o =>
    exact o.hasSlot rfl rfl
  | swait o | ssig o | sset o | msend o | mrd o | bara o | barw o | startI o | hchk o | rpop o
  | rdec o | take o | give o | capp o | cadv o | cseq o | clck o | culk o | evpop o =>
    exact o.hasSlot rfl rfl
  | vadd o | vsub o | vmul o | vfma o | vmin o | vmax o | vabs o | vcmp o | vsel o | vand o | vor o
  | vxor o | vshl o | vshr o | vcvt o | vexp2 o | vlog2 o | vrcp o | vrsq o | vred o | vscan o
  | vperm o | vgath o | vscat o | vqnt o | vdq o | vmov o | vld o | vst o | vmrg o | vbsr o =>
    exact o.hasSlot rfl rfl
  | mld o | mst o | mma o | mzero o | mtrn o | mcvt o | mscl o | macc o | mstat o =>
    exact o.hasSlot rfl rfl rfl
  | _ => exact .event rfl rfl

/-- Machine events are not legal, so a legal instruction has an encoding. -/
theorem encoded_of_legal {i : Instr} (h : legal i = true) : i.Encoded := by
  cases slotOrEvent i with
  | nop => rfl
  | slot hf _ => exact Option.isSome_of_eq_some hf
  | event _ hn =>
    rw [hn] at h
    cases h

/-- Settles O1: a legal instruction has an encoding, and every format's fields are read back as they were packed. -/
theorem decodeOfEncode : Obligations.DecodeOfEncode := by
  intro i hi
  obtain ⟨p, hp⟩ := Option.isSome_iff_exists.1 (encoded_of_legal hi)
  have hw : encode i = some (pack (p.2 ++ [(8, p.1)])) := by rw [encode, hp, Option.map_some]
  obtain ⟨hlt, -⟩ := encode_statement i _ hw
  have hd := decodeSlot_encode hi hw
  exact ⟨_, hw, hlt, hd, (decodeBytes_slotBytes hlt).trans hd⟩

/-- A slot that holds an instruction is the slot of zeros, or its opcode says what its fields may be. -/
theorem slotted_of_decodeSlot {w : Nat} {i : Instr} (h : decodeSlot w = some i) :
    w = 0 ∨ ∃ fs, w = pack (fs ++ [(8, fld w 88 8)]) ∧ Slotted (fld w 88 8) fs := by
  obtain ⟨-, hw⟩ := decodeSlot_some h
  cases slotOrEvent i with
  | nop => exact .inl (eq_zero_of_encode_nop hw)
  | @slot _ c fs hf hs =>
    rw [encode, hf] at hw
    obtain rfl := Option.some.inj hw
    have hc : fld (pack (fs ++ [(8, c)])) 88 8 = c := by
      rw [← hs.width, fld_pack, Nat.mod_eq_of_lt hs.byte]
    rw [hc]
    exact .inr ⟨fs, rfl, hs⟩
  | event hn _ =>
    rw [encode, hn] at hw
    cases hw

/-- A slot that no instruction's fields fit holds none. -/
theorem decodeSlot_eq_none {w : Nat} (h0 : w ≠ 0)
    (h : ∀ fs, w = pack (fs ++ [(8, fld w 88 8)]) → ¬ Slotted (fld w 88 8) fs) : decodeSlot w = none := by
  refine Option.eq_none_iff_forall_ne_some.2 fun i hi => ?_
  obtain hz | ⟨fs, hw, hs⟩ := slotted_of_decodeSlot hi
  · exact h0 hz
  · exact h fs hw hs

theorem ne_zero_of_fld {w lo n : Nat} (h : fld w lo n ≠ 0) : w ≠ 0 := by
  rintro rfl
  simp [fld] at h

/-- Settles O2: a slot that decodes is the encoding of what it holds; a reserved slot is no encoding, whose fields
all keep to their format. -/
theorem decodeDropsNoBit : Obligations.DecodeDropsNoBit := by
  refine ⟨fun w i h => ?_, fun w => ⟨Machine.decodeSlot_reserved_guard, fun hx ht => ?_, fun r hr hlo hhi => ?_,
    fun hc h0 => ?_, fun hR hlow => ?_⟩⟩
  · obtain ⟨hl, hw⟩ := decodeSlot_some h
    exact ⟨hl, hw, (encode_statement i w hw).1⟩
  · refine decodeSlot_eq_none (ne_zero_of_fld (lo := 79) (n := 5) (by omega)) fun fs hw hs => ?_
    have hlt := hs.typed hx [(8, fld w 88 8)]
    rw [← hw] at hlt
    omega
  · have hpos : ∀ r ∈ unassigned, 0 < r.1 := by decide
    have h0 := hpos r hr
    have hw := ne_zero_of_fld (w := w) (lo := 88) (n := 8) (by omega)
    exact decodeSlot_eq_none hw fun fs _ hs => hs.assigned r hr ⟨hlo, hhi⟩
  · exact decodeSlot_eq_none h0 fun fs _ hs => hs.coded hc
  · refine decodeSlot_eq_none (ne_zero_of_fld hlow) fun fs hw hs => hlow ?_
    have hz := hs.low hR [(8, fld w 88 8)]
    rwa [← hw] at hz

end Sys2Proof
end

section
/-! Words of the manual that decode, the state after reset, and the step of the machine as the run of the slot that
the executing context stands at. Settles O3, O58 and O59. -/

namespace Sys2Proof

/-- Settles O3: each word is the encoding of the legal instruction that it stands for. -/
theorem decodeWords : Obligations.DecodeWords :=
  ⟨decodeSlot_encode rfl rfl, decodeSlot_encode rfl rfl, decodeSlot_encode rfl rfl, decodeSlot_encode rfl rfl,
    decodeSlot_encode rfl rfl, decodeSlot_encode rfl rfl, decodeSlot_encode rfl rfl, decodeSlot_encode rfl rfl,
    decodeSlot_encode rfl rfl, decodeSlot_encode rfl rfl, decodeSlot_encode rfl rfl, decodeSlot_encode rfl rfl,
    decodeSlot_encode rfl rfl, decodeSlot_encode rfl rfl, decodeSlot_encode rfl rfl⟩

end Sys2Proof

namespace Sys2Proof.Machine
open Sys2Proof

/-- Settles O58: no table of the reset state lists anything, so every entry reads as its default. -/
theorem resetState : Obligations.ResetState := by
  refine ⟨State.reset_wf, rfl, fun a => ⟨rfl, rfl⟩, rfl, rfl, rfl, rfl, rfl, rfl, rfl, fun p => ?_, fun _ => rfl,
    fun _ => ⟨rfl, rfl, rfl, rfl, rfl, rfl, rfl, rfl, rfl, rfl, rfl, rfl, rfl⟩,
    ⟨rfl, rfl, rfl, rfl, rfl, rfl, rfl, rfl⟩, fun _ => rfl, fun _ => ⟨rfl, rfl, rfl⟩, fun _ => rfl, rfl, rfl, rfl, rfl⟩
  exact ⟨rfl, fun k => rfl, rfl, rfl, rfl, rfl, rfl, rfl, rfl⟩

/-! ### One step -/

/-- The state in which the event that is due acts, and that event. -/
def StepActs (s s0 : State) (e : Instr) : Prop :=
  (s.agenda = [] ∧ e = .issueSelection s.turn ∧ s0 = { s with ticks := s.ticks + (s.core s.turn).cycleTicks }) ∨
    ∃ d rest, s.agenda = d :: rest ∧ e = d.event ∧ (opcFields e).isSome = false ∧
      s0 = { s with agenda := rest, ticks := s.ticks + d.wait }

theorem step_of_due {s s0 : State} {e : Instr} (h : StepActs s s0 e) : step s = runEvent e s0 := by
  obtain ⟨ha, rfl, rfl⟩ | ⟨d, rest, ha, rfl, he, rfl⟩ := h
  · rw [step, ha]
  · rw [step, ha]
    simp only [he, Bool.false_eq_true, if_false]

/-- What an event does, the group that it makes issue with it. -/
theorem runEvent_next {s u t : State} {e : Instr} (he : exec e s = .next u) (hu : runIssue u = .next t) :
    runEvent e s = .next (s.traceStep t) := by
  rw [runEvent, he]
  dsimp only
  rw [hu]

theorem runEvent_fault {s u : State} {e : Instr} {f : Fault} (he : exec e s = .next u) (hu : runIssue u = .fault f) :
    runEvent e s = .fault f := by
  rw [runEvent, he]
  dsimp only
  rw [hu]

theorem runIssue_none {u : State} (h : u.issue = false) : runIssue u = .next u := by
  simp [runIssue, h]

/-- The group of the chosen context runs, and the cycle of its core ends. -/
theorem runIssue_next {u t : State} (h : u.issue = true) (ht : runGroup { u with issue := false } = .next t) :
    runIssue u = .next (t.tick u.cur.1) := by
  rw [runIssue, h, if_pos rfl, ht]

theorem runIssue_fault {u : State} {f : Fault} (h : u.issue = true)
    (ht : runGroup { u with issue := false } = .fault f) : runIssue u = .fault f := by
  rw [runIssue, h, if_pos rfl, ht]

theorem runPair_next {a b : Nat} {s v t : State} (ha : runSlot a s.openPair = .next v) (hb : runSlot b v = .next t) :
    runPair a b s = .next (s.finishPair t) := by
  rw [runPair, ha]
  dsimp only
  rw [hb]

/-! ### The group of a context -/

/-- R195, R282: a line that is entered without the right to execute is a trap. -/
theorem State.fetchGroup_denied {s : State} (hip : ipOk s.me.ip = true) (hl : s.me.line ≠ some (lineOf s.me.ip))
    (ha : s.myCore.allowed (lineOf s.me.ip) rX = false) :
    s.fetchGroup = .stop (s.raise s.cur.1 s.cur.2 { cause := 6, info := lineOf s.me.ip } s.me.ip) := by
  have hl' : (s.me.line != some (lineOf s.me.ip)) = true := by simpa using hl
  simp [State.fetchGroup, hip, hl', ha]

/-- What a sound line in the instruction cache offers to the context that stands in it. -/
theorem State.fetchGroup_line {s : State} {l : ILine} (hip : ipOk s.me.ip = true)
    (hc : s.myCore.icache.find? (lineKey s.myCore.dom s.me.ip) = some l)
    (hl : s.me.line = some (lineOf s.me.ip) ∨ s.myCore.allowed (lineOf s.me.ip) rX = true)
    (he : s.me.entryCheck = false ∨ l.landAt (s.me.ip.toNat % 8) = true) (hf : l.pairFault = false)
    (hp : l.slotPoison (s.me.ip.toNat % 8) = false) :
    let n := s.me.ip.toNat % 8
    let w := (l.slots[n]?).getD 0
    let w' := (l.slots[n + 1]?).getD 0
    let u := s.setMe { s.me with entryCheck := false, line := some (lineOf s.me.ip) }
    (l.pairAt n = false → s.fetchGroup = .one u w) ∧
    (l.pairAt n = true → pairBad w w' = false → l.slotPoison (n + 1) = false → s.fetchGroup = .two u w w') := by
  have hin : (s.me.line != some (lineOf s.me.ip) && !s.myCore.allowed (lineOf s.me.ip) rX) = false := by
    obtain h | h := hl <;> simp [h]
  have hland : (s.me.entryCheck && !l.landAt (s.me.ip.toNat % 8)) = false := by
    obtain h | h := he <;> simp [h]
  exact ⟨fun h => by simp [State.fetchGroup, hip, hin, hc, hf, h, hland, hp],
    fun h hb hp' => by simp [State.fetchGroup, hip, hin, hc, hf, h, hland, hp, hb, hp']⟩

/-- Settles O59: `step` runs the event that is due, then the group that the state offers, each slot by its
decoding. -/
theorem stepRunsTheDecodedInstruction : Obligations.StepRunsTheDecodedInstruction := by
  refine ⟨fun s s0 u e hdue he => ?_, fun t q => rfl, fun s l => ⟨State.fetchGroup_denied, State.fetchGroup_line⟩⟩
  rw [step_of_due hdue]
  refine ⟨fun hu => runEvent_next he (runIssue_none hu), fun hu => ?_⟩
  have run : ∀ t, runGroup { u with issue := false } = .next t →
      runEvent e s0 = .next (s0.traceStep (t.tick u.cur.1)) := fun t ht => runEvent_next he (runIssue_next hu ht)
  refine ⟨fun u1 hg => run _ ?_, fun u1 w i t hg hd hi => run _ ?_, fun u1 w i f hg hd hi => ?_,
    fun u1 w hg hd => run _ ?_, fun u1 a b i j v t hg ha hb hi hj => run _ ?_, fun u1 b j t hg hb hj => run _ ?_,
    fun u1 a i v hg ha hi => run _ ?_⟩
  · rw [runGroup, hg]
  · rw [runGroup, hg]
    exact (runSlot_instr _ hd).trans hi
  · refine runEvent_fault he (runIssue_fault hu ?_)
    rw [runGroup, hg]
    exact (runSlot_instr _ hd).trans hi
  · rw [runGroup, hg]
    exact runSlot_illegal _ hd
  · rw [runGroup, hg]
    exact runPair_next ((runSlot_instr _ ha).trans hi) ((runSlot_instr _ hb).trans hj)
  · rw [runGroup, hg]
    simp only [runHalf, if_true, runSlot_instr _ hb, hj]
  · rw [runGroup, hg]
    simp only [runHalf, Bool.false_eq_true, if_false, runSlot_instr _ ha, hi]

end Sys2Proof.Machine
end

section
/-! What the integer instructions write (R224–R229). Settles O4. -/

namespace Sys2Proof

/-! ### Two's-complement patterns -/

theorem toBits_lt (x : Int) (n : Nat) : toBits x n < 2 ^ n := by
  have h0 := Int.emod_nonneg x (show ((2 ^ n : Nat) : Int) ≠ 0 by positivity)
  have h1 := Int.emod_lt_of_pos x (show 0 < ((2 ^ n : Nat) : Int) by positivity)
  unfold toBits
  omega

theorem cast_toBits (x : Int) (n : Nat) : (toBits x n : Int) = x % ((2 ^ n : Nat) : Int) :=
  Int.toNat_of_nonneg (Int.emod_nonneg x (by positivity))

/-- The low bits of a pattern are the pattern of fewer bits. -/
theorem toBits_mod (x : Int) {n m : Nat} (h : n ≤ m) : toBits x m % 2 ^ n = toBits x n := by
  apply Int.natCast_inj.1
  rw [Int.natCast_mod, cast_toBits, cast_toBits,
    Int.emod_emod_of_dvd x (Int.natCast_dvd_natCast.2 (Nat.pow_dvd_pow 2 h))]

/-- A number of `n` bits is the pattern of its signed reading. -/
theorem toBits_sextInt (x n : Nat) : toBits (sextInt x n) n = x % 2 ^ n := by
  apply Int.natCast_inj.1
  rw [cast_toBits, Int.natCast_mod, sextInt]
  obtain rfl | hn := Nat.eq_zero_or_pos n
  · simp
  · simp only [hn.ne', if_false]
    split_ifs <;> simp

/-- The signed reading looks at the low bits. -/
theorem sextInt_mod (x n : Nat) : sextInt (x % 2 ^ n) n = sextInt x n := by
  simp [sextInt]

theorem two_pow_eq_add_half {n : Nat} (hn : n ≠ 0) : 2 ^ n = 2 ^ (n - 1) + 2 ^ (n - 1) := by
  obtain ⟨k, rfl⟩ := Nat.exists_eq_succ_of_ne_zero hn
  rw [Nat.succ_sub_one, Nat.pow_succ]
  omega

/-- The signed reading of a pattern of an integer within its bounds is that integer. -/
theorem sextInt_toBits {x : Int} {n : Nat} (hn : n ≠ 0) (hlo : -((2 ^ (n - 1) : Nat) : Int) ≤ x)
    (hhi : x ≤ ((2 ^ (n - 1) : Nat) : Int) - 1) : sextInt (toBits x n) n = x := by
  have hpow := two_pow_eq_add_half hn
  have hb := toBits_lt x n
  have hc := cast_toBits x n
  rw [sextInt, if_neg hn, Nat.mod_eq_of_lt hb]
  rw [hpow] at hc ⊢
  generalize 2 ^ (n - 1) = h at *
  by_cases hx : 0 ≤ x
  · rw [Int.emod_eq_of_lt hx (by omega)] at hc
    rw [if_neg (by omega), hc]
  · have : x % ((h + h : Nat) : Int) = x + (h + h : Nat) := by
      rw [← Int.add_emod_right, Int.emod_eq_of_lt (by omega) (by omega)]
    rw [this] at hc
    rw [if_pos (by omega)]
    omega

theorem toBits_natCast {n k : Nat} (h : n < 2 ^ k) : toBits n k = n := by
  rw [toBits, ← Int.natCast_mod, Int.toNat_natCast, Nat.mod_eq_of_lt h]

theorem sextInt_of_lt {n k : Nat} (hk : k ≠ 0) (h : n < 2 ^ (k - 1)) : sextInt n k = n := by
  have hlt : n < 2 ^ k := h.trans_le (Nat.pow_le_pow_right (by decide) (by omega))
  rw [sextInt, if_neg hk, Nat.mod_eq_of_lt hlt, if_neg (by omega)]

/-! ### Integer types -/

theorem Ty.width_le (t : Ty) : t.width ≤ 64 := by cases t <;> decide
theorem Ty.width_pos (t : Ty) : 0 < t.width := by cases t <;> decide
theorem Ty.ne_l6_of_isI {t : Ty} (h : t.isI = true) : t ≠ .l6 := by
  rintro rfl
  cases h
theorem Ty.ne_l6_of_isInt {t : Ty} (h : t.isInt = true) : t ≠ .l6 := by
  rintro rfl
  cases h

theorem toNat_ofInt (x : Int) : (ofInt x).toNat = toBits x 64 := by
  rw [ofInt, BitVec.toNat_ofNat, Nat.mod_eq_of_lt (toBits_lt x 64)]

/-- The low bits of an extended element are the element. -/
theorem Ty.toNat_ext_mod {t : Ty} (ht : t ≠ .l6) (x : Nat) : (t.ext x).toNat % 2 ^ t.width = x % 2 ^ t.width := by
  rw [Ty.ext, if_neg ht]
  split
  · rw [toNat_ofInt, toBits_mod _ t.width_le, toBits_sextInt]
  · have hp : 2 ^ t.width ∣ 2 ^ 64 := Nat.pow_dvd_pow 2 t.width_le
    rw [BitVec.toNat_ofNat, Nat.mod_mod_of_dvd _ hp, Nat.mod_mod]

/-- An element is extended from its low bits. -/
theorem Ty.ext_mod {t : Ty} (ht : t ≠ .l6) (x : Nat) : t.ext (x % 2 ^ t.width) = t.ext x := by
  rw [Ty.ext, Ty.ext, if_neg ht, if_neg ht, sextInt_mod, Nat.mod_mod]

theorem Ty.int_mod (t : Ty) (x : Nat) : t.int (x % 2 ^ t.width) = t.int x := by
  rw [Ty.int, Ty.int, sextInt_mod, Nat.mod_mod]

/-- An integer within the bounds of its type is read back from its pattern. -/
theorem Ty.int_toBits {t : Ty} {x : Int} (hlo : t.lo ≤ x) (hhi : x ≤ t.hi) : t.int (toBits x t.width) = x := by
  unfold Ty.lo at hlo
  unfold Ty.hi at hhi
  unfold Ty.int
  split_ifs at *
  · exact sextInt_toBits t.width_pos.ne' hlo hhi
  · rw [Nat.mod_eq_of_lt (toBits_lt _ _), cast_toBits, Int.emod_eq_of_lt hlo (by omega)]

theorem Ty.lo_le_hi (t : Ty) : t.lo ≤ t.hi := by cases t <;> decide

theorem Ty.wrapInt_lt (t : Ty) (sat : Bool) (x : Int) : t.wrapInt sat x < 2 ^ t.width := toBits_lt _ _

end Sys2Proof

namespace Sys2Proof.Machine
open Sys2Proof

/-- R224: what an integer instruction writes is the result of its exact value. -/
theorem intResult_wint {t : Ty} (ht : t ≠ .l6) (sat : Bool) (x : Int) : IntResult t sat x (wint t sat x) := by
  have hlow : (wint t sat x).toNat % 2 ^ t.width = t.wrapInt sat x := by
    rw [wint, Ty.toNat_ext_mod ht, Nat.mod_eq_of_lt (t.wrapInt_lt sat x)]
  refine ⟨by rw [hlow, wint], ?_, ?_⟩
  · rintro rfl
    have hx : ((wint t false x).toNat : Int) % ((2 ^ t.width : Nat) : Int) = x % ((2 ^ t.width : Nat) : Int) := by
      rw [← Int.natCast_mod, hlow, ← cast_toBits]
      rfl
    exact Int.emod_eq_emod_iff_emod_sub_eq_zero.1 hx
  · rintro rfl
    have hbounds := t.lo_le_hi
    rw [← Ty.int_mod, hlow]
    exact Ty.int_toBits (le_max_left _ _) (max_le hbounds (min_le_left _ _))

/-! ### Instructions that write a word -/

theorem gives_of_wordOp {i : Instr} {g : Guard} {d : Spec} {s : State} {v : Word} (hg : s.guard g = true)
    (hi : exec i s = wordOp g d s v) : Gives i s d v := by
  rw [Gives, hi]
  exact wordOp_gives hg d v

theorem gives_of_intOp {i : Instr} {o : ROp} {s : State} {x : Int} (hg : s.guard o.grd = true)
    (hi : exec i s = intOp o s x) : Gives i s o.d (wint o.ty o.sat x) := gives_of_wordOp hg hi

/-- An integer instruction whose type is an integer type gives its result (R224). -/
theorem intGives_of_intOp {i : Instr} {o : ROp} {s : State} {x : Int} {sat : Bool} (hg : s.guard o.grd = true)
    (hi : exec i s = intOp o s x) (hwf : i.WellFormed → o.ty.isInt = true ∧ o.sat = sat) :
    IntGives i s o.d o.ty sat x := by
  intro h
  obtain ⟨ht, rfl⟩ := hwf h
  exact ⟨_, gives_of_intOp hg hi, intResult_wint (Ty.ne_l6_of_isInt ht) o.sat x⟩

theorem ROp.int2_isInt {o : ROp} {sat : Bool} (h : o.int2 sat = true) : o.ty.isInt = true := by
  simp only [ROp.int2, Bool.and_eq_true] at h
  tauto

theorem ROp.int2_sat {o : ROp} (h : o.int2 false = true) : o.ty.isInt = true ∧ o.sat = false := by
  refine ⟨ROp.int2_isInt h, ?_⟩
  simp only [ROp.int2, Bool.and_eq_true, Bool.false_or, Bool.not_eq_true'] at h
  tauto

theorem ROp.int1_sat {o : ROp} (h : o.int1 = true) : o.ty.isInt = true ∧ o.sat = false := by
  simp only [ROp.int1, ROp.mod0, Bool.and_eq_true, Bool.not_eq_true'] at h
  tauto

/-- An integer instruction without saturation. -/
theorem intGives_wrapping {i : Instr} {o : ROp} {s : State} {x : Int} (hg : s.guard o.grd = true)
    (hi : exec i s = intOp o s x) (hl : legal i = o.int2 false) : IntGives i s o.d o.ty false x :=
  intGives_of_intOp hg hi fun h => ROp.int2_sat (hl.symm.trans h)

/-- An integer instruction that may saturate. -/
theorem intGives_saturating {i : Instr} {o : ROp} {s : State} {x : Int} (hg : s.guard o.grd = true)
    (hi : exec i s = intOp o s x) (hl : legal i = o.int2 true) : IntGives i s o.d o.ty o.sat x :=
  intGives_of_intOp hg hi fun h => ⟨ROp.int2_isInt (hl.symm.trans h), rfl⟩

/-- R227: what a quotient by zero is. -/
theorem quotient_by_zero (t : Ty) : (if t.signed then -1 else t.hi) = if t.signed then -1 else 2 ^ t.width - 1 := by
  unfold Ty.hi
  split_ifs <;> simp

theorem addi_gives {k : Sys2Proof.IOp} {s : State} (hg : s.guard k.grd = true) : IntGives (.addi k) s k.d k.ty (k.var == 1)
    (k.ty.int (s.G k.a).toNat + k.ty.int k.imm.toNat) := by
  intro h
  have hk : k.ty.isInt = true ∧ k.var.toNat ≤ 1 := by
    simp only [Instr.WellFormed, legal, Bool.and_eq_true, decide_eq_true_eq] at h
    tauto
  obtain ⟨ht, hv⟩ := hk
  have hsat : (k.var == 1) = k.var.getLsbD 0 := by
    generalize k.var = v at hv
    revert v
    decide
  rw [hsat]
  exact ⟨_, gives_of_wordOp hg rfl, intResult_wint (Ty.ne_l6_of_isInt ht) _ _⟩

/-! ### Counts and reversed bytes (R229) -/

/-- A count of bits fits below the sign of its type. -/
theorem Ty.width_lt_half {t : Ty} (ht : t.isInt = true) : t.width < 2 ^ (t.width - 1) := by
  cases t <;> revert ht <;> decide

/-- A small count is written as it is. -/
theorem toNat_wint_count {t : Ty} (ht : t.isInt = true) {n : Nat} (h : n ≤ t.width) :
    (wint t false n).toNat = n := by
  have hhalf : n < 2 ^ (t.width - 1) := h.trans_lt (Ty.width_lt_half ht)
  have hlt : n < 2 ^ t.width := hhalf.trans_le (Nat.pow_le_pow_right (by decide) (by omega))
  have h64 : n < 2 ^ 64 := hlt.trans_le (Nat.pow_le_pow_right (by decide) t.width_le)
  rw [wint, Ty.wrapInt, if_neg (by decide), toBits_natCast hlt, Ty.ext, if_neg (Ty.ne_l6_of_isInt ht)]
  split
  · rw [sextInt_of_lt t.width_pos.ne' hhalf, toNat_ofInt, toBits_natCast h64]
  · rw [Nat.mod_eq_of_lt hlt, BitVec.toNat_ofNat, Nat.mod_eq_of_lt h64]

/-- The leading zeros of a number of `w` bits. -/
theorem clzOf_spec {x w : Nat} (h : x < 2 ^ w) : clzOf x w ≤ w ∧ x < 2 ^ (w - clzOf x w) ∧
    (clzOf x w < w → 2 ^ (w - clzOf x w - 1) ≤ x) := by
  unfold clzOf
  split_ifs with h0
  · simp [h0]
  · have hlog : Nat.log2 x < w := (Nat.log2_lt h0).2 h
    have hle := Nat.log2_self_le h0
    have hlt := Nat.lt_log2_self (n := x)
    refine ⟨by omega, ?_, fun _ => ?_⟩
    · rwa [show w - (w - 1 - Nat.log2 x) = Nat.log2 x + 1 by omega]
    · rwa [show w - (w - 1 - Nat.log2 x) - 1 = Nat.log2 x by omega]

theorem ctzOf_le (x n : Nat) : ctzOf x n ≤ n := by
  induction n generalizing x with
  | zero => simp [ctzOf]
  | succ n ih =>
    have := ih (x / 2)
    rw [ctzOf]
    split_ifs <;> omega

theorem ctzOf_zero (n : Nat) : ctzOf 0 n = n := by
  induction n with
  | zero => rfl
  | succ n ih => simp [ctzOf, ih, Nat.add_comm]

/-- The trailing zeros of a number other than 0 below 2^n. -/
theorem ctzOf_spec {x n : Nat} (h0 : x ≠ 0) (h : x < 2 ^ n) : 2 ^ ctzOf x n ∣ x ∧ ¬ 2 ^ (ctzOf x n + 1) ∣ x := by
  induction n generalizing x with
  | zero => omega
  | succ n ih =>
    rw [ctzOf]
    split_ifs with hodd
    · simp only [pow_zero, one_dvd, Nat.zero_add, pow_one, true_and]
      omega
    · obtain ⟨y, rfl⟩ : ∃ y, x = 2 * y := ⟨x / 2, by omega⟩
      rw [Nat.mul_div_cancel_left y (by decide), Nat.add_comm 1, Nat.pow_succ', Nat.pow_succ' (n := _ + 1)]
      rw [Nat.mul_dvd_mul_iff_left (by decide), Nat.mul_dvd_mul_iff_left (by decide)]
      exact ih (by omega) (by omega)

/-- The ones among the low `n` bits. -/
theorem popOf_eq (x n : Nat) : popOf x n = ((List.range n).filter x.testBit).length := by
  induction n generalizing x with
  | zero => rfl
  | succ n ih =>
    rw [popOf, ih, List.range_succ_eq_map, List.filter_cons, List.filter_map, Nat.testBit_zero]
    have hshift : (x.testBit ∘ Nat.succ) = (x / 2).testBit := by
      funext j
      simp [Nat.testBit_succ]
    rw [hshift]
    split_ifs with h <;> simp at h <;> simp <;> omega

theorem popOf_le (x n : Nat) : popOf x n ≤ n := by
  rw [popOf_eq]
  exact (List.length_filter_le _ _).trans (List.length_range ..).le

/-- Byte `i` of the number that bytes stand for. -/
theorem fld_ofBytes (l : List Byte) {i : Nat} (h : i < l.length) : fld (ofBytes l) (8 * i) 8 = l[i].toNat := by
  induction l generalizing i with
  | nil => cases h
  | cons b l ih =>
    have hb : b.toNat < 2 ^ 8 := b.isLt
    cases i with
    | zero =>
      simp only [ofBytes, fld, List.getElem_cons_zero]
      omega
    | succ i =>
      have hi := ih (i := i) (by simpa using h)
      rw [List.getElem_cons_succ, ← hi, fld, fld, ofBytes, show 8 * (i + 1) = 8 + 8 * i by ring, Nat.pow_add,
        ← Nat.div_div_eq_div_mul]
      congr 2
      omega

theorem getElem_bytesOf (x n i : Nat) (h : i < (bytesOf x n).length) : ((bytesOf x n)[i]).toNat = fld x (8 * i) 8 := by
  induction n generalizing x i with
  | zero => cases h
  | succ n ih =>
    cases i with
    | zero => simp [bytesOf, fld]
    | succ i =>
      simp only [bytesOf, List.getElem_cons_succ, ih]
      rw [fld, fld, show 8 * (i + 1) = 8 + 8 * i by ring, Nat.pow_add, ← Nat.div_div_eq_div_mul]

theorem ofBytes_lt (l : List Byte) : ofBytes l < 256 ^ l.length := by
  induction l with
  | nil => simp [ofBytes]
  | cons b l ih =>
    have hb : b.toNat < 256 := b.isLt
    rw [ofBytes, List.length_cons, Nat.pow_succ]
    omega

/-- Reversed bytes (R229). -/
theorem fld_ofBytes_reverse {x n i : Nat} (h : i < n) :
    fld (ofBytes (bytesOf x n).reverse) (8 * i) 8 = fld x (8 * (n - 1 - i)) 8 := by
  have hl : (bytesOf x n).length = n := length_bytesOf x n
  rw [fld_ofBytes _ (by simpa [hl] using h), List.getElem_reverse, getElem_bytesOf, hl]

theorem fld_mod {x lo n w : Nat} (h : lo + n ≤ w) : fld (x % 2 ^ w) lo n = fld x lo n := by
  rw [fld, fld, ← Nat.mod_mul_right_div_self, ← Nat.mod_mul_right_div_self, ← Nat.pow_add,
    Nat.mod_mod_of_dvd _ (Nat.pow_dvd_pow 2 h)]

/-- An instruction that counts in a register of an integer type writes its count. -/
theorem count_gives {i : Instr} {o : ROp} {s : State} {n : Nat} (hg : s.guard o.grd = true)
    (hi : exec i s = intOp o s n) (hl : legal i = o.int1) (hn : n ≤ o.ty.width) (h : i.WellFormed) :
    ∃ v, Gives i s o.d v ∧ v.toNat = n := by
  obtain ⟨ht, hsat⟩ := ROp.int1_sat (hl.symm.trans h)
  refine ⟨_, gives_of_intOp hg hi, ?_⟩
  rw [hsat, toNat_wint_count ht hn]

theorem clz_gives {o : ROp} {s : State} (hg : s.guard o.grd = true) (h : (Instr.clz o).WellFormed) :
    let w := o.ty.width
    let u := (s.G o.a).toNat % 2 ^ w
    ∃ v, Gives (.clz o) s o.d v ∧ v.toNat ≤ w ∧ u < 2 ^ (w - v.toNat) ∧ (v.toNat < w → 2 ^ (w - v.toNat - 1) ≤ u) := by
  have hs := clzOf_spec (Nat.mod_lt (s.G o.a).toNat (Nat.two_pow_pos o.ty.width))
  obtain ⟨v, hv, hn⟩ := count_gives hg rfl rfl hs.1 h
  exact ⟨v, hv, hn ▸ hs⟩

theorem ctz_gives {o : ROp} {s : State} (hg : s.guard o.grd = true) (h : (Instr.ctz o).WellFormed) :
    let w := o.ty.width
    let u := (s.G o.a).toNat % 2 ^ w
    ∃ v, Gives (.ctz o) s o.d v ∧ (u = 0 → v.toNat = w) ∧ (u ≠ 0 → 2 ^ v.toNat ∣ u ∧ ¬ 2 ^ (v.toNat + 1) ∣ u) := by
  obtain ⟨v, hv, hn⟩ := count_gives hg rfl rfl (ctzOf_le _ _) h
  refine ⟨v, hv, fun hu => ?_, fun hu => ?_⟩
  · rw [hn, State.uval, hu, ctzOf_zero]
  · rw [hn]
    exact ctzOf_spec hu (Nat.mod_lt _ (Nat.two_pow_pos _))

theorem popc_gives {o : ROp} {s : State} (hg : s.guard o.grd = true) (h : (Instr.popc o).WellFormed) :
    let w := o.ty.width
    let u := (s.G o.a).toNat % 2 ^ w
    ∃ v, Gives (.popc o) s o.d v ∧ v.toNat = ((List.range w).filter u.testBit).length := by
  obtain ⟨v, hv, hn⟩ := count_gives hg rfl rfl (popOf_le _ _) h
  exact ⟨v, hv, hn.trans (popOf_eq _ _)⟩

theorem Ty.width_eq_bytes {t : Ty} (ht : t.isInt = true) : t.width = 8 * (t.width / 8) := by
  cases t <;> revert ht <;> decide

theorem bswap_gives {o : ROp} {s : State} (hg : s.guard o.grd = true) (h : (Instr.bswap o).WellFormed) :
    let w := o.ty.width
    let u := (s.G o.a).toNat % 2 ^ w
    ∃ v, Gives (.bswap o) s o.d v ∧ v = o.ty.ext (v.toNat % 2 ^ w) ∧
      ∀ i, i < w / 8 → fld v.toNat (8 * i) 8 = fld u (8 * (w / 8 - 1 - i)) 8 := by
  intro w u
  have hint : o.int1 = true := by
    simp only [Instr.WellFormed, legal, Bool.and_eq_true] at h
    exact h.1.1
  obtain ⟨ht, hsat⟩ := ROp.int1_sat hint
  have hw := Ty.width_eq_bytes ht
  have hl6 := Ty.ne_l6_of_isInt ht
  have hlt : ofBytes (bytesOf u (w / 8)).reverse < 2 ^ w := by
    have := ofBytes_lt (bytesOf u (w / 8)).reverse
    rwa [List.length_reverse, length_bytesOf, show (256 : Nat) = 2 ^ 8 by norm_num, ← Nat.pow_mul, ← hw] at this
  refine ⟨_, gives_of_intOp hg rfl, (intResult_wint hl6 _ _).1, fun i hi => ?_⟩
  rw [hsat, ← fld_mod (w := w) (by omega), wint, Ty.toNat_ext_mod hl6, Ty.wrapInt, if_neg (by decide)]
  change fld (toBits (ofBytes (bytesOf u (w / 8)).reverse : Nat) w % 2 ^ w) _ _ = _
  rw [toBits_natCast hlt, Nat.mod_eq_of_lt hlt, fld_ofBytes_reverse hi]

/-- Settles O4: the exact results are the operands of the one lemma about the write at the width of a type
(`intResult_wint`); the counts are characterised by induction on their recursions. -/
theorem integerResults : Obligations.IntegerResults := by
  refine ⟨fun o k s => ⟨fun hg => ?_, addi_gives⟩,
    fun o s hg => ⟨clz_gives hg, ctz_gives hg, popc_gives hg, bswap_gives hg⟩⟩
  have sat : ∀ {i x}, exec i s = intOp o s x → legal i = o.int2 true → IntGives i s o.d o.ty o.sat x :=
    intGives_saturating hg
  have wrap : ∀ {i x}, exec i s = intOp o s x → legal i = o.int2 false → IntGives i s o.d o.ty false x :=
    intGives_wrapping hg
  refine ⟨sat rfl rfl, sat rfl rfl, sat rfl rfl, wrap rfl rfl, ?_, wrap rfl rfl, wrap rfl rfl, wrap rfl rfl,
    wrap rfl rfl, wrap rfl rfl, wrap rfl rfl, wrap rfl rfl, wrap rfl rfl, wrap rfl rfl, wrap rfl rfl, wrap rfl rfl⟩
  rw [← quotient_by_zero]
  exact wrap rfl rfl

end Sys2Proof.Machine
end

section
/-! Comparisons, selections, moves, bit fields and predicate logic (R228, R230–R236). Settles O5. -/

namespace Sys2Proof

/-! ### Bits of fields -/

theorem testBit_fld (x lo n j : Nat) : (fld x lo n).testBit j = (decide (j < n) && x.testBit (lo + j)) := by
  rw [fld, Nat.testBit_mod_two_pow, Nat.testBit_div_two_pow, Nat.add_comm j]

theorem testBit_setFld (x lo n v j : Nat) : (setFld x lo n v).testBit j =
    if lo ≤ j ∧ j < lo + n then v.testBit (j - lo) else x.testBit j := by
  have hsplit : setFld x lo n v = 2 ^ lo * (2 ^ n * (x / 2 ^ (lo + n)) + v % 2 ^ n) + x % 2 ^ lo := by
    unfold setFld
    rw [Nat.pow_add]
    ring
  rw [hsplit, Nat.testBit_two_pow_mul_add _ (Nat.mod_lt _ (Nat.two_pow_pos _))]
  by_cases hlo : j < lo
  · simp [hlo, Nat.testBit_mod_two_pow]
  rw [if_neg hlo, Nat.testBit_two_pow_mul_add _ (Nat.mod_lt _ (Nat.two_pow_pos _))]
  by_cases hhi : j - lo < n
  · rw [if_pos hhi, if_pos (by omega), Nat.testBit_mod_two_pow]
    simp [hhi]
  · rw [if_neg hhi, if_neg (by omega), Nat.testBit_div_two_pow, show j - lo - n + (lo + n) = j by omega]

theorem testBit_two_pow_sub_one_mul (n k j : Nat) : (2 ^ n * (2 ^ k - 1)).testBit j = decide (n ≤ j ∧ j < n + k) := by
  rw [Nat.testBit_two_pow_mul, Nat.testBit_two_pow_sub_one]
  by_cases h : n ≤ j <;> simp [h]
  omega

/-- A signed reading of `n` bits, written in `m` bits, repeats the sign bit. -/
theorem testBit_toBits_sextInt (x : Nat) {n m j : Nat} (hn : 0 < n) (hm : n ≤ m) (hj : j < m) :
    (toBits (sextInt x n) m).testBit j = x.testBit (if j < n then j else n - 1) := by
  have hlow : ∀ i, i < n → (x % 2 ^ n).testBit i = x.testBit i := fun i hi => by
    simp [Nat.testBit_mod_two_pow, hi]
  have hpow : 2 ^ n * (2 ^ (m - n) - 1) = 2 ^ m - 2 ^ n := by
    rw [Nat.mul_sub, ← Nat.pow_add, Nat.mul_one, show n + (m - n) = m by omega]
  have hle : (2 : Nat) ^ n ≤ 2 ^ m := Nat.pow_le_pow_right (by decide) hm
  have hlt := Nat.mod_lt x (Nat.two_pow_pos n)
  have hsign : (x % 2 ^ n).testBit (n - 1) = decide (2 ^ (n - 1) ≤ x % 2 ^ n) := by
    have hhalf := two_pow_eq_add_half hn.ne'
    rw [Nat.testBit_eq_decide_div_mod_eq, decide_eq_decide]
    have hq : x % 2 ^ n / 2 ^ (n - 1) < 2 := Nat.div_lt_of_lt_mul (by omega)
    rw [Nat.mod_eq_of_lt hq]
    have := Nat.le_div_iff_mul_le (x := 1) (y := x % 2 ^ n) (Nat.two_pow_pos (n - 1))
    omega
  rw [sextInt, if_neg hn.ne']
  by_cases hneg : 2 ^ (n - 1) ≤ x % 2 ^ n
  · -- a negative number: the bits above the field are ones
    have hval : toBits (((x % 2 ^ n : Nat) : Int) - (2 ^ n : Nat)) m = 2 ^ n * (2 ^ (m - n) - 1) + x % 2 ^ n := by
      apply Int.natCast_inj.1
      rw [cast_toBits, ← Int.add_emod_right, Int.emod_eq_of_lt (by omega) (by omega), hpow]
      omega
    rw [if_pos hneg, hval, Nat.testBit_two_pow_mul_add _ hlt]
    split_ifs with hjn
    · exact hlow j hjn
    · rw [Nat.testBit_two_pow_sub_one, ← hlow _ (by omega), hsign]
      simp only [hneg, decide_true, decide_eq_true_eq]
      omega
  · rw [if_neg hneg, toBits_natCast (hlt.trans_le hle)]
    split_ifs with hjn
    · exact hlow j hjn
    · rw [← hlow _ (by omega), hsign, Nat.testBit_mod_two_pow]
      simp [hneg, hjn]

end Sys2Proof

namespace Sys2Proof.Machine
open Sys2Proof

/-! ### Predicates -/

theorem boolWord_eq_predWord {b : Bool} {p : Prop} [Decidable p] (h : b = true ↔ p) : boolWord b = predWord p := by
  cases b <;> simp_all [boolWord, predWord]

/-- The conditions of CMP on integers (R230). -/
theorem condOrd_compare {c : BitVec 4} (hc : c.toNat ≤ 5) (a b : Int) : condOrd c.toNat (compare a b) = true ↔
    (c = 0 ∧ a = b) ∨ (c = 1 ∧ a ≠ b) ∨ (c = 2 ∧ a < b) ∨ (c = 3 ∧ a ≤ b) ∨ (c = 4 ∧ a > b) ∨ (c = 5 ∧ a ≥ b) := by
  have hcases : c = 0 ∨ c = 1 ∨ c = 2 ∨ c = 3 ∨ c = 4 ∨ c = 5 := by
    revert c
    decide
  obtain hab | hab | hab := lt_trichotomy a b
  · rw [compare_lt_iff_lt.2 hab]
    obtain rfl | rfl | rfl | rfl | rfl | rfl := hcases <;> simp [condOrd] <;> omega
  · rw [compare_eq_iff_eq.2 hab]
    obtain rfl | rfl | rfl | rfl | rfl | rfl := hcases <;> simp [condOrd] <;> omega
  · rw [compare_gt_iff_gt.2 hab]
    obtain rfl | rfl | rfl | rfl | rfl | rfl := hcases <;> simp [condOrd] <;> omega

theorem cmp_gives {o : ROp} {s : State} (hg : s.guard o.grd = true) (h : (Instr.cmp o).WellFormed) :
    let a := o.ty.int (s.G o.a).toNat
    let b := o.ty.int (s.G o.b).toNat
    Gives (.cmp o) s o.d (predWord
      ((o.sel = 0 ∧ a = b) ∨ (o.sel = 1 ∧ a ≠ b) ∨ (o.sel = 2 ∧ a < b) ∨ (o.sel = 3 ∧ a ≤ b) ∨
        (o.sel = 4 ∧ a > b) ∨ (o.sel = 5 ∧ a ≥ b))) := by
  have hsel : o.sel.toNat ≤ 5 := by
    simp only [Instr.WellFormed, legal, Bool.and_eq_true, decide_eq_true_eq] at h
    exact h.1.1.2
  dsimp only
  rw [← boolWord_eq_predWord (condOrd_compare hsel _ _)]
  exact gives_of_wordOp hg rfl

theorem pset_gives {o : ROp} {s : State} (hg : s.guard o.grd = true) (h : (Instr.pset o).WellFormed) :
    Gives (.pset o) s o.d (predWord
      ((o.sel = 0 ∧ s.G o.a = 1 ∧ s.G o.b = 1) ∨ (o.sel = 1 ∧ (s.G o.a = 1 ∨ s.G o.b = 1)) ∨
        (o.sel = 2 ∧ ¬ (s.G o.a = 1 ↔ s.G o.b = 1)) ∨ (o.sel = 3 ∧ s.G o.a = 1 ∧ ¬ s.G o.b = 1))) := by
  have hsel : o.sel = 0 ∨ o.sel = 1 ∨ o.sel = 2 ∨ o.sel = 3 := by
    simp only [Instr.WellFormed, legal, Bool.and_eq_true, decide_eq_true_eq] at h
    have hle : o.sel.toNat ≤ 3 := h.1.1.2
    generalize o.sel = c at hle ⊢
    revert c
    decide
  refine (gives_of_wordOp hg rfl : Gives (.pset o) s o.d (boolWord _)).imp fun t ht => ?_
  rwa [← boolWord_eq_predWord]
  by_cases ha : s.G o.a = 1 <;> by_cases hb : s.G o.b = 1 <;> obtain hc | hc | hc | hc := hsel <;> simp [ha, hb, hc]

/-! ### Addresses and bit fields -/

theorem lea_gives {o : ROp} {s : State} (hg : s.guard o.grd = true) (h : (Instr.lea o).WellFormed) :
    Gives (.lea o) s o.d (s.G o.a + s.G o.b <<< o.sel.toNat) := by
  have hsel : o.sel.toNat ≤ 7 := by
    simp only [Instr.WellFormed, legal, Bool.and_eq_true, decide_eq_true_eq] at h
    exact h.1.1.2
  have hshift : s.G o.b <<< o.sel.toNat = s.G o.b * BitVec.ofNat 64 (2 ^ (o.sel.toNat % 8)) := by
    apply BitVec.eq_of_toNat_eq
    simp [BitVec.toNat_shiftLeft, Nat.shiftLeft_eq, Nat.mod_eq_of_lt (show o.sel.toNat < 8 by omega)]
  rw [hshift]
  exact gives_of_wordOp hg rfl

theorem bfPos_eq (b : Word) : bfPos b = b.toNat % 64 := by simp [bfPos, fld]
theorem bfWid_eq (b : Word) : bfWid b = b.toNat / 256 % 64 + 1 := rfl

theorem bfx_gives {o : ROp} {s : State} (hg : s.guard o.grd = true) (h : (Instr.bfx o).WellFormed) :
    let pos := (s.G o.b).toNat % 64
    let wid := (s.G o.b).toNat / 256 % 64 + 1
    ∃ v, Gives (.bfx o) s o.d v ∧ ∀ j, j < 64 → v.getLsbD j =
      if j < wid then (s.G o.a).getLsbD (pos + j) else o.ty == .i64 && (s.G o.a).getLsbD (pos + wid - 1) := by
  intro pos wid
  have hty : o.ty = .i64 ∨ o.ty = .n64 := by
    simp only [Instr.WellFormed, legal, Bool.and_eq_true, Bool.or_eq_true, beq_iff_eq] at h
    tauto
  refine ⟨_, gives_of_wordOp hg rfl, fun j hj => ?_⟩
  rw [bfPos_eq, bfWid_eq]
  change BitVec.getLsbD (if o.ty.signed then ofInt (sextInt (fld (s.G o.a).toNat pos wid) wid)
    else BitVec.ofNat 64 (fld (s.G o.a).toNat pos wid)) j = _
  have hwid : 0 < wid ∧ wid ≤ 64 := by omega
  obtain ht | ht := hty
  · rw [ht, if_pos (show Ty.i64.signed = true from rfl), ofInt, BitVec.getLsbD_ofNat, testBit_toBits_sextInt _ hwid.1 hwid.2 hj, testBit_fld]
    split_ifs with hjw
    · simp [hj, hjw, BitVec.testBit_toNat]
    · simp [hj, BitVec.testBit_toNat, show pos + (wid - 1) = pos + wid - 1 by omega, hwid.1]
  · rw [ht, if_neg (by decide), BitVec.getLsbD_ofNat, testBit_fld]
    split_ifs with hjw <;> simp [hj, hjw, BitVec.testBit_toNat]

theorem bfi_gives {o : ROp} {s : State} (hg : s.guard o.grd = true) :
    let pos := (s.G o.b).toNat % 64
    let wid := (s.G o.b).toNat / 256 % 64 + 1
    ∃ v, Gives (.bfi o) s o.d v ∧ ∀ j, j < 64 → v.getLsbD j =
      if pos ≤ j ∧ j < pos + wid then (s.G o.a).getLsbD (j - pos) else (s.G o.c).getLsbD j := by
  refine ⟨_, gives_of_wordOp hg rfl, fun j hj => ?_⟩
  rw [BitVec.getLsbD_ofNat, testBit_setFld, bfPos_eq, bfWid_eq]
  simp [hj, BitVec.testBit_toNat]

/-! ### MOVP (R235) -/

/-- Bit `j` of the predicates is what the predicate of that number reads as. -/
theorem Ctx.reg_predicate (x : Ctx) {j : Nat} (hj : j < 8) :
    x.reg (BitVec.ofNat 6 (56 + j)) = if j = 0 ∨ x.p.getLsbD j then 1 else 0 := by
  have hn : (BitVec.ofNat 6 (56 + j)).toNat = 56 + j := by
    rw [BitVec.toNat_ofNat]
    omega
  unfold Ctx.reg
  simp only [hn, show 56 + j ≠ 0 by omega, show ¬ 56 + j < 16 by omega, show ¬ 56 + j < 32 by omega, if_false]
  obtain rfl | h0 := Nat.eq_zero_or_pos j
  · simp
  · simp [h0.ne', show 56 < 56 + j by omega]

/-- A change of the predicates alone. -/
theorem Ctx.reg_with_p (x : Ctx) (p : BitVec 8) (r : Spec) :
    ({ x with p := p } : Ctx).reg r = if 56 < r.toNat then boolWord (p.getLsbD (r.toNat - 56)) else x.reg r := by
  by_cases h : 56 < r.toNat
  · unfold Ctx.reg boolWord
    simp only [h, show r.toNat ≠ 0 by omega, show ¬ r.toNat < 16 by omega, show ¬ r.toNat < 32 by omega,
      show r.toNat ≠ 56 by omega, if_true, if_false]
  · unfold Ctx.reg
    simp only [h, if_false]

/-- An instruction that retires leaves the window as it made it. -/
theorem State.win_retire_setMe (s : State) (y : Ctx) : (s.retire (s.setMe y)).me.win = y.win := by
  unfold State.retire
  cases hp : s.pair with
  | none =>
    rw [State.finish_alone s (show (s.setMe y).pair = none from hp)]
    simp [State.conclude]
  | some p =>
    rw [State.finish_pair s (show (s.setMe y).pair = some p from hp)]
    exact congrArg Ctx.win (State.me_setMe s y)

theorem Writes.reg_none {s t : State} {x : Ctx} {e : End} (h : Writes s t x e 0 0) (r : Spec) : t.me.reg r = x.reg r := by
  by_cases hr : r = 0
  · rw [hr, h.value, Ctx.reg_zero]
    simp [readBack]
  · exact h.others r hr

/-- The bits of a register above bit 0, as predicates. -/
theorem getLsbD_predicates (v : Word) {j : Nat} (h0 : 0 < j) (h8 : j < 8) :
    (BitVec.ofNat 8 (v.toNat % 256 / 2 * 2)).getLsbD j = v.getLsbD j := by
  obtain ⟨k, rfl⟩ := Nat.exists_eq_succ_of_ne_zero h0.ne'
  rw [BitVec.getLsbD_ofNat, Nat.mul_comm, Nat.testBit_succ, Nat.mul_div_cancel_left _ (by decide),
    ← Nat.testBit_succ, show (256 : Nat) = 2 ^ 8 by norm_num, Nat.testBit_mod_two_pow, BitVec.testBit_toNat]
  simp [show k + 1 < 8 by omega]

theorem movp_gives {o : ROp} {s : State} (hg : s.guard o.grd = true) :
    (o.sel = 0 → isG o.d = true → Gives (.movp o) s o.d (s.G o.a)) ∧
    (o.sel = 0 → isP o.d = true → Gives (.movp o) s o.d (predWord (s.G o.a ≠ 0))) ∧
    (o.sel = 1 → isG o.d = true → ∃ v, Gives (.movp o) s o.d v ∧ ∀ j, j < 64 →
      v.getLsbD j = decide (j < 8 ∧ s.G (BitVec.ofNat 6 (56 + j)) = 1)) ∧
    (o.sel = 1 → isP o.d = true → ∃ t, exec (.movp o) s = .next t ∧ Alone s t ∧ Ended s t .next ∧
      t.me.rest = s.me.rest ∧ t.me.win = s.me.win ∧
      ∀ r : Spec, t.me.reg r = if 56 < r.toNat then boolWord ((s.G o.a).getLsbD (r.toNat - 56)) else s.me.reg r) := by
  have hGP : isG o.d = true → isP o.d = false := by
    simp only [isG, isP, decide_eq_true_eq, decide_eq_false_iff_not]
    omega
  have hrun : exec (.movp o) s = .next (if o.sel = 1 then
      if isP o.d then s.retire (s.setMe { s.me with p := BitVec.ofNat 8 ((s.G o.a).toNat % 256 / 2 * 2) })
      else s.retire (s.setG o.d (BitVec.ofNat 64 (setBit s.view.p.toNat 0 true)))
    else if isP o.d then s.retire (s.setG o.d (boolWord (s.G o.a != 0))) else s.retire (s.setG o.d (s.G o.a)))  := by
    show execMovp o s = _
    simp only [execMovp, guarded, hg, if_true]
  refine ⟨fun hs hd => ?_, fun hs hd => ?_, fun hs hd => ?_, fun hs hd => ?_⟩
  · rw [if_neg (by rw [hs]; decide), if_neg (by simp [hGP hd])] at hrun
    exact ⟨_, hrun, s.retire_setG _ _⟩
  · rw [if_neg (by rw [hs]; decide), if_pos hd, boolWord_eq_predWord (p := s.G o.a ≠ 0) (by simp)] at hrun
    exact ⟨_, hrun, s.retire_setG _ _⟩
  · rw [if_pos hs, if_neg (by simp [hGP hd])] at hrun
    refine ⟨_, ⟨_, hrun, s.retire_setG _ _⟩, fun j hj => ?_⟩
    rw [BitVec.getLsbD_ofNat, testBit_setBit, State.G]
    by_cases h8 : j < 8
    · rw [Ctx.reg_predicate _ h8]
      by_cases h0 : j = 0 <;> simp [hj, h8, h0, BitVec.testBit_toNat]
    · simp [h8, show j ≠ 0 by omega, BitVec.testBit_toNat, BitVec.getLsbD_of_ge s.view.p j (by omega)]
  · rw [if_pos hs, if_pos hd] at hrun
    obtain ⟨hw, ha⟩ := s.retire_setMe { s.me with p := BitVec.ofNat 8 ((s.G o.a).toNat % 256 / 2 * 2) }
      ⟨rfl, rfl, rfl, rfl, rfl, rfl⟩
    refine ⟨_, hrun, ha, hw.ended, hw.rest, s.win_retire_setMe _, fun r => ?_⟩
    rw [hw.reg_none, Ctx.reg_with_p]
    split_ifs with hr
    · rw [getLsbD_predicates _ (by omega) (by have := r.isLt; omega)]
    · rfl

/-- Settles O5: each instruction writes one word, whose bits are those of its field. -/
theorem selectAndField : Obligations.SelectAndField :=
  ⟨fun _ _ _ => ⟨fun hg => gives_of_wordOp hg rfl, fun hg => ⟨cmp_gives hg, gives_of_wordOp hg rfl, lea_gives hg,
    ⟨bfx_gives hg, bfi_gives hg⟩, pset_gives hg⟩⟩, fun _ _ hg _ => movp_gives hg⟩

end Sys2Proof.Machine
end

section
/-! Scalar floating point (R237–R244) and the exactness of its arithmetic (R132). Settles O6, O7 and O8. -/

namespace Sys2Proof

/-! ### NaN operands (R238–R240) -/

theorem Val.eq_nan {a : Val} (h : a.isNan = true) : a = .nan := by
  cases a with
  | nan => rfl
  | inf _ | fin _ _ _ => cases h

@[simp] theorem Val.neg_nan : Val.neg .nan = .nan := rfl
@[simp] theorem Val.nan_add (M : Rm) (b : Val) : Val.add M .nan b = .nan := by simp [Val.add]
@[simp] theorem Val.add_nan (M : Rm) (a : Val) : Val.add M a .nan = .nan := by cases a <;> simp [Val.add]
@[simp] theorem Val.nan_mul (b : Val) : Val.mul .nan b = .nan := by simp [Val.mul]
@[simp] theorem Val.mul_nan (a : Val) : Val.mul a .nan = .nan := by cases a <;> simp [Val.mul]
@[simp] theorem Val.nan_div (b : Val) : Val.div .nan b = .nan := by simp [Val.div]
@[simp] theorem Val.div_nan (a : Val) : Val.div a .nan = .nan := by cases a <;> simp [Val.div]

/-! ### Sums and products of finite values -/

theorem Val.exists_fin {a : Val} (h : a.isFin = true) : ∃ s m e, a = .fin s m e := by
  cases a with
  | fin s m e => exact ⟨s, m, e, rfl⟩
  | nan | inf _ => cases h

/-- A finite value in units of a smaller power of two. -/
theorem scaled_rat (s : Bool) (m : Nat) {e q : Int} (h : q ≤ e) :
    (scaled s m e q : ℚ) * 2 ^ q = (Val.fin s m e).rat := by
  have hpow : (2 : ℚ) ^ e = 2 ^ (e - q).toNat * 2 ^ q := by
    rw [← zpow_natCast, ← zpow_add₀ two_ne_zero, Int.toNat_of_nonneg (by omega), Int.sub_add_cancel]
  cases s <;> simp [scaled, Val.rat, hpow] <;> ring

/-- A multiple of a power of two as a finite value. -/
theorem rat_fin_natAbs (x q : Int) : (Val.fin (decide (x < 0)) x.natAbs q).rat = x * 2 ^ q := by
  obtain h | h := lt_or_ge x 0
  · have hx : ((x.natAbs : Int) : ℚ) = ((-x : Int) : ℚ) := by rw [Int.ofNat_natAbs_of_nonpos h.le]
    simp only [Val.rat, h, decide_true, if_true]
    rw [← Int.cast_natCast, hx]
    push_cast
    ring
  · have hx : ((x.natAbs : Int) : ℚ) = (x : ℚ) := by rw [Int.natAbs_of_nonneg h]
    simp only [Val.rat, show ¬ x < 0 by omega, decide_false, Bool.false_eq_true, if_false]
    rw [← Int.cast_natCast, hx]
    ring

theorem rat_fin_zero (s : Bool) (e : Int) : (Val.fin s 0 e).rat = 0 := by simp [Val.rat]

/-- R132, R238: a sum of finite values is exact. -/
theorem Val.add_exact (M : Rm) {a b : Val} (ha : a.isFin = true) (hb : b.isFin = true) :
    (Val.add M a b).isFin = true ∧ (Val.add M a b).rat = a.rat + b.rat := by
  obtain ⟨s, m, e, rfl⟩ := Val.exists_fin ha
  obtain ⟨t, n, g, rfl⟩ := Val.exists_fin hb
  rw [Val.add]
  by_cases h0 : m = 0 ∧ n = 0
  · obtain ⟨rfl, rfl⟩ := h0
    simp [Val.isFin, rat_fin_zero]
  rw [if_neg h0]
  have hsum : ((scaled s m e (min e g) + scaled t n g (min e g) : Int) : ℚ) * 2 ^ min e g =
      (Val.fin s m e).rat + (Val.fin t n g).rat := by
    rw [← scaled_rat s m (min_le_left e g), ← scaled_rat t n (min_le_right e g)]
    push_cast
    ring
  rw [← hsum]
  dsimp only
  split_ifs with hx
  · simp [Val.isFin, rat_fin_zero, hx]
  · exact ⟨rfl, rat_fin_natAbs _ _⟩

/-- R132, R239: a product of finite values is exact. -/
theorem Val.mul_exact {a b : Val} (ha : a.isFin = true) (hb : b.isFin = true) :
    (Val.mul a b).isFin = true ∧ (Val.mul a b).rat = a.rat * b.rat := by
  obtain ⟨s, m, e, rfl⟩ := Val.exists_fin ha
  obtain ⟨t, n, g, rfl⟩ := Val.exists_fin hb
  refine ⟨rfl, ?_⟩
  rw [Val.mul, Val.rat, Val.rat, Val.rat, zpow_add₀ two_ne_zero]
  cases s <;> cases t <;> simp <;> ring

/-! ### Values that a format holds -/

/-- A code of `eb + fb + 1` bits is its sign, its exponent field and its fraction field. -/
theorem Fmt.code_eq (f : Fmt) {x : Nat} (h : x < 2 ^ f.width) :
    x = f.signBit (bitAt x (f.eb + f.fb)) + (fld x f.fb f.eb * 2 ^ f.fb + fld x 0 f.fb) := by
  have htop : x / 2 ^ (f.eb + f.fb) < 2 := by
    refine Nat.div_lt_of_lt_mul ?_
    rwa [Fmt.width, show 1 + f.eb + f.fb = f.eb + f.fb + 1 by omega, Nat.pow_succ] at h
  have hsign : f.signBit (bitAt x (f.eb + f.fb)) = x / 2 ^ (f.eb + f.fb) * 2 ^ (f.eb + f.fb) := by
    obtain h0 | h1 := Nat.le_one_iff_eq_zero_or_eq_one.1 (Nat.lt_succ_iff.1 htop)
    · simp [Fmt.signBit, bitAt, h0]
    · simp [Fmt.signBit, bitAt, h1]
  have hhigh : x / 2 ^ f.fb = x / 2 ^ (f.eb + f.fb) * 2 ^ f.eb + fld x f.fb f.eb := by
    rw [Nat.add_comm f.eb, Nat.pow_add, ← Nat.div_div_eq_div_mul, fld, Nat.mul_comm]
    exact (Nat.div_add_mod _ _).symm
  have hlow : x = x / 2 ^ f.fb * 2 ^ f.fb + fld x 0 f.fb := by
    rw [fld, Nat.pow_zero, Nat.div_one, Nat.mul_comm]
    exact (Nat.div_add_mod _ _).symm
  calc x = (x / 2 ^ (f.eb + f.fb) * 2 ^ f.eb + fld x f.fb f.eb) * 2 ^ f.fb + fld x 0 f.fb := by rw [← hhigh, ← hlow]
    _ = _ := by rw [hsign, Nat.pow_add]; ring

/-- The codes below the infinities and the NaNs of a format are those up to its largest finite one. -/
theorem fmtOf_finite_le {t : Ty} {f : Fmt} (hf : fmtOf t = some f) {e fr : Nat} (he : e < 2 ^ f.eb) (hfr : fr < 2 ^ f.fb)
    (hinf : ¬ (e = 2 ^ f.eb - 1 ∧ f.hasInf ∧ fr = 0))
    (hnan : ¬ (e = 2 ^ f.eb - 1 ∧ f.hasNan ∧ (f.hasInf ∨ fr = 2 ^ f.fb - 1))) : e * 2 ^ f.fb + fr ≤ f.maxCode := by
  cases t <;> cases hf <;> simp at * <;> omega

/-- What is exact in units of the last place stands as it is. -/
theorem quantize_self (M : Rm) (s : Bool) (m : Nat) (q : Int) : quantize M s m q q = m := by
  simp [quantize]

/-- A significand that a format holds, at the exponent that the format gives it, is rounded to its own code. -/
theorem Fmt.round_of_exact (f : Fmt) (M : Rm) (sat s : Bool) {m : Nat} {e : Int} {code : Nat} (hm : m ≠ 0)
    (hq : max ((Nat.log2 m : Int) + e) (1 - (f.bias : Int)) - f.fb = e) (hlt : m < 2 ^ (f.fb + 1))
    (hcode : (if m < 2 ^ f.fb then m else (e + f.fb + f.bias).toNat * 2 ^ f.fb + (m - 2 ^ f.fb)) = code)
    (hmax : code ≤ f.maxCode) : f.round M sat (.fin s m e) = f.signBit s + code := by
  simp only [Fmt.round, hm, if_false, hq, quantize_self, show ¬ 2 ^ (f.fb + 1) ≤ m by omega, hcode, hmax, if_true]

/-- R132: a finite value of a format is rounded to itself, in every mode. -/
theorem Fmt.round_val {t : Ty} {f : Fmt} (hf : fmtOf t = some f) (M : Rm) (sat : Bool) {x : Nat} (hx : x < 2 ^ f.width)
    (hfin : (f.val x).isFin = true) : f.round M sat (f.val x) = x := by
  have hcode := f.code_eq hx
  have he : fld x f.fb f.eb < 2 ^ f.eb := Nat.mod_lt _ (Nat.two_pow_pos _)
  have hfr : fld x 0 f.fb < 2 ^ f.fb := Nat.mod_lt _ (Nat.two_pow_pos _)
  rw [Fmt.val] at hfin ⊢
  generalize fld x f.fb f.eb = e at *
  generalize fld x 0 f.fb = fr at *
  generalize bitAt x (f.eb + f.fb) = s at *
  split_ifs at hfin ⊢ with hinf hnan h0
  · cases hfin
  · cases hfin
  all_goals
    have hmax := fmtOf_finite_le hf he hfr hinf hnan
    subst x
  · -- a subnormal number, or a zero
    subst h0
    rw [Nat.zero_mul, Nat.zero_add] at hmax ⊢
    obtain rfl | hfr0 := Nat.eq_zero_or_pos fr
    · simp [Fmt.round]
    · have hlog : Nat.log2 fr < f.fb := (Nat.log2_lt hfr0.ne').2 hfr
      refine f.round_of_exact M sat s hfr0.ne' ?_ (by rw [Nat.pow_succ]; omega) (if_pos hfr) hmax
      omega
  · -- a normal number
    have hlog : Nat.log2 (2 ^ f.fb + fr) = f.fb :=
      (Nat.log2_eq_iff (by omega)).2 ⟨by omega, by rw [Nat.pow_succ]; omega⟩
    refine f.round_of_exact M sat s (by omega) ?_ (by rw [Nat.pow_succ]; omega) ?_ hmax
    · omega
    · rw [if_neg (by omega), Nat.add_sub_cancel_left, show (e : Int) - f.bias - f.fb + f.fb + f.bias = e by ring,
        Int.toNat_natCast]

end Sys2Proof

namespace Sys2Proof.Machine
open Sys2Proof

/-- Settles O7. -/
theorem exactArithmetic : Obligations.ExactArithmetic := by
  refine ⟨fun M a b ha hb => ?_, fun t f M sat x hf hx hfin => Fmt.round_val hf M sat hx hfin⟩
  obtain ⟨hadd, hsum⟩ := Val.add_exact M ha hb
  obtain ⟨hmul, hprod⟩ := Val.mul_exact ha hb
  exact ⟨hadd, hsum, hmul, hprod⟩

/-! ### The rounding instructions -/

theorem fcvt_gives {o : ROp} {s : State} (hg : s.guard o.grd = true) (h : (Instr.fcvt o).WellFormed) :
    ∃ ts, Ty.ofCode o.c.toNat = some ts ∧ Gives (.fcvt o) s o.d
      (o.ty.ext (convert o.ty ts (Rm.ofCode o.rm.toNat) o.sat ((s.G o.a).toNat % 2 ^ ts.width))) := by
  have hsome : (Ty.ofCode o.c.toNat).isSome = true := by
    simp only [Instr.WellFormed, legal, Bool.and_eq_true, decide_eq_true_eq] at h
    have hc : o.c.toNat ≤ 18 := h.1.1.2
    generalize o.c = c at hc ⊢
    revert c
    decide
  obtain ⟨ts, hts⟩ := Option.isSome_iff_exists.1 hsome
  have hrun : exec (.fcvt o) s = wordOp o.grd o.d s
      (o.ty.ext (convert o.ty ts (.ofCode o.rm.toNat) o.sat (s.uval ts o.a))) := by
    show execFcvt o s = _
    rw [execFcvt, hts]
    rfl
  exact ⟨ts, hts, gives_of_wordOp hg hrun⟩

/-- The canonical NaN of a format of R119 (R122). -/
theorem nan_of_isF : ∀ {t : Ty}, t.isF = true → (match t with
    | .f64 => 0x7FF8000000000000
    | .f32 => 0x7FC00000
    | .f16 => 0x7E00
    | _ => 0x7FC0 : Word) = BitVec.ofNat 64 (fmtD t).nan := by
  intro t h
  cases t <;> revert h <;> decide

/-- An instruction whose exact value is a NaN writes the canonical NaN. -/
theorem nan_gives {i : Instr} {o : ROp} {s : State} {x : Val} {v : Word} (hg : s.guard o.grd = true)
    (hi : exec i s = fltOp o s x) (hv : v = BitVec.ofNat 64 (fmtD o.ty).nan) (hx : x = .nan) : Gives i s o.d v := by
  subst hx hv
  exact gives_of_wordOp hg hi

theorem minmax_nan {f : Fmt} {x y : Nat} (mx : Bool) (hx : (f.val x).isNan = true) (hy : (f.val y).isNan = true) :
    f.minmax mx x y = f.nan := by
  simp [Fmt.minmax, hx, hy]

/-- Settles O6: each instruction rounds one exact value, and a NaN operand makes that value a NaN. -/
theorem floatResults : Obligations.FloatResults := by
  refine ⟨fun o s hg => ⟨gives_of_wordOp hg rfl, gives_of_wordOp hg rfl, gives_of_wordOp hg rfl, gives_of_wordOp hg rfl,
    gives_of_wordOp hg rfl, gives_of_wordOp hg rfl, fcvt_gives hg⟩, fun o s hg => ?_⟩
  intro nan na nb hty
  have hnan : nan = BitVec.ofNat 64 (fmtD o.ty).nan := nan_of_isF hty
  refine ⟨fun h => ?_, fun h => ?_, fun h => ?_, fun h => ?_⟩
  · obtain h | h := h
    all_goals
      have h := Val.eq_nan h
      exact ⟨nan_gives hg rfl hnan (by simp [h]), nan_gives hg rfl hnan (by simp [h]),
        nan_gives hg rfl hnan (by simp [h]), nan_gives hg rfl hnan (by simp [h]), nan_gives hg rfl hnan (by simp [h])⟩
  · exact nan_gives hg rfl hnan (by simp [Val.eq_nan h])
  · exact nan_gives hg rfl hnan (by simp [Val.eq_nan h, Val.sqrt])
  · rw [hnan, ← minmax_nan false h.1 h.2]
    refine ⟨gives_of_wordOp hg rfl, ?_⟩
    rw [minmax_nan false h.1 h.2, ← minmax_nan true h.1 h.2]
    exact gives_of_wordOp hg rfl

/-! ### The instructions that do not round (O8) -/

/-- Minimum and maximum of operands that are not both NaN (R238). -/
theorem minmax_eq (f : Fmt) (mx : Bool) (x y : Nat) (h : ¬ ((f.val x).isNan = true ∧ (f.val y).isNan = true)) :
    f.minmax mx x y = if (f.val x).isNan then y else if (f.val y).isNan then x
      else if (f.val x).cmp (f.val y) = .lt ∨ ((f.val x).cmp (f.val y) = .eq ∧ bitAt x (f.eb + f.fb) = true) then
        (if mx then y else x) else (if mx then x else y) := by
  unfold Fmt.minmax
  cases hx : (f.val x).isNan <;> cases hy : (f.val y).isNan
  · cases hc : (f.val x).cmp (f.val y) <;> cases mx <;> simp [hx, hy, hc]
    cases bitAt x (f.eb + f.fb) <;> simp
  · simp [hx, hy]
  · simp [hx, hy]
  · exact absurd ⟨hx, hy⟩ h

theorem sign_place {t : Ty} (h : 9 ≤ t.code ∧ t.code ≤ 15) : t.width - 1 = (fmtD t).eb + (fmtD t).fb := by
  cases t <;> revert h <;> decide

theorem ROp.flt2_isF {o : ROp} (h : o.flt2 = true) : 9 ≤ o.ty.code ∧ o.ty.code ≤ 15 := by
  simp only [ROp.flt2, Ty.isF, Bool.and_eq_true, decide_eq_true_eq] at h
  omega

theorem fminmax_gives {i : Instr} {o : ROp} {s : State} (mx : Bool) (hg : s.guard o.grd = true)
    (hi : exec i s = wordOp o.grd o.d s (BitVec.ofNat 64 ((fmtD o.ty).minmax mx (s.uval o.ty o.a) (s.uval o.ty o.b))))
    (hl : legal i = (o.flt2 && o.mod0)) (hw : i.WellFormed) :
    let a := s.fval o.ty o.a
    let b := s.fval o.ty o.b
    let x := (s.G o.a).toNat % 2 ^ o.ty.width
    let y := (s.G o.b).toNat % 2 ^ o.ty.width
    ¬ (a.isNan = true ∧ b.isNan = true) → Gives i s o.d
      (BitVec.ofNat 64 (if a.isNan then y else if b.isNan then x
        else if a.cmp b = .lt ∨ (a.cmp b = .eq ∧ bitAt x (o.ty.width - 1) = true) then (if mx then y else x)
          else (if mx then x else y))) := by
  intro a b x y hn
  have hflt : o.flt2 = true := by
    simp only [Instr.WellFormed, hl, Bool.and_eq_true] at hw
    exact hw.1
  have heq := minmax_eq (fmtD o.ty) mx x y hn
  rw [← sign_place (ROp.flt2_isF hflt)] at heq
  exact heq ▸ gives_of_wordOp hg hi

/-- The conditions of FCMP (R241). -/
theorem condFlt_eq {c : BitVec 4} (hc : c.toNat ≤ 7) (a b : Val) : condFlt c.toNat a b = true ↔
    if a.isNan = true ∨ b.isNan = true then c = 1 ∨ c = 6
     else (c = 0 ∧ a.cmp b = .eq) ∨ (c = 1 ∧ a.cmp b ≠ .eq) ∨ (c = 2 ∧ a.cmp b = .lt) ∨
       (c = 3 ∧ a.cmp b ≠ .gt) ∨ (c = 4 ∧ a.cmp b = .gt) ∨ (c = 5 ∧ a.cmp b ≠ .lt) ∨ c = 7 := by
  have hcases : c = 0 ∨ c = 1 ∨ c = 2 ∨ c = 3 ∨ c = 4 ∨ c = 5 ∨ c = 6 ∨ c = 7 := by
    revert c
    decide
  unfold condFlt
  by_cases hn : a.isNan = true ∨ b.isNan = true
  · have hn' : (a.isNan || b.isNan) = true := by simpa using hn
    rw [if_pos hn', if_pos hn]
    obtain rfl | rfl | rfl | rfl | rfl | rfl | rfl | rfl := hcases <;> decide
  · have hn' : ¬ (a.isNan || b.isNan) = true := by simpa using hn
    rw [if_neg hn', if_neg hn]
    generalize a.cmp b = r
    obtain rfl | rfl | rfl | rfl | rfl | rfl | rfl | rfl := hcases <;> cases r <;> decide

theorem fcmp_gives {o : ROp} {s : State} (hg : s.guard o.grd = true) (h : (Instr.fcmp o).WellFormed) :
    let a := s.fval o.ty o.a
    let b := s.fval o.ty o.b
    Gives (.fcmp o) s o.d (predWord
      (if a.isNan = true ∨ b.isNan = true then o.sel = 1 ∨ o.sel = 6
       else (o.sel = 0 ∧ a.cmp b = .eq) ∨ (o.sel = 1 ∧ a.cmp b ≠ .eq) ∨ (o.sel = 2 ∧ a.cmp b = .lt) ∨
         (o.sel = 3 ∧ a.cmp b ≠ .gt) ∨ (o.sel = 4 ∧ a.cmp b = .gt) ∨ (o.sel = 5 ∧ a.cmp b ≠ .lt) ∨ o.sel = 7)) := by
  have hsel : o.sel.toNat ≤ 7 := by
    simp only [Instr.WellFormed, legal, Bool.and_eq_true, decide_eq_true_eq] at h
    exact h.1.1.2
  dsimp only
  rw [← boolWord_eq_predWord (condFlt_eq hsel _ _)]
  exact gives_of_wordOp hg rfl

/-- The classes of R243, each a bit of its own. -/
theorem fclassBits_spec (f : Fmt) (x : Nat) : ∃ n, fclassBits f x = 2 ^ n ∧ n ≤ 8 ∧ (n = 8 ↔ (f.val x).isNan = true) ∧
    (n = 0 ↔ f.val x = .inf true) ∧ (n = 7 ↔ f.val x = .inf false) ∧ (n = 3 ∨ n = 4 ↔ ∃ z e, f.val x = .fin z 0 e) ∧
    (n = 2 ∨ n = 5 ↔ (f.val x).isFin = true ∧ fld x f.fb f.eb = 0 ∧ ¬ ∃ z e, f.val x = .fin z 0 e) ∧
    (n < 8 → (n < 4 ↔ bitAt x (f.eb + f.fb) = true)) := by
  have hinf : ∀ z, f.val x = .inf z → bitAt x (f.eb + f.fb) = z := fun z h => by
    rw [Fmt.val] at h
    split_ifs at h
    simpa using h
  unfold fclassBits
  cases hv : f.val x with
  | nan => exact ⟨8, by simp [Val.isNan, Val.isFin]⟩
  | inf z =>
    have hz := hinf z hv
    cases z
    · exact ⟨7, by simp [hz, Val.isNan, Val.isFin]⟩
    · exact ⟨0, by simp [hz, Val.isNan, Val.isFin]⟩
  | fin z m e =>
    by_cases hm : m = 0
    · cases hs : bitAt x (f.eb + f.fb)
      · exact ⟨4, by simp [hm, Val.isNan, Val.isFin]⟩
      · exact ⟨3, by simp [hm, Val.isNan, Val.isFin]⟩
    · by_cases he : fld x f.fb f.eb = 0
      · cases hs : bitAt x (f.eb + f.fb)
        · exact ⟨5, by simp [hm, he, Val.isNan, Val.isFin]⟩
        · exact ⟨2, by simp [hm, he, Val.isNan, Val.isFin]⟩
      · cases hs : bitAt x (f.eb + f.fb)
        · exact ⟨6, by simp [hm, he, Val.isNan, Val.isFin]⟩
        · exact ⟨1, by simp [hm, he, Val.isNan, Val.isFin]⟩

theorem fclass_gives {o : ROp} {s : State} (hg : s.guard o.grd = true) (h : (Instr.fclass o).WellFormed) :
    let a := s.fval o.ty o.a
    let x := (s.G o.a).toNat % 2 ^ o.ty.width
    ∃ n, Gives (.fclass o) s o.d (BitVec.ofNat 64 (2 ^ n)) ∧ n ≤ 8 ∧
      (n = 8 ↔ a.isNan = true) ∧ (n = 0 ↔ a = .inf true) ∧ (n = 7 ↔ a = .inf false) ∧
      (n = 3 ∨ n = 4 ↔ ∃ z e, a = .fin z 0 e) ∧
      (n = 2 ∨ n = 5 ↔ a.isFin = true ∧ fld x (fmtD o.ty).fb (fmtD o.ty).eb = 0 ∧ ¬ ∃ z e, a = .fin z 0 e) ∧
      (n < 8 → (n < 4 ↔ bitAt x (o.ty.width - 1) = true)) := by
  have hcode : 9 ≤ o.ty.code ∧ o.ty.code ≤ 15 := by
    simp only [Instr.WellFormed, legal, Bool.and_eq_true, decide_eq_true_eq] at h
    tauto
  obtain ⟨n, hn, hspec⟩ := fclassBits_spec (fmtD o.ty) (s.uval o.ty o.a)
  rw [← sign_place hcode] at hspec
  exact ⟨n, hn ▸ gives_of_wordOp hg rfl, hspec⟩

/-- A sign bit put on top of a magnitude. -/
theorem setBit_top {x top : Nat} (hx : x < 2 ^ (top + 1)) (b : Bool) : setBit x top b < 2 ^ (top + 1) ∧
    setBit x top b % 2 ^ top = x % 2 ^ top ∧ bitAt (setBit x top b) top = b := by
  have hlow := Nat.mod_lt x (Nat.two_pow_pos top)
  have heq : setBit x top b = b.toNat * 2 ^ top + x % 2 ^ top := by
    rw [setBit, setFld, Nat.div_eq_of_lt hx]
    cases b <;> simp
  have hb : b.toNat ≤ 1 := b.toNat_le
  rw [heq]
  refine ⟨?_, ?_, ?_⟩
  · rw [Nat.pow_succ]
    cases b <;> simp <;> omega
  · rw [Nat.mul_comm, Nat.mul_add_mod, Nat.mod_mod]
  · rw [bitAt, Nat.mul_comm, Nat.mul_add_div (Nat.two_pow_pos top), Nat.div_eq_of_lt hlow]
    cases b <;> rfl

theorem fmtD_bounds {t : Ty} (h : t.isF = true) : (fmtD t).nan < 2 ^ 64 ∧ t.width - 1 = (fmtD t).eb + (fmtD t).fb := by
  cases t <;> revert h <;> decide

/-- The sign that FSGN gives (R244), from the sign of A and that of B, a NaN counted as positive. -/
noncomputable def fsgnSign (c : BitVec 4) (sa sb : Bool) : Bool := if c = 0 then sb else if c = 1 then !sb else sa != sb

theorem fsgnBits_eq (f : Fmt) {c : BitVec 4} (hc : c.toNat ≤ 2) {x y : Nat} (hx : (f.val x).isNan = false) :
    fsgnBits f c.toNat x y = setBit x (f.eb + f.fb)
      (fsgnSign c (bitAt x (f.eb + f.fb)) (bitAt y (f.eb + f.fb) && !(f.val y).isNan)) := by
  have hcases : c = 0 ∨ c = 1 ∨ c = 2 := by
    revert c
    decide
  unfold fsgnBits
  rw [if_neg (by simp [hx])]
  obtain rfl | rfl | rfl := hcases <;> rfl

theorem fsgn_gives {o : ROp} {s : State} (hg : s.guard o.grd = true) (h : (Instr.fsgn o).WellFormed) :
    let a := s.fval o.ty o.a
    let b := s.fval o.ty o.b
    let x := (s.G o.a).toNat % 2 ^ o.ty.width
    let y := (s.G o.b).toNat % 2 ^ o.ty.width
    let sign := fun z => bitAt z (o.ty.width - 1)
    ∃ v, Gives (.fsgn o) s o.d v ∧ (a.isNan = true → v.toNat = (fmtD o.ty).nan) ∧
      (a.isNan = false → v.toNat < 2 ^ o.ty.width ∧ v.toNat % 2 ^ (o.ty.width - 1) = x % 2 ^ (o.ty.width - 1) ∧
        let sb := sign y && !b.isNan
        sign v.toNat = (if o.sel = 0 then sb else if o.sel = 1 then !sb else sign x != sb)) := by
  intro a b x y sign
  obtain ⟨hty, hsel⟩ : o.ty.isF = true ∧ o.sel.toNat ≤ 2 := by
    simp only [Instr.WellFormed, legal, Bool.and_eq_true, decide_eq_true_eq] at h
    tauto
  obtain ⟨hnan, htop⟩ := fmtD_bounds hty
  refine ⟨_, gives_of_wordOp hg rfl, fun ha => ?_, fun ha => ?_⟩
  · have hn : fsgnBits (fmtD o.ty) o.sel.toNat x y = (fmtD o.ty).nan := if_pos ha
    rw [BitVec.toNat_ofNat]
    exact (congrArg (· % 2 ^ 64) hn).trans (Nat.mod_eq_of_lt hnan)
  · have hw : o.ty.width - 1 + 1 = o.ty.width := Nat.sub_add_cancel o.ty.width_pos
    have hx : x < 2 ^ (o.ty.width - 1 + 1) := by
      rw [hw]
      exact Nat.mod_lt _ (Nat.two_pow_pos _)
    obtain ⟨hlt, hmag, hsign⟩ := setBit_top hx (fsgnSign o.sel (sign x) (sign y && !b.isNan))
    rw [hw] at hlt
    have hv : (BitVec.ofNat 64 (fsgnBits (fmtD o.ty) o.sel.toNat (s.uval o.ty o.a) (s.uval o.ty o.b))).toNat =
        setBit x (o.ty.width - 1) (fsgnSign o.sel (sign x) (sign y && !b.isNan)) := by
      rw [fsgnBits_eq (fmtD o.ty) hsel ha, ← htop, BitVec.toNat_ofNat]
      exact Nat.mod_eq_of_lt (hlt.trans_le (Nat.pow_le_pow_right (by decide) o.ty.width_le))
    rw [hv]
    exact ⟨hlt, hmag, hsign⟩

/-- Settles O8: minimum, maximum, comparison, class and sign by the cases of their operands. -/
theorem floatSelect : Obligations.FloatSelect := fun _ _ hg =>
  ⟨fminmax_gives false hg rfl rfl, fminmax_gives true hg rfl rfl, fcmp_gives hg, fclass_gives hg, fsgn_gives hg⟩

end Sys2Proof.Machine
end

section
/-! The frame of homes, watches and wakes (R65, R81, R90–R117): what they leave of the machine, of a core and of a
context, and that a context that waits for nothing keeps all but the note of a ring. -/

namespace Sys2Proof.Machine
open Sys2Proof

/-! ### The tables of homes -/

/-- Apart from memory and the tables that homes keep, `t` is `s`. -/
noncomputable def Bookkept (s t : State) : Prop :=
  t = { s with mem := t.mem, empties := t.empties, poison := t.poison, parkedLines := t.parkedLines, lines := t.lines
               owners := t.owners, xlates := t.xlates, watches := t.watches, cacheCnt := t.cacheCnt, free := t.free
               priFailed := t.priFailed, pri := t.pri, pageIns := t.pageIns }

namespace Bookkept

theorem refl (s : State) : Bookkept s s := rfl

theorem trans {s t u : State} (h1 : Bookkept s t) (h2 : Bookkept t u) : Bookkept s u := by
  unfold Bookkept at h1 h2 ⊢
  refine Eq.trans h2 ?_
  rw [h1]

theorem cores {s t : State} (h : Bookkept s t) : t.cores = s.cores := by rw [h]
theorem cur {s t : State} (h : Bookkept s t) : t.cur = s.cur := by rw [h]
theorem pair {s t : State} (h : Bookkept s t) : t.pair = s.pair := by rw [h]

theorem with_cores {s t : State} (h : Bookkept s t) (c : KMap Core) :
    Bookkept { s with cores := c } { t with cores := c } := by
  unfold Bookkept at *
  conv_lhs => rw [h]

theorem foldl {α : Type} {f : State → α → State} (hf : ∀ s a, Bookkept s (f s a)) (l : List α) (s : State) :
    Bookkept s (l.foldl f s) := by
  induction l generalizing s with
  | nil => exact refl s
  | cons a l ih => exact (hf s a).trans (ih _)

theorem ite {s t u : State} {c : Prop} [Decidable c] (ht : Bookkept s t) (hu : Bookkept s u) :
    Bookkept s (if c then t else u) := by
  split
  · exact ht
  · exact hu

end Bookkept

theorem State.setPhysWord_bookkept (s : State) (pa v : Nat) : Bookkept s (s.setPhysWord pa v) := by
  unfold State.setPhysWord
  dsimp only
  split
  · rfl
  · split
    · rfl
    · rfl

theorem State.touch_bookkept (s : State) (va : Word) (b : Bool) : Bookkept s (s.touch va b) := by
  unfold State.touch
  dsimp only
  split
  · next x _ =>
    have h : Bookkept s (if fld (s.physWord x.leaf) 0 3 = 7 then s.setPhysWord x.leaf
        (if b then setBit (setBit (s.physWord x.leaf) 9 true) 8 true else setBit (s.physWord x.leaf) 9 true) else s) :=
      .ite (s.setPhysWord_bookkept _ _) (.refl s)
    exact .ite (Bookkept.trans h rfl) (.refl s)
  · split
    · exact .ite (s.setPhysWord_bookkept _ _) (.refl s)
    · exact .refl s

theorem State.countCache_bookkept (s : State) (key dom : Nat) (f : CacheCnt → CacheCnt) :
    Bookkept s (s.countCache key dom f) := rfl

theorem State.writeLine_bookkept (s : State) (l : Line) (frame : Nat) : Bookkept s (s.writeLine l frame) := by
  have h : Bookkept s ((List.range 8).foldl (fun s i =>
      ((s.wr (frame + 8 * i) 8 ((l.ws[i]?).getD 0).toNat).setPoison (frame + 8 * i) (bitAt l.poison i)).setFull
        (frame + 8 * i) (bitAt l.fe i)) s) := by
    apply Bookkept.foldl
    intro _ _
    rfl
  exact Bookkept.trans h rfl

theorem State.writeBack_bookkept (s : State) (key : Nat) (l : Line) : Bookkept s (s.writeBack key l) :=
  (s.countCache_bookkept _ _ _).trans (State.writeLine_bookkept _ _ _)

theorem State.displace_bookkept (s : State) (key dom : Nat) : Bookkept s (s.displace key dom) := by
  unfold State.displace
  dsimp only
  split
  · rfl
  · split
    · rfl
    · next e _ =>
      have h : Bookkept s (if e.2.dirty then s.writeBack e.1 e.2 else s) := .ite (s.writeBack_bookkept _ _) (.refl s)
      exact Bookkept.trans h rfl

theorem State.rawPut_bookkept (s : State) (va : Word) (v mask : Nat) : Bookkept s (s.rawPut va v mask) := by
  unfold State.rawPut
  split
  · next pa _ =>
    have h : Bookkept s (if (s.lines.find? (lineKey 0 va)).isSome then s else s.displace (lineKey 0 va) 0) :=
      .ite (.refl s) (s.displace_bookkept _ _)
    have hput : ∀ (u : State) (l : Line), Bookkept u { u with lines := u.lines.put (lineKey 0 va) l } := fun _ _ => rfl
    exact h.trans ((hput _ _).trans (State.touch_bookkept _ _ _))
  · rfl

theorem State.setHeap_bookkept (s : State) (slice off v : Nat) : Bookkept s (s.setHeap slice off v) :=
  s.rawPut_bookkept _ _ _

theorem State.heapLink_bookkept (s : State) (slice i off : Nat) (l : List Watch) :
    Bookkept s (s.heapLink slice i off l) := by
  unfold State.heapLink
  split
  · exact s.setHeap_bookkept _ _ _
  · exact s.setHeap_bookkept _ _ _

theorem State.heapTake_bookkept {s t : State} {key : Nat} {w : Watch} {front : Bool}
    (h : s.heapTake key w front = some t) : Bookkept s t := by
  unfold State.heapTake at h
  dsimp only at h
  split at h
  · cases h
  · obtain rfl := Option.some.inj h
    exact (s.setHeap_bookkept _ _ _).trans ((State.setHeap_bookkept _ _ _ _).trans
      ((State.setHeap_bookkept _ _ _ _).trans ((State.setHeap_bookkept _ _ _ _).trans
        (State.heapLink_bookkept _ _ _ _ _))))

theorem State.heapReturn_bookkept (s : State) (slice off : Nat) : Bookkept s (s.heapReturn slice off) :=
  (s.setHeap_bookkept _ _ _).trans ((State.setHeap_bookkept _ _ _ _).trans (State.setHeap_bookkept _ _ _ _))

theorem State.heapFree_bookkept (s : State) (slice i off : Nat) : Bookkept s (s.heapFree slice i off) :=
  (s.heapLink_bookkept _ _ _ _).trans (State.heapReturn_bookkept _ _ _)

theorem State.parkLine_bookkept (s : State) (key : Nat) (p : Bool) : Bookkept s (s.parkLine key p) := by
  unfold State.parkLine
  dsimp only
  cases s.lines.find? key with
  | some l => exact .ite rfl rfl
  | none =>
    dsimp only
    split
    · exact .ite (.refl s) rfl
    · exact .refl s

theorem State.setParked_bookkept (s : State) (key : Nat) : Bookkept s (s.setParked key) :=
  .ite (s.parkLine_bookkept _ _) (.refl s)

theorem State.setWatches_bookkept (s : State) (key : Nat) (keep gone : List Watch) :
    Bookkept s (s.setWatches key keep gone) := by
  have hfree : ∀ (s : State) (w : Watch), Bookkept s (match w.heap with
      | some off => s.heapFree (s.sliceOf key) key off
      | none => s) := fun s w => by
    split
    · exact s.heapFree_bookkept _ _ _
    · rfl
  have hdir : ∀ (s : State) (l : List Watch), Bookkept s
      { s with watches := if l.isEmpty then s.watches.del key else s.watches.put key l } := fun _ _ => rfl
  exact (Bookkept.foldl hfree gone s).trans ((hdir _ _).trans (.ite (State.setParked_bookkept _ _) (.refl _)))

/-! ### Wakes -/

/-- A core without its contexts, its copies, its requests for lines and its watches. -/
noncomputable def Core.calm (c : Core) : Core :=
  { c with ctxs := [], dcache := [], kcache := [], holds := [], lineReqs := [], watches := [] }

/-- A context without the note of a ring. -/
noncomputable def Ctx.unrung (x : Ctx) : Ctx := { x with rung := none }

theorem mem_of_find? {α : Type} {m : KMap α} {k : Nat} {x : α} (h : m.find? k = some x) : (k, x) ∈ m := by
  induction m with
  | nil => cases h
  | cons e m ih =>
    obtain ⟨j, y⟩ := e
    rw [KMap.find?] at h
    split at h
    · next hj =>
      cases h
      simp [hj]
    · exact List.mem_cons_of_mem _ (ih h)

/-- No chain has a record under way. -/
noncomputable def NoRuns (s : State) : Prop := ∀ e ∈ s.chains, e.2.run = none

theorem NoRuns.chain {s : State} (h : NoRuns s) (g : Nat) : (s.chain g).run = none := by
  rw [State.chain, KMap.get]
  cases hg : s.chains.find? g with
  | none => rfl
  | some c => exact h _ (mem_of_find? hg)

theorem NoRuns.of_chains {s t : State} (h : NoRuns s) (hc : t.chains = s.chains) : NoRuns t := by
  rw [NoRuns, hc]
  exact h

/-- What wakes and the bookkeeping of homes leave: all but the waits of contexts and engines, the copies that a woken
context reads anew, and the tables of homes. A context that waits for nothing keeps all but the note of a ring. -/
structure Stirred (s t : State) : Prop where
  contexts : ∀ p k, (t.ctx p k).still = (s.ctx p k).still
  idle : ∀ p k, (s.ctx p k).wait = none → (t.ctx p k).unrung = (s.ctx p k).unrung
  cores : ∀ p, (t.core p).calm = (s.core p).calm
  chains : ∀ h, (t.chain h).still = (s.chain h).still
  runs : NoRuns s → NoRuns t
  machine : Bookkept { s with cores := t.cores, chains := t.chains } t

namespace Stirred

theorem refl (s : State) : Stirred s s := ⟨fun _ _ => rfl, fun _ _ _ => rfl, fun _ => rfl, fun _ => rfl, id, rfl⟩

theorem wait_none {x y : Ctx} (h : y.unrung = x.unrung) (hw : x.wait = none) : y.wait = none :=
  (congrArg Ctx.wait h).trans hw

theorem trans {s t u : State} (h1 : Stirred s t) (h2 : Stirred t u) : Stirred s u where
  contexts := fun p k => (h2.contexts p k).trans (h1.contexts p k)
  idle := fun p k hw => (h2.idle p k (wait_none (h1.idle p k hw) hw)).trans (h1.idle p k hw)
  cores := fun p => (h2.cores p).trans (h1.cores p)
  chains := fun h => (h2.chains h).trans (h1.chains h)
  runs := h2.runs ∘ h1.runs
  machine := by
    have hm1 := h1.machine
    have hm2 := h2.machine
    unfold Bookkept at hm1 hm2 ⊢
    refine Eq.trans hm2 ?_
    rw [hm1]

theorem of_bookkept {s t : State} (h : Bookkept s t) (hc : t.chains = s.chains) : Stirred s t := by
  have hcore : ∀ p, t.core p = s.core p := fun p => by rw [State.core, State.core, h.cores]
  have hctx : ∀ p k, t.ctx p k = s.ctx p k := fun p k => by rw [State.ctx, State.ctx, hcore]
  refine ⟨fun p k => by rw [hctx], fun p k _ => by rw [hctx], fun p => by rw [hcore],
    fun h => by rw [State.chain, State.chain, hc], fun h => h.of_chains hc, ?_⟩
  rw [h.cores, hc]
  exact h

theorem foldl {α : Type} {f : State → α → State} (hf : ∀ s a, Stirred s (f s a)) (l : List α) (s : State) :
    Stirred s (l.foldl f s) := by
  induction l generalizing s with
  | nil => exact refl s
  | cons a l ih => exact (hf s a).trans (ih _)

theorem ite {s t u : State} {c : Prop} [Decidable c] (ht : Stirred s t) (hu : Stirred s u) :
    Stirred s (if c then t else u) := by
  split
  · exact ht
  · exact hu

theorem cur {s t : State} (h : Stirred s t) : t.cur = s.cur := by rw [h.machine]
theorem pair {s t : State} (h : Stirred s t) : t.pair = s.pair := by rw [h.machine]

end Stirred

theorem Bookkept.chains {s t : State} (h : Bookkept s t) : t.chains = s.chains := by rw [h]

theorem Bookkept.stirred {s t : State} (h : Bookkept s t) : Stirred s t := .of_bookkept h h.chains

/-- An update of one core that leaves its contexts and what is calm. -/
theorem Stirred.setCore (s : State) (p : Nat) (c : Core) (hctx : ∀ k, (c.ctx k).still = (s.ctx p k).still)
    (hidle : ∀ k, (s.ctx p k).wait = none → (c.ctx k).unrung = (s.ctx p k).unrung)
    (hc : c.calm = (s.core p).calm) : Stirred s (s.setCore p c) where
  contexts := fun q k => by
    by_cases hq : q = p
    · subst hq
      rw [State.ctx, State.core_setCore_self]
      exact hctx k
    · rw [State.ctx, State.core_setCore_ne _ _ hq]
      rfl
  idle := fun q k hw => by
    by_cases hq : q = p
    · subst hq
      rw [State.ctx, State.core_setCore_self]
      exact hidle k hw
    · rw [State.ctx, State.core_setCore_ne _ _ hq]
      rfl
  cores := fun q => by
    by_cases hq : q = p
    · subst hq
      rw [State.core_setCore_self, hc]
    · rw [State.core_setCore_ne _ _ hq]
  chains := fun _ => rfl
  runs := id
  machine := rfl

/-- A core whose context `k` becomes `x`, and whose own tables are those of `c`. -/
theorem Stirred.setCtx (s : State) (p k : Nat) (c : Core) (x : Ctx) (hcc : c.ctxs = (s.core p).ctxs)
    (hc : c.calm = (s.core p).calm) (hx : x.still = (s.ctx p k).still)
    (hi : (s.ctx p k).wait = none → x.unrung = (s.ctx p k).unrung) : Stirred s (s.setCore p (c.setCtx k x)) := by
  have hj : ∀ j, c.ctx j = s.ctx p j := fun j => by rw [Core.ctx, hcc]; rfl
  refine .setCore s p _ (fun j => ?_) (fun j hw => ?_) hc
  · by_cases h : j = k
    · subst h
      rw [Core.ctx_setCtx_self, hx]
    · rw [Core.ctx_setCtx_ne _ _ h, hj]
  · by_cases h : j = k
    · subst h
      rw [Core.ctx_setCtx_self, hi hw]
    · rw [Core.ctx_setCtx_ne _ _ h, hj]

theorem State.wake_stirred (s : State) (p k : Nat) : Stirred s (s.wake p k) := by
  have hctx : s.ctx p k = (s.core p).ctx k := rfl
  unfold State.wake
  dsimp only
  split
  · exact .refl s
  · next w hw =>
    have hwait : (s.ctx p k).wait ≠ none := by rw [hctx, hw]; exact fun h => by cases h
    split
    · exact .setCtx s p k _ _ rfl rfl rfl fun h => absurd h hwait
    · exact .setCtx s p k _ _ rfl rfl rfl fun h => absurd h hwait
    · split
      · exact .setCtx s p k _ _ rfl rfl rfl fun h => absurd h hwait
      · exact .setCtx s p k _ _ rfl rfl rfl fun h => absurd h hwait
    · exact .setCtx s p k _ _ rfl rfl rfl fun h => absurd h hwait
    · exact .setCtx s p k _ _ rfl rfl rfl fun h => absurd h hwait
    · exact .setCtx s p k _ _ rfl rfl rfl fun h => absurd h hwait

theorem State.wakeIf_stirred (s : State) (p : Nat) (f : WaitOn → Bool) : Stirred s (s.wakeIf p f) :=
  .foldl (fun s k => s.wake_stirred p k) _ s

theorem State.wakeAll_stirred (s : State) (f : WaitOn → Bool) : Stirred s (s.wakeAll f) := by
  apply Stirred.foldl
  intro s e
  exact s.wakeIf_stirred e.1 f

/-- An update of one context that leaves what is still, and all but the note of a ring where it waits for nothing. -/
theorem State.setCtx_stirred (s : State) (p k : Nat) (x : Ctx) (hx : x.still = (s.ctx p k).still)
    (hi : (s.ctx p k).wait = none → x.unrung = (s.ctx p k).unrung) : Stirred s (s.setCtx p k x) :=
  .setCtx s p k _ _ rfl rfl hx hi

theorem State.setChain_stirred (s : State) (h : Nat) (x : Chain) (hx : x.still = (s.chain h).still)
    (hr : (s.chain h).run = none → x.run = none) : Stirred s (s.setChain h x) where
  contexts := fun _ _ => rfl
  idle := fun _ _ _ => rfl
  cores := fun _ => rfl
  chains := fun j => by
    by_cases hj : j = h
    · subst hj
      rw [State.chain, State.setChain, KMap.get_put_self, hx]
    · rw [State.chain, State.setChain, KMap.get_put_ne _ _ _ hj]
      rfl
  runs := fun hn e he => by
    obtain rfl | he := KMap.mem_put he
    · exact hr (hn.chain h)
    · exact hn e he
  machine := rfl

/-- A context that waited may be marked once it is woken. -/
theorem Stirred.mark {s t : State} (h : Stirred s t) {p k : Nat} (hw : (s.ctx p k).wait ≠ none) (x : Ctx)
    (hx : x.still = (t.ctx p k).still) : Stirred s (t.setCtx p k x) where
  contexts := fun q j => by
    by_cases hq : (q, j) = (p, k)
    · obtain ⟨rfl, rfl⟩ := Prod.mk.inj hq
      rw [State.ctx_setCtx_self, hx, h.contexts]
    · rw [State.ctx_setCtx_ne _ _ hq, h.contexts]
  idle := fun q j hi => by
    by_cases hq : (q, j) = (p, k)
    · obtain ⟨rfl, rfl⟩ := Prod.mk.inj hq
      exact absurd hi hw
    · rw [State.ctx_setCtx_ne _ _ hq, h.idle q j hi]
  cores := fun q => by
    by_cases hq : q = p
    · subst hq
      rw [State.setCtx, State.core_setCore_self]
      exact h.cores q
    · rw [State.setCtx, State.core_setCore_ne _ _ hq, h.cores]
  chains := h.chains
  runs := h.runs
  machine := h.machine.with_cores _

/-- A context that waits for a watch is woken by it. -/
theorem State.wake_mark_stirred (s : State) {p k : Nat} (hw : (s.ctx p k).wait ≠ none) (b : Bool) :
    Stirred s (if b then (s.wake p k).setCtx p k { (s.wake p k).ctx p k with front := true } else s.wake p k) :=
  .ite ((s.wake_stirred p k).mark hw _ rfl) (s.wake_stirred p k)

theorem State.wakeWatch_stirred (s : State) (w : Watch) : Stirred s (s.wakeWatch w) := by
  unfold State.wakeWatch
  split
  · exact s.setChain_stirred _ _ rfl fun hn => by rw [hn]; rfl
  · refine .ite (.refl s) ?_
    dsimp only
    split
    case h_5 => exact s.setCtx_stirred _ _ _ rfl fun _ => rfl
    all_goals
      next hw => exact s.wake_mark_stirred (by rw [hw]; exact Option.some_ne_none _) _

theorem State.wakeLive_stirred (s : State) (w : Watch) : Stirred s (if s.watchLive w then s.wakeWatch w else s) :=
  .ite (s.wakeWatch_stirred w) (.refl s)

/-! ### Watches at homes and in local stores -/

theorem State.touch_stirred (s : State) (va : Word) (b : Bool) : Stirred s (s.touch va b) := (s.touch_bookkept va b).stirred

theorem State.parkLine_stirred (s : State) (key : Nat) (p : Bool) : Stirred s (s.parkLine key p) :=
  (s.parkLine_bookkept key p).stirred

theorem State.healHeap_stirred (s : State) (slice key : Nat) : Stirred s (s.healHeap slice key) := by
  have hback : ∀ (s : State) (w : Watch), Stirred s (match w.heap with
      | some off => s.heapReturn slice off
      | none => s) := fun s w => by
    split
    · exact (s.heapReturn_bookkept _ _).stirred
    · exact .refl s
  have htouch : Stirred s (if s.heapOn then s.touch (s.heapVa slice (chainHead key)) false else s) :=
    .ite (s.touch_stirred _ _) (.refl s)
  unfold State.healHeap
  refine htouch.trans ?_
  generalize (if s.heapOn then s.touch (s.heapVa slice (chainHead key)) false else s) = u
  dsimp only
  split
  · exact .ite (State.parkLine_stirred _ _ _) (.refl _)
  · exact ((Stirred.foldl State.wakeLive_stirred _ _).trans (.foldl hback _ _)).trans
      ((State.setHeap_bookkept _ _ _ _).stirred.trans (.foldl (fun s k => (s.setParked_bookkept k).stirred) _ _))

theorem State.setWatches_stirred (s : State) (key : Nat) (keep gone : List Watch) :
    Stirred s (s.setWatches key keep gone) := (s.setWatches_bookkept key keep gone).stirred

theorem State.addWatch_stirred (s : State) (w : Watch) (heapOk front : Bool) :
    Stirred s (s.addWatch w heapOk front).1 := by
  unfold State.addWatch
  dsimp only
  refine (s.healHeap_stirred (s.sliceOf (w.word / 8)) (w.word / 8)).trans ?_
  split
  · exact Bookkept.stirred rfl
  · split
    · split
      · next h => exact ((State.heapTake_bookkept h).trans (State.setParked_bookkept _ _)).stirred
      · exact .refl _
    · exact .refl _

theorem State.wakeWord_stirred (s : State) (wk : Nat) (full : Bool) : Stirred s (s.wakeWord wk full) := by
  unfold State.wakeWord
  exact (s.healHeap_stirred _ _).trans ((State.setWatches_stirred _ _ _ _).trans (.foldl State.wakeWatch_stirred _ _))

theorem State.wakeLine_stirred (s : State) (key : Nat) : Stirred s (s.wakeLine key) := by
  unfold State.wakeLine
  dsimp only
  refine (s.healHeap_stirred (s.sliceOf key) key).trans ?_
  exact .ite (.refl _) ((State.setWatches_stirred _ _ _ _).trans (.foldl State.wakeLive_stirred _ _))

theorem State.setWatchesOf_stirred (s : State) (p : Nat) (l : List Watch) :
    Stirred s (s.setCore p { s.core p with watches := l }) :=
  .setCore s p _ (fun _ => rfl) (fun _ _ => rfl) rfl

theorem State.lsWake_stirred (s : State) (p off : Nat) (changed full wrote : Bool) :
    Stirred s (s.lsWake p off changed full wrote) := by
  unfold State.lsWake
  dsimp only
  refine .ite (.refl s) ((s.setWatchesOf_stirred p _).trans (.foldl State.wakeWatch_stirred _ _))

theorem State.addLsWatch_stirred (s : State) (owner : Nat) (w : Watch) (front : Bool) :
    Stirred s (s.addLsWatch owner w front).1 := by
  unfold State.addLsWatch
  dsimp only
  split
  · exact .refl s
  · exact s.setWatchesOf_stirred owner _

end Sys2Proof.Machine
end

section
/-! Pairs, transfers, turns, clauses and the end of a helper (R196, R245–R256). Settles O10, O12, O13,
O14, O15 and O16. -/

namespace Sys2Proof.Machine
open Sys2Proof

/-! ### Two additions as a pair (R196) -/

theorem State.setMe_with_pair (s : State) (x : Ctx) (q : Option Pair) :
    ({ s with pair := q } : State).setMe x = { s.setMe x with pair := q } := rfl

theorem State.me_with_pair (s : State) (q : Option Pair) : ({ s with pair := q } : State).me = s.me := rfl

theorem State.view_alone {s : State} (h : s.pair = none) : s.view = s.me := by simp [State.view, h]

theorem State.view_pair {s : State} {p : Pair} (h : s.pair = some p) : s.view = p.view := by simp [State.view, h]

theorem State.ip_alone {s : State} (h : s.pair = none) : s.ip = s.me.ip := by simp [State.ip, h]

/-- A scalar result of a member of a pair: the register takes it, and the end is recorded. -/
theorem State.retire_setG_pair {s : State} {p : Pair} (h : s.pair = some p) (d : Spec) (v : Word) :
    s.retire (s.setG d v) = { s.setMe (s.me.setReg d v) with
      pair := some { p with ends := p.ends ++ [(s.ip, .next)] } } := by
  have hip : (s.setG d v).ip = s.ip := by simp [State.ip, h, State.setG, State.setMe, State.setCtx]
  rw [State.retire, State.finish_pair s (show (s.setG d v).pair = some p from h), hip]
  rfl

/-- The sum of two 64-bit registers. -/
theorem wint_add_n64 (a b : Word) : wint .n64 false (Ty.int .n64 a.toNat + Ty.int .n64 b.toNat) = a + b := by
  apply BitVec.eq_of_toNat_eq
  have ha : Ty.int .n64 a.toNat = (a.toNat : Int) := congrArg _ (Nat.mod_eq_of_lt a.isLt)
  have hb : Ty.int .n64 b.toNat = (b.toNat : Int) := congrArg _ (Nat.mod_eq_of_lt b.isLt)
  rw [ha, hb]
  change (BitVec.ofNat 64 (toBits ((a.toNat : Int) + b.toNat) 64 % 2 ^ 64)).toNat = _
  rw [BitVec.toNat_ofNat, Nat.mod_mod, Nat.mod_eq_of_lt (toBits_lt _ _), BitVec.toNat_add, toBits,
    ← Int.natCast_add, ← Int.natCast_mod, Int.toNat_natCast]

/-- ADD.n64 without saturation writes the sum of the registers that its view holds. -/
theorem exec_add_n64 {o : ROp} {s : State} (hg : s.guard o.grd = true) (ht : o.ty = .n64) (hs : o.sat = false) :
    exec (.add o) s = .next (s.retire (s.setG o.d (s.G o.a + s.G o.b))) := by
  show wordOp o.grd o.d s _ = _
  rw [wordOp_true hg, State.ival, State.ival, ht, hs, wint_add_n64]

theorem State.with_pair_self {s : State} {q : Option Pair} (h : s.pair = q) : ({ s with pair := q } : State) = s := by
  subst h
  rfl

theorem State.finishPair_next {s0 s : State} {p : Pair} {a b : Word} (hp : s.pair = some p)
    (he : p.ends = [(a, .next), (b, .next)]) : s0.finishPair s = ({ s with pair := none } : State).setMe
      { s.me with ip := nextIp (p.ip + 1), retry := false, front := false } := by
  unfold State.finishPair
  simp only [hp, he, pairTrap, firstNotReady, firstJump, hasOk, Bool.false_eq_true, if_false]
  rfl

/-- The context after two additions that both read it as it stood before them. -/
noncomputable def Ctx.added (x : Ctx) (o1 o2 : ROp) : Ctx :=
  { (x.setReg o1.d (x.reg o1.a + x.reg o1.b)).setReg o2.d (x.reg o2.a + x.reg o2.b) with
    ip := nextIp (x.ip + 1), retry := false, front := false }

/-- Both members read the view that the pair was opened with. -/
theorem runPair_add_n64 {w1 w2 : Nat} {o1 o2 : ROp} {s : State} (h1 : decodeSlot w1 = some (.add o1))
    (h2 : decodeSlot w2 = some (.add o2)) (ht1 : o1.ty = .n64) (ht2 : o2.ty = .n64) (hs1 : o1.sat = false)
    (hs2 : o2.sat = false) (hp : s.pair = none) (hg1 : s.guard o1.grd = true) (hg2 : s.guard o2.grd = true) :
    runPair w1 w2 s = .next (s.setMe (s.me.added o1 o2)) := by
  have hv0 : s.openPair.view = s.view := by rw [State.view_alone hp]; rfl
  have hrun1 := exec_add_n64 (s := s.openPair) (o := o1) (by rw [State.guard, hv0]; exact hg1) ht1 hs1
  rw [State.retire_setG_pair rfl] at hrun1
  have hv1 : ∀ (x : Ctx) (q : List (Word × End)),
      ({ s.openPair.setMe x with pair := some ⟨s.me, s.me.ip, q⟩ } : State).view = s.view := fun _ _ => by
    rw [State.view_alone hp]
    rfl
  have hrun2 := exec_add_n64 (s := { s.openPair.setMe (s.openPair.me.setReg o1.d (s.openPair.G o1.a + s.openPair.G o1.b))
    with pair := some ⟨s.me, s.me.ip, [(s.openPair.ip, .next)]⟩ }) (o := o2)
    (by rw [State.guard, hv1]; exact hg2) ht2 hs2
  rw [State.retire_setG_pair rfl] at hrun2
  refine (runPair_next ((runSlot_instr _ h1).trans hrun1) ((runSlot_instr _ h2).trans hrun2)).trans ?_
  rw [State.finishPair_next rfl rfl]
  simp only [State.openPair, State.setMe_with_pair, State.setMe_setMe,
    State.me_with_pair, State.me_setMe]
  exact congrArg _ (State.with_pair_self (s := s.setMe (s.me.added o1 o2)) hp)

theorem Ctx.reg_added (x : Ctx) {o1 o2 : ROp} (hd : o1.d ≠ o2.d) :
    (x.added o1 o2).reg o1.d = readBack o1.d (x.reg o1.a + x.reg o1.b) ∧
    (x.added o1 o2).reg o2.d = readBack o2.d (x.reg o2.a + x.reg o2.b) ∧
    ∀ r, r ≠ o1.d → r ≠ o2.d → (x.added o1 o2).reg r = x.reg r := by
  have hreg : ∀ r, (x.added o1 o2).reg r =
      ((x.setReg o1.d (x.reg o1.a + x.reg o1.b)).setReg o2.d (x.reg o2.a + x.reg o2.b)).reg r :=
    fun r => Ctx.reg_congr rfl rfl rfl rfl r
  refine ⟨?_, ?_, fun r hr1 hr2 => ?_⟩
  · rw [hreg, Ctx.reg_setReg_ne _ _ hd, Ctx.reg_setReg_self]
  · rw [hreg, Ctx.reg_setReg_self]
  · rw [hreg, Ctx.reg_setReg_ne _ _ hr2, Ctx.reg_setReg_ne _ _ hr1]

theorem Ctx.rest_added (x : Ctx) (o1 o2 : ROp) : (x.added o1 o2).rest = x.rest := by
  show ((x.setReg o1.d (x.reg o1.a + x.reg o1.b)).setReg o2.d (x.reg o2.a + x.reg o2.b)).rest = x.rest
  rw [Ctx.rest_setReg, Ctx.rest_setReg]

/-- Settles O10: the pair leaves both sums, of the registers before it, in the registers that its members name. -/
theorem pairReadsOldRegisters : Obligations.PairReadsOldRegisters := by
  intro w1 w2 o1 o2 s h1 h2 ht1 ht2 hs1 hs2 hd hp hg1 hg2
  obtain ⟨hr1, hr2, hr⟩ := s.me.reg_added hd
  refine ⟨_, runPair_add_n64 h1 h2 ht1 ht2 hs1 hs2 hp hg1 hg2, hp, ?_⟩
  rw [State.me_setMe]
  exact ⟨hr1, hr2, hr, rfl, s.me.rest_added o1 o2, rfl⟩

/-! ### Transfers -/

/-- A check of the landing looks at the instruction cache and at the failed fetch of the context. -/
theorem Core.land_setCtx (c : Core) (k : Nat) (y x : Ctx) (t : Word) : (c.setCtx k y).land x t = c.land x t := rfl

theorem Core.land_congr (c : Core) {x y : Ctx} (h : x.fetchFail = y.fetchFail) (t : Word) : c.land x t = c.land y t := by
  unfold Core.land
  rw [h]

theorem Ctx.fetchFail_setReg (x : Ctx) (d : Spec) (v : Word) : (x.setReg d v).fetchFail = x.fetchFail := by
  unfold Ctx.setReg
  dsimp only
  split_ifs <;> rfl

theorem Ctx.ip_setReg (x : Ctx) (d : Spec) (v : Word) : (x.setReg d v).ip = x.ip := by
  unfold Ctx.setReg
  dsimp only
  split_ifs <;> rfl

/-- The context at the target of a transfer. -/
noncomputable def Ctx.at (x : Ctx) (t : Word) (back : Bool) : Ctx := { x with ip := t, retry := back, front := false }

theorem State.conclude_jump (s0 u : State) (m : Move) (t : Word) :
    s0.conclude u (.jump m t) = s0.transfer u s0.me.ip s0.me.ip (nextIp s0.me.ip) m t := rfl

/-- A transfer that lands puts the context at its target. -/
theorem State.transfer_stay {s0 u : State} {t : Word} (hl : u.myCore.land u.me t = .ok) (grp src ret : Word) :
    s0.transfer u grp src ret .stay t = u.setMe (u.me.at t (decide (t.toNat ≤ src.toNat))) := by
  rw [State.transfer, hl]
  rfl

/-- `u` is `s` with `x` as its executing context. -/
structure HasMe (s u : State) (x : Ctx) : Prop where
  me : u.me = x
  setMe : ∀ y, u.setMe y = s.setMe y
  land : ∀ t, u.myCore.land x t = s.myCore.land x t
  cur : u.cur = s.cur
  pair : u.pair = s.pair
  alone : ∀ q, Alone s { u with pair := q }

theorem HasMe.refl (s : State) : HasMe s s s.me :=
  ⟨rfl, fun _ => rfl, fun _ => rfl, rfl, rfl, fun q => Alone.pair s q⟩

theorem HasMe.of_setMe (s : State) (x : Ctx) : HasMe s (s.setMe x) x where
  me := State.me_setMe s x
  setMe := fun y => State.setMe_setMe s x y
  land := fun t => by rw [State.myCore_setMe, Core.land_setCtx]
  cur := rfl
  pair := rfl
  alone := fun q => Alone.setMe s x q

theorem HasMe.ip {s u : State} {x : Ctx} (h : HasMe s u x) (hip : x.ip = s.me.ip) : u.ip = s.ip := by
  unfold State.ip
  rw [h.pair, h.me, hip]

/-- A transfer with the registers of `x`, alone and in a pair. -/
theorem jumps_of_finish {i : Instr} {s u : State} {x : Ctx} {t : Word} (hu : HasMe s u x) (hip : x.ip = s.me.ip)
    (h : exec i s = .next (s.finish u (.jump .stay t))) : Jumps i s .stay x t := by
  refine ⟨fun hp hl => ?_, fun p hp => ?_⟩
  · have hl' : u.myCore.land u.me t = .ok := by rw [hu.me, hu.land, hl]
    rw [h, State.finish_alone s (hu.pair.trans hp)]
    rw [State.conclude_jump, State.transfer_stay hl', hu.setMe, hu.me]
    rfl
  · rw [State.finish_pair s (hu.pair.trans hp), hu.ip hip] at h
    exact ⟨_, h, hu.alone _, hu.me, rfl⟩

/-- A transfer to a target that is no landing slot is a trap, and nothing of the group stands (R489, R490). -/
theorem traps_of_bad_landing {i : Instr} {s u : State} {x : Ctx} {m : Move} {t : Word} (hu : HasMe s u x)
    (hp : s.pair = none) (hl : s.myCore.land x t = .bad) (h : exec i s = .next (s.finish u (.jump m t))) :
    Traps i s 3 t := by
  refine ⟨fun _ => ?_, fun p hp' => by rw [hp] at hp'; cases hp'⟩
  have hl' : u.myCore.land u.me t = .bad := by rw [hu.me, hu.land, hl]
  rw [h, State.finish_alone s (hu.pair.trans hp)]
  rw [State.conclude_jump, State.transfer, hl', hu.cur]

theorem gives_of_finish_next {i : Instr} {s : State} (h : exec i s = .next (s.finish s .next)) : Gives i s 0 0 :=
  ⟨_, h, s.retire_same⟩

/-! ### Branches (R246, R247, R250) -/

theorem bitAt_eq_testBit (x i : Nat) : bitAt x i = x.testBit i := by
  rw [bitAt, Nat.testBit_eq_decide_div_mod_eq, beq_eq_decide]

theorem exec_boc {b : BOp} {s : State} (hg : s.guard b.grd = true) : exec (.boc b) s = .next
    (if b.imm.getLsbD (s.view.oc.toNat % 8) then s.finish s (.jump .stay (targetOf s.ip b.tgt))
      else s.finish s .next) := by
  show execBoc b s = _
  rw [execBoc, guarded_true hg, bitAt_eq_testBit, BitVec.testBit_toNat]

theorem exec_loopI {b : BOp} {s : State} (hg : s.guard b.grd = true) : exec (.loopI b) s = .next
    (s.finish (s.setG b.d (s.G b.d - 1)) (if s.G b.d = 1 then .next else .jump .stay (targetOf s.ip b.tgt))) := by
  show execLoopI b s = _
  rw [execLoopI, guarded_true hg]
  by_cases h : s.G b.d = 1
  · simp [h]
  · have h' : ¬ s.G b.d - 1 = 0 := fun e => h (by rw [← sub_eq_zero]; exact e)
    simp only [h, h', if_false]

theorem Stirred.me {s t : State} (h : Stirred s t) (hw : s.me.wait = none) : t.me.unrung = s.me.unrung := by
  rw [State.me, h.cur]
  exact h.idle _ _ hw

theorem Ctx.reg_unrung {x y : Ctx} (h : x.unrung = y.unrung) (r : Spec) : x.reg r = y.reg r :=
  Ctx.reg_congr (congrArg Ctx.g h) (congrArg Ctx.win h) (congrArg Ctx.wbase h) (congrArg Ctx.p h) r

theorem State.monitorWatch_stirred (s : State) (a : Word) : Stirred s (s.monitorWatch a).1 := by
  unfold State.monitorWatch
  dsimp only
  split
  · exact s.addLsWatch_stirred _ _ _
  · split
    · exact s.addWatch_stirred _ _ _
    · exact .refl s

theorem State.parkCtx_me (s : State) (x : Ctx) {p k : Nat} (hc : (p, k) = s.cur) (on : WaitOn) :
    ((s.setMe x).parkCtx p k on).me = { x with
      wait := if on = .now then none else some ⟨on, (s.setMe x).myCore.cyc, s.ticks⟩, retry := x.retry && on.fetches } := by
  obtain ⟨rfl, rfl⟩ : p = s.cur.1 ∧ k = s.cur.2 := by rw [← hc]; exact ⟨rfl, rfl⟩
  exact (State.me_setMe _ _).trans (by rw [show ((s.setMe x).core s.cur.1).ctx s.cur.2 = x from State.me_setMe s x]; rfl)

theorem State.ellipsis_off {s : State} (br t : Word) (h : s.conf.monitor = false ∨ s.me.spinsOff = true) :
    s.ellipsis br t = s := by
  unfold State.ellipsis
  rcases h with h | h
  · simp [h]
  · simp [h]

/-- The ellipsis monitor leaves the target and the registers of its context, which may park (R79). -/
theorem State.ellipsis_me {s : State} (br t : Word) (hw : s.me.wait = none) :
    (s.ellipsis br t).me.ip = s.me.ip ∧ ∀ r, (s.ellipsis br t).me.reg r = s.me.reg r := by
  have hmon : ∀ m : Monitor, (s.setMe { s.me with mon := m }).me.ip = s.me.ip ∧
      ∀ r, (s.setMe { s.me with mon := m }).me.reg r = s.me.reg r := fun m => by
    rw [State.me_setMe]
    exact ⟨rfl, fun r => Ctx.reg_congr rfl rfl rfl rfl r⟩
  unfold State.ellipsis
  dsimp only
  split
  · exact ⟨rfl, fun _ => rfl⟩
  · split
    · exact hmon _
    · next a _ _ =>
      split
      · have hst := State.monitorWatch_stirred (s.setMe { s.me with mon := { s.me.mon with
          br := some br, regs := s.me.allRegs, p := s.me.p, oc := s.me.oc, prev := s.me.mon.load
          load := none, dirty := false } }) a
        split
        · next s2 heq =>
          rw [heq] at hst
          have hme := hst.me (by rw [State.me_setMe]; exact hw)
          rw [State.me_setMe] at hme
          have hip := congrArg Ctx.ip hme
          have hreg : ∀ r, s2.me.reg r = s.me.reg r := fun r =>
            (Ctx.reg_unrung hme r).trans (Ctx.reg_congr rfl rfl rfl rfl r)
          rw [State.parkCtx_me _ _ (by rw [hst.cur]; rfl)]
          exact ⟨hip, fun r => Eq.trans (Ctx.reg_congr rfl rfl rfl rfl r) (hreg r)⟩
        · exact hmon _
      · exact hmon _

theorem exec_br {b : BOp} {s : State} (hg : s.guard b.grd = true) : exec (.br b) s = .next
    (if s.pair.isNone && (targetOf s.ip b.tgt).toNat ≤ s.ip.toNat && s.myCore.land s.me (targetOf s.ip b.tgt) == .ok then
      (s.finish s (.jump .stay (targetOf s.ip b.tgt))).ellipsis s.ip (targetOf s.ip b.tgt)
    else s.finish s (.jump .stay (targetOf s.ip b.tgt))) := by
  show execBr b s = _
  rw [execBr, guarded_true hg]

theorem jumps_of_alone {i : Instr} {s : State} {t : Word}
    (h : s.pair = none → s.myCore.land s.me t = .ok → exec i s = .next (s.finish s (.jump .stay t)))
    (h' : ∀ p, s.pair = some p → exec i s = .next (s.finish s (.jump .stay t))) : Jumps i s .stay s.me t := by
  refine ⟨fun hp hl => ?_, fun p hp => ?_⟩
  · rw [h hp hl, State.finish_alone s hp, State.conclude_jump, State.transfer_stay hl]
    rfl
  · exact ⟨_, (h' p hp).trans (congrArg _ (State.finish_pair s hp _)), Alone.pair s _, rfl, rfl⟩

/-- A branch ends with its transfer where the ellipsis monitor does not look at it. -/
theorem br_jumps {b : BOp} {s : State} (hg : s.guard b.grd = true)
    (h : s.conf.monitor = false ∨ s.me.spinsOff = true ∨ s.me.ip.toNat < (targetOf s.ip b.tgt).toNat) :
    Jumps (.br b) s .stay s.me (targetOf s.ip b.tgt) := by
  refine jumps_of_alone (fun hp hl => ?_) fun p hp => by simp [exec_br hg, hp]
  rw [exec_br hg, State.finish_alone s hp, State.conclude_jump, State.transfer_stay hl]
  split
  · next hc =>
    have hle : ¬ s.me.ip.toNat < (targetOf s.ip b.tgt).toNat := by
      rw [← State.ip_alone hp]
      simp only [Bool.and_eq_true, decide_eq_true_eq] at hc
      omega
    rw [State.ellipsis_off]
    rw [State.me_setMe]
    rcases h with h | h | h
    · exact .inl h
    · exact .inr h
    · exact absurd h hle
  · rfl

/-- A branch that lands goes to its target, whatever the ellipsis monitor does. -/
theorem br_lands {b : BOp} {s : State} (hg : s.guard b.grd = true) (hp : s.pair = none)
    (hl : s.myCore.land s.me (targetOf s.ip b.tgt) = .ok) : ∃ t, exec (.br b) s = .next t ∧
      t.me.ip = targetOf s.ip b.tgt ∧ ∀ r, t.me.reg r = s.me.reg r := by
  have hreg : ∀ r, (s.me.at (targetOf s.ip b.tgt) (decide ((targetOf s.ip b.tgt).toNat ≤ s.me.ip.toNat))).reg r =
      s.me.reg r := fun r => Ctx.reg_congr rfl rfl rfl rfl r
  refine ⟨_, exec_br hg, ?_⟩
  rw [State.finish_alone s hp, State.conclude_jump, State.transfer_stay hl]
  split
  · by_cases hw : s.me.wait = none
    · obtain ⟨hip, hr⟩ := State.ellipsis_me (s := s.setMe (s.me.at (targetOf s.ip b.tgt)
        (decide ((targetOf s.ip b.tgt).toNat ≤ s.me.ip.toNat)))) s.ip (targetOf s.ip b.tgt) (by rw [State.me_setMe]; exact hw)
      rw [State.me_setMe] at hip hr
      exact ⟨hip, fun r => (hr r).trans (hreg r)⟩
    · have hoff : ∀ u : State, u.me.wait ≠ none → u.ellipsis s.ip (targetOf s.ip b.tgt) = u := fun u hu => by
        obtain ⟨w, hw⟩ := Option.ne_none_iff_exists'.mp hu
        simp [State.ellipsis, hw]
      rw [hoff _ (by rw [State.me_setMe]; exact hw), State.me_setMe]
      exact ⟨rfl, hreg⟩
  · rw [State.me_setMe]
    exact ⟨rfl, hreg⟩

theorem exec_br_bad {b : BOp} {s : State} (hg : s.guard b.grd = true)
    (hl : s.myCore.land s.me (targetOf s.ip b.tgt) = .bad) :
    exec (.br b) s = .next (s.finish s (.jump .stay (targetOf s.ip b.tgt))) := by
  rw [exec_br hg, hl]
  simp

theorem exec_jmp {o : ROp} {s : State} (hg : s.guard o.grd = true) :
    exec (.jmp o) s = .next (s.finish s (.jump .stay (s.G o.a))) := by
  show execJmp o s = _
  rw [execJmp, guarded_true hg]

theorem exec_call {b : BOp} {s : State} (hg : s.guard b.grd = true) :
    exec (.call b) s = .next (s.callTo (targetOf s.ip b.tgt)) := by
  show execCall b s = _
  rw [execCall, guarded_true hg]

theorem exec_calli {o : ROp} {s : State} (hg : s.guard o.grd = true) :
    exec (.calli o) s = .next (s.callTo (s.G o.a)) := by
  show execCalli o s = _
  rw [execCalli, guarded_true hg]

theorem exec_ret {o : ROp} {s : State} (hg : s.guard o.grd = true) : exec (.ret o) s =
    .next (if s.me.depth = 0 then s.check 0x12 (u64 (s.me.wsp + 2 ^ 63)) else s.finish s (.jump .ret (s.G 0x10))) := by
  show execRet o s = _
  rw [execRet, guarded_true hg]

theorem State.callTo_room {s : State} (h : s.me.callOverflow = false) (t : Word) :
    s.callTo t = s.finish s (.jump .call t) := by simp [State.callTo, h]

/-- The landing check of the transfers that leave the registers before they land. -/
theorem traps_of_bad {i : Instr} {s : State} {m : Move} {t : Word} (hp : s.pair = none)
    (hl : s.myCore.land s.me t = .bad) (h : exec i s = .next (s.finish s (.jump m t))) : Traps i s 3 t :=
  traps_of_bad_landing (.refl s) hp hl h

/-! ### Outcomes that are not ready (R59, R62) -/

/-- The context that an outcome that is not ready leaves, when it counts no retry. -/
noncomputable def Ctx.unready (x : Ctx) (ip : Word) (oc : Nat) : Ctx :=
  { x with oc := BitVec.ofNat 8 oc, nrip := ip, mon := { x.mon with dirty := true }, count := x.init, armed := true }

theorem Ctx.notReady_fresh {x : Ctx} (h : x.armed = false) (ip : Word) (oc : Nat) :
    x.notReady ip oc = (x.unready ip oc, false) := by
  simp [Ctx.notReady, Ctx.unready, h]

theorem State.refuse_fresh {s u : State} (hp : u.pair = none) (ha : u.me.armed = false) (code reason : Nat) (nra : Nra)
    (tgt : BitVec 32) (on : WaitOn) : s.refuse u code reason nra tgt on =
      s.act (u.setMe (u.me.unready s.me.ip (ocCode code reason))) s.me.ip s.me.ip (nextIp s.me.ip) (ocCode code reason)
        nra (targetOf s.ip tgt) on false := by
  rw [State.refuse, State.finish_alone s hp, State.conclude, Ctx.notReady_fresh ha]

/-- A word operation that changes neither the word nor its bits wakes nobody. -/
theorem State.lsWake_still (s : State) (p off : Nat) (full : Bool) : s.lsWake p off false full false = s := by
  simp [State.lsWake]

theorem State.lsOp_unready {s : State} {p off : Nat} (hf : s.isFull (lsAddr p off) = false) :
    s.lsOp p off .ldw = (s, .unready) := by
  have hf' : s.isFull (lsAddr p off / 8 * 8) = false := by
    rw [← hf, State.isFull, State.isFull, Nat.mul_div_cancel _ (by decide)]
  simp [State.lsOp, State.lsStep, opEval, hf', State.lsWake_still]

theorem State.parks_branch {s : State} (h : s.me.budPark = false) : s.parks .branch = false := by
  simp [State.parks, h]

theorem exec_ldw {o : MOp} {s : State} (hg : s.guard o.grd = true) :
    exec (.ldw o) s = .next (s.waitForm o .ldw fun s1 v => s.okay (s1.setG o.d v)) := by
  show execLdw o s = _
  rw [execLdw, guarded_true hg]

/-- Where LDW looks at an own word. -/
noncomputable def ldwUse : Use :=
  { align := 8, own := true, other := true, device := true, fabric := true, write := false, need := rF }

/-- LDW on an empty word of the own local store is EMPTY (R271). -/
theorem State.waitForm_empty {o : MOp} {s : State} {off : Nat} (hr : s.relDue o = false)
    (hk : s.lsLocked off 8 = false) (hf : s.isFull (lsAddr s.cur.1 off) = false)
    (hp : s.placeOf (s.ea o) ldwUse = .ok (.own off)) (done : State → Word → State) :
    s.waitForm o .ldw done = s.refuse
      (if s.parks o.nra then (s.addLsWatch s.cur.1
        (watchOf .ldw (lsWord s.cur.1 off) s.cur.1 s.cur.2 s.me.gen.toNat) s.me.front).1 else s)
      2 0 o.nra o.tgt .word := by
  have hp' : s.placeOf (s.ea o) { align := 8, own := true, other := true, device := true, fabric := true
                                  write := fills .ldw, need := rF } = .ok (.own off) := hp
  rw [State.waitForm, State.access]
  simp only [hp', hr, hk, State.lsOp_unready hf, if_false, Bool.false_eq_true]
  rfl

/-- The action of NRA 01b on an empty word whose target is no landing slot (R489). -/
theorem ldw_branch_bad {o : MOp} {s : State} {off : Nat} (hg : s.guard o.grd = true) (hp : s.pair = none)
    (hk : s.lsLocked off 8 = false) (hr : s.relDue o = false) (hb : s.me.budPark = false) (ha : s.me.armed = false)
    (hf : s.isFull (lsAddr s.cur.1 off) = false) (hpl : s.placeOf (s.ea o) ldwUse = .ok (.own off))
    (hn : o.nra = .branch) (hl : s.myCore.land s.me (targetOf s.me.ip o.tgt) = .bad) :
    exec (.ldw o) s = .next ((s.setMe (s.me.unready s.me.ip 2)).raise s.cur.1 s.cur.2
      { cause := 3, info := targetOf s.me.ip o.tgt } s.me.ip) := by
  rw [exec_ldw hg, State.waitForm_empty hr hk hf hpl, hn, State.parks_branch hb, if_neg Bool.false_ne_true,
    State.refuse_fresh hp ha, State.ip_alone hp]
  have hl' : (s.setMe (s.me.unready s.me.ip 2)).myCore.land (s.me.unready s.me.ip 2) (targetOf s.me.ip o.tgt) = .bad := by
    rw [State.myCore_setMe, Core.land_setCtx]
    exact hl
  simp only [State.act, State.me_setMe, Bool.false_and, Bool.false_eq_true, if_false, ocCode, hl']
  rfl

/-- Settles O12: each transfer by its own equation, with the landing check once for all. -/
theorem branches : Obligations.Branches := by
  refine ⟨fun b o s => ⟨fun hg => ⟨br_jumps hg, br_lands hg, fun hb => ?_, fun hb => ?_, fun hne => ?_, fun he => ?_⟩,
    fun hg => jumps_of_finish (.refl s) rfl (exec_jmp hg)⟩, fun b o s hp => ⟨fun hg hl => ⟨?_, fun hb => ?_, fun hne => ?_,
      fun hc => ?_⟩, fun hg => ⟨fun hl => ⟨?_, fun hc => ?_⟩, fun hl hd => ?_⟩⟩, ?_⟩
  · exact jumps_of_finish (.refl s) rfl (by rw [exec_boc hg, if_pos hb])
  · exact gives_of_finish_next (by rw [exec_boc hg, if_neg (by simp [hb])])
  · exact jumps_of_finish (.of_setMe s _) (Ctx.ip_setReg _ _ _) (by rw [exec_loopI hg, if_neg hne]; rfl)
  · have h0 : s.G b.d - 1 = 0 := by rw [he]; rfl
    exact ⟨_, by rw [exec_loopI hg, if_pos he, h0]; rfl, s.retire_setG b.d 0⟩
  · exact traps_of_bad hp hl (exec_br_bad hg hl)
  · exact traps_of_bad hp hl (by rw [exec_boc hg, if_pos hb])
  · have hl' : s.myCore.land (s.me.setReg b.d (s.G b.d - 1)) (targetOf s.ip b.tgt) = .bad := by
      rw [← hl]
      exact Core.land_congr _ (Ctx.fetchFail_setReg _ _ _) _
    exact traps_of_bad_landing (.of_setMe s _) hp hl' (by rw [exec_loopI hg, if_neg hne]; rfl)
  · exact traps_of_bad hp hl (by rw [exec_call hg, State.callTo_room hc])
  · exact traps_of_bad hp hl (exec_jmp hg)
  · exact traps_of_bad hp hl (by rw [exec_calli hg, State.callTo_room hc])
  · exact traps_of_bad hp hl (by rw [exec_ret hg, if_neg hd])
  · intro o s off hg hp hk hr hb ha hf hpl hn hl
    refine ⟨_, ldw_branch_bad hg hp hk hr hb ha hf hpl hn hl, ?_⟩
    rw [State.me_setMe]
    exact ⟨rfl, rfl, rfl, fun r => Ctx.reg_congr rfl rfl rfl rfl r⟩

/-! ### Calls and returns (R248–R250, R447, R495) -/

/-- The callee's context: the window above, with the return IP in its g16. -/
noncomputable def Ctx.callee (x : Ctx) (n : Nat) (t : Word) : Ctx :=
  ((x.advance n).setReg 0x10 (nextIp x.ip)).at t (decide (t.toNat ≤ x.ip.toNat))

theorem State.call_lands {s : State} {t : Word} (hp : s.pair = none) (hl : s.myCore.land s.me t = .ok) :
    s.finish s (.jump .call t) = { s.setMe (s.me.callee s.free t) with free := s.free + 8 } := by
  rw [State.finish_alone s hp, State.conclude_jump, State.transfer, hl]
  rfl

theorem Ctx.wbase_callee (x : Ctx) (n : Nat) (t : Word) : (x.callee n t).wbase = x.wbase + 1 :=
  Ctx.setReg_wbase _ _ _

theorem Ctx.reg_callee (x : Ctx) (n : Nat) (t : Word) (r : Spec) :
    (x.callee n t).reg r = ((x.advance n).setReg 0x10 (nextIp x.ip)).reg r := Ctx.reg_congr rfl rfl rfl rfl r

theorem Ctx.reg_callee_window (x : Ctx) (n : Nat) (t : Word) {r : Spec} (h17 : 17 ≤ r.toNat) (h23 : r.toNat ≤ 23) :
    (x.callee n t).reg r = x.reg (r + 8) := by
  have hne : r ≠ 0x10 := fun h => by
    rw [h] at h17
    exact absurd h17 (by decide)
  rw [Ctx.reg_callee, Ctx.reg_setReg_ne _ _ hne, Ctx.reg_advance_window x n (by omega) h23]

theorem Ctx.reg_callee_shared (x : Ctx) (n : Nat) (t : Word) {r : Spec} (h : r.toNat < 16 ∨ 32 ≤ r.toNat) :
    (x.callee n t).reg r = x.reg r := by
  have hne : r ≠ 0x10 := fun h' => by
    rw [h'] at h
    exact absurd h (by decide)
  rw [Ctx.reg_callee, Ctx.reg_setReg_ne _ _ hne, Ctx.reg_advance_shared x n h]

theorem Ctx.win_callee (x : Ctx) (n : Nat) (t : Word) {j : Nat} (hj : j < 8) :
    (x.callee n t).win.get (8 * x.wbase + j) 0 = x.win.get (8 * x.wbase + j) 0 := by
  show ((x.advance n).setReg 0x10 (nextIp x.ip)).win.get _ 0 = _
  rw [Ctx.setReg_halves _ _ _ (show x.wbase ≠ (x.advance n).wbase by simp [Ctx.advance])
    (show x.wbase ≠ (x.advance n).wbase + 1 by simp [Ctx.advance]; omega) hj, Ctx.get_win_advance x n (by omega)]

theorem Ctx.rest_callee (x : Ctx) (n : Nat) (t : Word) :
    (x.callee n t).rest = { x with wbase := x.wbase + 1, depth := x.depth + 1 }.rest := by
  show ((x.advance n).setReg 0x10 (nextIp x.ip)).rest = _
  rw [Ctx.rest_setReg]
  rfl

/-- A call of either form, by its equation. -/
theorem call_moves {i : Instr} {s : State} {t : Word} (h : exec i s = .next (s.callTo t)) :
    (s.me.callOverflow = false →
    (∀ p, s.pair = some p → ∃ u, exec i s = .next u ∧ Alone s u ∧ u.me = s.me ∧
      u.pair = some { p with ends := p.ends ++ [(s.ip, .jump .call t)] }) ∧
    (s.pair = none → s.myCore.land s.me t = .ok → ∃ u, exec i s = .next u ∧ u.me.ip = t ∧ u.me.wbase = s.me.wbase + 1 ∧
      u.me.depth = s.me.depth + 1 ∧ u.me.reg 16 = nextIp s.me.ip ∧
      (∀ r : Spec, 17 ≤ r.toNat → r.toNat ≤ 23 → u.me.reg r = s.me.reg (r + 8)) ∧
      (∀ r : Spec, r.toNat < 16 ∨ 32 ≤ r.toNat → u.me.reg r = s.me.reg r) ∧
      (∀ j, j < 8 → u.me.win.get (8 * s.me.wbase + j) 0 = s.me.win.get (8 * s.me.wbase + j) 0) ∧
      u.me.rest = { s.me with wbase := u.me.wbase, depth := u.me.depth }.rest ∧
      u = { s.setMe u.me with free := s.free + 8 })) ∧
    (s.me.callOverflow = true → Traps i s 0x12 (BitVec.ofNat 64 s.me.wsp)) := by
  refine ⟨fun hc => ⟨fun p hp => ?_, fun hp hl => ?_⟩, fun hc => ?_⟩
  · refine ⟨_, h.trans (congrArg _ ((State.callTo_room hc t).trans (State.finish_pair s hp _))), Alone.pair s _, rfl, rfl⟩
  · have hme : ({ s.setMe (s.me.callee s.free t) with free := s.free + 8 } : State).me = s.me.callee s.free t :=
      State.me_setMe _ _
    refine ⟨_, h.trans (congrArg _ ((State.callTo_room hc t).trans (State.call_lands hp hl))), ?_⟩
    rw [hme]
    have hd : (s.me.callee s.free t).depth = s.me.depth + 1 := Ctx.setReg_depth _ _ _
    refine ⟨rfl, Ctx.wbase_callee _ _ _, hd, ?_, fun r => Ctx.reg_callee_window _ _ _, fun r => Ctx.reg_callee_shared _ _ _,
      fun j => Ctx.win_callee _ _ _, ?_, rfl⟩
    · rw [Ctx.reg_callee, Ctx.reg_setReg_self]
      rfl
    · rw [Ctx.wbase_callee, hd]
      exact Ctx.rest_callee _ _ _
  · exact State.check_traps (h.trans (by rw [State.callTo, if_pos hc]; rfl))

/-- Settles O13, by the one equation of the two calls. -/
theorem callMovesTheWindow : Obligations.CallMovesTheWindow := by
  intro b o s
  exact ⟨fun hg => call_moves (exec_call hg), fun hg => call_moves (exec_calli hg)⟩

/-- Settles O14: RET is the transfer that moves the window back, and its halves are the caller's. -/
theorem returnMovesTheWindowBack : Obligations.ReturnMovesTheWindowBack := by
  intro o s hg
  refine ⟨fun hd => ⟨fun hp hl => ?_, fun p hp => ?_⟩, fun x hb hgg hw hpp h0 => ⟨fun r h24 h32 => ?_, fun r hr => ?_⟩,
    fun hd => State.check_traps (by rw [exec_ret hg, if_pos hd]; rfl)⟩
  · simp only [hp] at hl ⊢
    have hl' : s.myCore.land s.me (s.G 16) = .ok := (Core.land_congr _ rfl _).trans hl
    rw [exec_ret hg, if_neg hd, State.finish_alone s hp, State.conclude_jump, State.transfer, hl']
    rfl
  · simp only [hp]
    exact ⟨_, ((exec_ret hg).trans (congrArg _ (if_neg hd))).trans (congrArg _ (State.finish_pair s hp _)),
      Alone.pair s _, rfl, rfl⟩
  · have hr8 : (r - 8).toNat = r.toNat - 8 := by
      have h8 : (8 : Spec).toNat = 8 := rfl
      rw [BitVec.toNat_sub, h8]
      omega
    have hj : 8 * (s.me.wbase - 1) + (r.toNat - 16) = 8 * s.me.wbase + (r.toNat - 8 - 16) := by omega
    simp only [Ctx.reg, hr8, hb, hw, hj, show r.toNat ≠ 0 by omega, show ¬ r.toNat < 16 by omega, h32, if_true, if_false,
      show r.toNat - 8 ≠ 0 by omega, show ¬ r.toNat - 8 < 16 by omega, show r.toNat - 8 < 32 by omega]
  · by_cases hlow : r.toNat < 16
    · simp only [Ctx.reg, hlow, if_true, hgg]
    · simp only [Ctx.reg, hlow, show ¬ r.toNat < 32 by omega, if_false, hpp]

/-! ### Turns and clauses (R193, R252–R255) -/

theorem Writes.of_dirty {s t : State} {x : Ctx} {e : End} {d : Spec} {v : Word}
    (h : Writes s t { x with mon := { x.mon with dirty := true } } e d v) : Writes s t x e d v :=
  ⟨h.value, h.others, h.halves, h.ended, h.rest⟩

/-- A scalar instruction that changes its own context and marks the ellipsis monitor. -/
theorem State.retire_dirty (s : State) (y : Ctx)
    (hy : y.ip = s.me.ip ∧ y.retry = s.me.retry ∧ y.front = s.me.front ∧ y.oc = s.me.oc ∧ y.count = s.me.count ∧
      y.armed = s.me.armed) :
    Writes s (s.retire (s.setMe y).dirty) y .next 0 0 ∧ Alone s (s.retire (s.setMe y).dirty) := by
  obtain ⟨hw, ha⟩ := s.retire_setMe { y with mon := { y.mon with dirty := true } } hy
  have h : (s.setMe y).dirty = s.setMe { y with mon := { y.mon with dirty := true } } := by
    rw [State.dirty, State.me_setMe, State.setMe_setMe]
  rw [h]
  exact ⟨hw.of_dirty, ha⟩

/-- With no stop pending and no migration, the edge of a clause changes nothing. -/
theorem State.clauseEdge_quiet {s : State} {p k : Nat} (hm : (s.core p).migrate = none) (hs : (s.ctx p k).stop = none) :
    s.clauseEdge p k = s := by
  simp [State.clauseEdge, State.debugEdge, hm, hs]

theorem Alone.migrate {s t : State} (h : Alone s t) (p : Nat) : (t.core p).migrate = (s.core p).migrate := by
  have e := congrArg Core.migrate (h.cores p)
  exact e

/-- An instruction of the clause stack that changes its own context only. -/
theorem clause_writes {i : Instr} {s : State} {y : Ctx} (hs : s.me.stop = none) (hm : s.myCore.migrate = none)
    (hy : y.ip = s.me.ip ∧ y.retry = s.me.retry ∧ y.front = s.me.front ∧ y.oc = s.me.oc ∧ y.count = s.me.count ∧
      y.armed = s.me.armed) (hstop : y.stop = s.me.stop)
    (h : exec i s = .next ((s.retire (s.setMe y).dirty).clauseEdge s.cur.1 s.cur.2)) :
    ∃ t, exec i s = .next t ∧ Alone s t ∧ Writes s t y .next 0 0 := by
  obtain ⟨hw, ha⟩ := s.retire_dirty y hy
  refine ⟨_, h.trans ?_, ha, hw⟩
  have hcur : (s.retire (s.setMe y).dirty).cur = s.cur := by rw [ha.machine]
  rw [State.clauseEdge_quiet ((ha.migrate _).trans hm)]
  have hrest : (s.retire (s.setMe y).dirty).me.rest.stop = y.rest.stop := congrArg Ctx.stop hw.rest
  rw [← hcur]
  exact hrest.trans (hstop.trans hs)

theorem exec_enter {o : IOp} {s : State} (hg : s.guard o.grd = true) : exec (.enter o) s = .next
    ((s.retire (s.setMe { s.me with
        cls := (BitVec.ofNat 16 o.imm.toNat :: s.me.cls).take 8
        ovf := if 8 ≤ s.me.cls.length ∧ s.me.ovf ≠ 0xFFFF then s.me.ovf + 1 else s.me.ovf }).dirty).clauseEdge
      s.cur.1 s.cur.2) := by
  have hovf : (if s.me.cls.length < 8 || s.me.ovf = 0xFFFF then s.me.ovf else s.me.ovf + 1) =
      if 8 ≤ s.me.cls.length ∧ s.me.ovf ≠ 0xFFFF then s.me.ovf + 1 else s.me.ovf := by
    by_cases h8 : s.me.cls.length < 8
    · simp [h8, Nat.not_le.mpr h8]
    · by_cases ho : s.me.ovf = 0xFFFF
      · simp [ho]
      · simp [h8, Nat.not_lt.mp h8]
  show execEnter o s = _
  rw [execEnter, guarded_true hg, ← hovf]

theorem exec_leave {o : ROp} {s : State} (hg : s.guard o.grd = true) : exec (.leave o) s = .next
    ((s.retire (s.setMe { s.me with cls := s.me.cls.tail }).dirty).clauseEdge s.cur.1 s.cur.2) := by
  show execLeave o s = _
  rw [execLeave, guarded_true hg]

theorem exec_yieldI {o : ROp} {s : State} (hg : s.guard o.grd = true) : exec (.yieldI o) s = .next
    (s.retire (s.setMe { s.me with yielded := some (s.myCore.cyc, (List.range 16).filter fun k =>
      k != s.cur.2 && s.myCore.ready k) }).dirty) := by
  show execYieldI o s = _
  rw [execYieldI, guarded_true hg]

/-- Settles O15: each of the four changes its own context only. -/
theorem turnsAndClauses : Obligations.TurnsAndClauses := by
  intro k o s
  refine ⟨gives_of_finish_next rfl, fun hg => ?_, fun hs hm => ⟨fun hg => ?_, fun hg => ?_⟩⟩
  · obtain ⟨hw, ha⟩ := s.retire_dirty { s.me with yielded := some (s.myCore.cyc, (List.range 16).filter fun k =>
      k != s.cur.2 && s.myCore.ready k) } ⟨rfl, rfl, rfl, rfl, rfl, rfl⟩
    refine ⟨_, _, exec_yieldI hg, hw, ha, fun j => ?_⟩
    simp
  · exact clause_writes hs hm ⟨rfl, rfl, rfl, rfl, rfl, rfl⟩ rfl (exec_enter hg)
  · exact clause_writes hs hm ⟨rfl, rfl, rfl, rfl, rfl, rfl⟩ rfl (exec_leave hg)

/-! ### The end of a helper (R256, R37) -/

theorem Alone.of_setMe (s : State) (x : Ctx) : Alone s (s.setMe x) := Alone.setMe s x s.pair

theorem State.wake_mem (s : State) (p k : Nat) : (s.wake p k).mem = s.mem := by
  unfold State.wake
  dsimp only
  split
  · rfl
  · split
    · rfl
    · rfl
    · split
      · rfl
      · rfl
    · rfl
    · rfl
    · rfl

theorem State.wakeIf_mem (s : State) (p : Nat) (f : WaitOn → Bool) : (s.wakeIf p f).mem = s.mem := by
  unfold State.wakeIf
  generalize (s.core p).waiting f = l
  induction l generalizing s with
  | nil => rfl
  | cons k l ih => exact (ih _).trans (s.wake_mem p k)

theorem exec_endI {o : ROp} {s : State} (hg : s.guard o.grd = true) : exec (.endI o) s = .next
    (if s.cur.2 = 0 || 10 < s.cur.2 then s.denied (.endI o)
      else if s.me.replyDue then s.parkCtx s.cur.1 s.cur.2 (.ending false) else s.endHelper s.cur.1 s.cur.2) := by
  show execEndI o s = _
  rw [execEndI, guarded_true hg]

/-- The core once its helper `k` has left it, before anything that waits for that is told. -/
noncomputable def Core.left (c : Core) (k : Nat) : Core :=
  { (c.setCtx k { c.ctx k with live := false, wait := none, slot := none, stop := none, held := [], yielded := none
                               mode := false, cls := [], ovf := 0 }).forget k with
    allots := c.allots.map fun a => { a with slots := a.slots.filter (· != k) }
    locks := c.locks.filter fun e => !(e.2.kind == 3 && e.2.ctx == k) }

theorem State.endHelper_bare {s : State} {p k : Nat} (h : (s.ctx p k).held = []) : s.endHelper p k =
    ((s.setCore p ((s.core p).left k)).locksFreed p).wakeIf p (· == .helper) := by
  have h' : ((s.core p).ctx k).held = [] := h
  unfold State.endHelper
  simp only [h', List.foldl_nil]
  rfl

theorem State.locksFreed_eq (s : State) (p : Nat) : s.locksFreed p = (s.setCore p (s.core p).reap).wakeIf p fun w =>
    w == .busy 4 || w == .parkLock || w == .busy 10 || w == .busy 7 || w == .busy 8 := rfl

theorem State.setCore_setCore (s : State) (p : Nat) (c d : Core) : (s.setCore p c).setCore p d = s.setCore p d := by
  simp [State.setCore]

/-- What the end of a helper leaves: its core without it, its free ranges reaped, and those who waited awake. -/
theorem State.endHelper_stirred {s : State} {p k : Nat} (h : (s.ctx p k).held = []) :
    Stirred (s.setCore p ((s.core p).left k).reap) (s.endHelper p k) ∧ (s.endHelper p k).mem = s.mem := by
  have hcore : (s.setCore p ((s.core p).left k)).core p = (s.core p).left k := State.core_setCore_self _ _ _
  rw [State.endHelper_bare h, State.locksFreed_eq, hcore, State.setCore_setCore]
  exact ⟨(State.wakeIf_stirred _ _ _).trans (State.wakeIf_stirred _ _ _),
    (State.wakeIf_mem _ _ _).trans (State.wakeIf_mem _ _ _)⟩

theorem Core.slots_reap {c : Core} {k : Nat} (h : ∀ a ∈ c.allots, k ∉ a.slots) : ∀ a ∈ c.reap.allots, k ∉ a.slots := by
  intro a ha
  obtain ⟨b, hb, rfl⟩ := List.mem_map.mp (List.mem_of_mem_filter ha)
  split
  · exact List.not_mem_nil
  · exact h b hb

theorem Core.slots_left (c : Core) (k : Nat) : ∀ a ∈ (c.left k).allots, k ∉ a.slots := by
  intro a ha
  obtain ⟨b, _, rfl⟩ := List.mem_map.mp ha
  simp

/-- Settles O16: the helper leaves its core, and wakes change no more than waits. -/
theorem endOfAHelper : Obligations.EndOfAHelper := by
  intro o s hg
  refine ⟨fun h1 h10 hh => ⟨fun hr => ?_, fun hr => ?_⟩, fun hk => State.check_traps ?_⟩
  · obtain ⟨hst, hmem⟩ := State.endHelper_stirred (s := s) (p := s.cur.1) (k := s.cur.2) hh
    have hcur : (s.endHelper s.cur.1 s.cur.2).cur = s.cur := hst.cur
    have hcalm : (s.endHelper s.cur.1 s.cur.2).myCore.calm = (s.myCore.left s.cur.2).reap.calm := by
      rw [State.myCore, hcur, hst.cores, State.core_setCore_self]
      rfl
    have hallots : (s.endHelper s.cur.1 s.cur.2).myCore.allots = (s.myCore.left s.cur.2).reap.allots := by
      have e := congrArg Core.allots hcalm
      exact e
    have hlocks : (s.endHelper s.cur.1 s.cur.2).myCore.locks = (s.myCore.left s.cur.2).locks := by
      have e := congrArg Core.locks hcalm
      exact e
    refine ⟨_, by rw [exec_endI hg, if_neg (by simp; omega), if_neg (by simp [hr])], ?_, hmem, ?_, ?_, fun j hj => ?_⟩
    · have hlive := congrArg Ctx.live (hst.contexts s.cur.1 s.cur.2)
      rw [State.me, hcur]
      exact hlive.trans (by
        rw [State.ctx, State.core_setCore_self]
        exact congrArg Ctx.live (Core.ctx_setCtx_self _ _ _))
    · rw [hallots]
      exact Core.slots_reap (Core.slots_left _ _)
    · rw [hlocks]
      intro l hl
      have hf := (List.mem_filter.mp hl).2
      intro ⟨hkind, hctx⟩
      simp [hkind, hctx] at hf
    · rw [hst.contexts, State.ctx, State.core_setCore_self]
      exact congrArg Ctx.still (Core.ctx_setCtx_ne _ _ hj)
  · refine ⟨s.parkCtx s.cur.1 s.cur.2 (.ending false),
      by rw [exec_endI hg, if_neg (by simp; omega), if_pos hr], ?_, rfl, ?_⟩
    · exact Alone.of_setMe s _
    · refine (State.me_setMe _ _).trans ?_
      rw [show (WaitOn.ending false).fetches = false from rfl, Bool.and_false]
      rfl
  · rw [exec_endI hg, if_pos (by simpa using hk)]
    rfl

end Sys2Proof.Machine
end

section
/-! Refutations about words of the own local store (R62, R81, R266, R271, R274). A store to a line wakes a context that
parks on it, and that context reads the line anew: the requests of its core for the line go stale (R65), which the
frame of O18, O19 and O20 does not allow. A branch to a target whose line is not in the instruction cache waits for the
line before its outcome stands, which O21 leaves out. -/

namespace Sys2Proof.Machine.Counter
open Sys2Proof Sys2Proof.Machine

/-- A question about the state that an instruction leads to. -/
noncomputable def holdsAfter (out : Out) (q : State → Bool) : Bool :=
  match out with
  | .next t => q t
  | _ => false

theorem holdsAfter_next {out : Out} {t : State} {q : State → Bool} (h : out = .next t) : holdsAfter out q = q t := by
  rw [h]
  rfl

/-- The word 0 of the own local store, in the window of rank 0. -/
noncomputable def ownWord : Word := 0x9000000000000000

/-- An always true guard, an 8-byte element, the address in g1 and nothing else. -/
noncomputable def op : MOp :=
  { grd := ⟨false, 0⟩, ty := .n64, ord := .none, v0 := false, d := 0, a := 1, b := 0, nra := .set, tgt := 0, disp := 0 }

/-- Core 0 belongs to a team of one rank. -/
noncomputable def teamOfOne : Team := { grid := 0, number := 0, die := 0, size := 1, map := [0], done := 1 }

/-- Context 1 parks on the first line of the local store, for which its core has a request on its way. -/
noncomputable def parked : State :=
  { State.reset with
    teams := [(0, teamOfOne)]
    cores := [(0, { team := some 0
                    ctxs := [(0, { live := true, g := [(1, ownWord)] }),
                             (1, { live := true, wait := some ⟨.parkWatch 0 0, 0, 0⟩ })]
                    watches := [{ word := lsWord 0 0, want := none, changing := false, pid := 0, ctx := 1, gen := 0 }]
                    lineReqs := [{ line := 0, va := 0, dom := 0, waiters := [(2, .ld)] }] })] }

/-- Some request of core 0 for a line is stale. -/
noncomputable def stale (t : State) : Bool := (t.core 0).lineReqs.any (·.stale)

theorem lineReqs_of_spared {s t : State} (h : Spared s t) (p : Nat) : (t.core p).lineReqs = (s.core p).lineReqs := by
  have e := congrArg Core.lineReqs (h.cores p)
  exact e

/-- An instruction after which a request is stale did not spare the core. -/
theorem not_spared {out : Out} {t : State} (h : out = .next t) (hq : holdsAfter out stale = true) :
    ¬ Spared parked t := by
  intro hs
  rw [holdsAfter_next h, stale, lineReqs_of_spared hs] at hq
  exact absurd hq (by decide)

/-- Refutes O18: a store to the line that context 1 parks on makes a request of the core stale. -/
theorem not_localStoresAndBitFields : ¬ Obligations.LocalStoresAndBitFields := by
  intro h
  obtain ⟨t, ht, -, hs, -⟩ := h.1 op parked 0 (.st op) (by decide) (by decide) rfl (.inr ⟨rfl, by decide⟩) (by decide)
  exact not_spared ht (by decide) hs

/-- Refutes O19: so does STE there. -/
theorem not_localFullEmptyForms : ¬ Obligations.LocalFullEmptyForms := by
  intro h
  obtain ⟨-, hw⟩ := h op parked 0 (by decide) rfl (by decide) (by decide)
  obtain ⟨-, -, ⟨t, ht, -, hs, -⟩, -⟩ := hw (by decide)
  exact not_spared ht (by decide) hs

/-- Refutes O20: so does an atomic there. -/
theorem not_localAtomics : ¬ Obligations.LocalAtomics := by
  intro h
  obtain ⟨t, ht, -, hs, -⟩ := h op parked 0 (.aadd op) (by decide) rfl (by decide) (by decide) (by decide) (by decide)
    (by decide) 0 (.inl ⟨rfl, by decide⟩)
  exact not_spared ht (by decide) hs

/-- Context 0 executes at the first slot, whose line its core does not hold, and the word is empty. -/
noncomputable def unfetched : State :=
  { State.reset with
    teams := [(0, teamOfOne)]
    empties := [lsAddr 0 0 / 8]
    cores := [(0, { team := some 0, ctxs := [(0, { live := true, g := [(1, ownWord)] })] })] }

/-- Refutes O21: with NRA 01b the context waits for the line of the target, before the outcome is recorded. -/
theorem not_emptyWordActions : ¬ Obligations.EmptyWordActions := by
  intro h
  obtain ⟨t, ht, hoc, -⟩ := h { op with nra := .branch } unfetched 0 (by decide) rfl (by decide) (by decide) rfl rfl
    (by decide) (by decide)
  have hq : holdsAfter (exec (.ldw { op with nra := .branch }) unfetched) (fun t => t.me.oc == 0) = true := by decide
  rw [holdsAfter_next ht, hoc] at hq
  exact absurd hq (by decide)

/-- SSIG of semaphore 0 by one, on the own core. -/
noncomputable def signalOp : EOp :=
  { grd := ⟨false, 0⟩, ord := .none, v0 := false, d := 0, a := 0, b := 0, nra := .set, tgt := 0, sem := 0, imm := 1 }

/-- Contexts 1 and 2 wait for a semaphore that has already reached its last count. -/
noncomputable def saturated : State :=
  { State.reset with
    cores := [(0, { ctxs := [(0, { live := true }),
                             (1, { live := true, wait := some ⟨.sem 0, 0, 0⟩ }),
                             (2, { live := true, wait := some ⟨.sem 0, 0, 0⟩ })]
                    sems := [(0, 65535)]
                    semWait := [(0, [⟨some 1, 0, 1, false⟩, ⟨some 2, 0, 1, false⟩])] })] }

/-- Refutes O22: a signal that leaves a saturated count as it is wakes nobody, not even a waiter whose threshold is met. -/
theorem not_wakesInOrder : ¬ Obligations.WakesInOrder := by
  intro h
  obtain ⟨t, ht, h1, -⟩ := h.2 signalOp saturated 1 2 1 1 false false (by decide) rfl rfl rfl (by decide) (by decide)
    (by decide) (by decide) (by decide) ⟨0, 0, by decide⟩ ⟨0, 0, by decide⟩
  have hq : holdsAfter (exec (.ssig signalOp) saturated) (fun t => (t.ctx 0 1).wait.isNone) = false := by decide
  rw [holdsAfter_next ht] at hq
  have hw : (t.ctx 0 1).wait = none := h1.mpr (by decide)
  rw [hw] at hq
  exact absurd hq (by decide)

end Sys2Proof.Machine.Counter
end

section
/-! Loads and requests: the own local store (R258–R265), the reply slot (R67, R68), the store buffer (R109), cached
loads (R262–R264), WLD and PFX, ACQ, REL and FENCE, PARK. -/

namespace Sys2Proof.Machine
open Sys2Proof

/-! ### How an instruction ends with OK, and with an outcome that is not ready -/

/-- Two contexts at one place of the program, with one outcome and one retry count. -/
structure Ctx.SamePlace (x y : Ctx) : Prop where
  ip : x.ip = y.ip
  retry : x.retry = y.retry
  front : x.front = y.front
  oc : x.oc = y.oc
  count : x.count = y.count
  armed : x.armed = y.armed
  init : x.init = y.init

theorem Ctx.SamePlace.refl (x : Ctx) : x.SamePlace x := ⟨rfl, rfl, rfl, rfl, rfl, rfl, rfl⟩

theorem Ctx.SamePlace.setReg {x y : Ctx} (h : x.SamePlace y) (d : Spec) (v : Word) (m : Monitor) :
    Ctx.SamePlace { x.setReg d v with mon := m } y where
  ip := (Ctx.setReg_ip x d v).trans h.ip
  retry := (Ctx.setReg_retry x d v).trans h.retry
  front := (Ctx.setReg_front x d v).trans h.front
  oc := (Ctx.setReg_oc x d v).trans h.oc
  count := (Ctx.setReg_count x d v).trans h.count
  armed := (Ctx.setReg_armed x d v).trans h.armed
  init := (Ctx.setReg_init x d v).trans h.init

theorem HasMe.ip_eq {s w u : State} {z : Ctx} (hu : HasMe w u z) (hp : w.pair = s.pair) (hz : z.ip = s.me.ip) :
    u.ip = s.ip := by
  unfold State.ip
  rw [hu.pair, hp, hu.me, hz]

/-- The state after an instruction that ended with OK: the register, the place, and nothing else of `w`. -/
theorem writes_ok {s w u : State} {x z : Ctx} {d : Spec} {v : Word} (plain : Bool) (hu : HasMe w u z)
    (hp : w.pair = s.pair) (hx : x.SamePlace s.me) {m : Monitor} (hz : z = { x.setReg d v with mon := m }) :
    Writes s (s.finish u (.ok plain)) x (.ok plain) d v ∧ Alone w (s.finish u (.ok plain)) := by
  have hplace : z.SamePlace s.me := hz ▸ hx.setReg d v m
  have hreg : ∀ y : Ctx, y.g = z.g → y.win = z.win → y.wbase = z.wbase → y.p = z.p → ∀ r, y.reg r = (x.setReg d v).reg r :=
    fun y hg hw hb hpp r => by
      subst hz
      exact Ctx.reg_congr hg hw hb hpp r
  have hwrites : ∀ t : State, t.me.g = z.g → t.me.win = z.win → t.me.wbase = z.wbase → t.me.p = z.p → t.me.rest = z.rest →
      Ended s t (.ok plain) → Writes s t x (.ok plain) d v := fun t hg hw hb hpp hr he => by
    refine ⟨?_, fun r hr => ?_, fun h h0 h1 j hj => ?_, he, ?_⟩
    · rw [hreg _ hg hw hb hpp, Ctx.reg_setReg_self]
    · rw [hreg _ hg hw hb hpp, Ctx.reg_setReg_ne _ _ hr]
    · rw [hw, hz]
      exact Ctx.setReg_halves x d v h0 h1 hj
    · rw [hr, hz]
      exact Ctx.rest_setReg x d v
  cases hpair : s.pair with
  | none =>
    have hup : u.pair = none := hu.pair.trans (hp.trans hpair)
    rw [State.finish_alone s hup, State.conclude, hu.me, hu.setMe]
    refine ⟨hwrites _ ?_ ?_ ?_ ?_ ?_ ?_, Alone.of_setMe w _⟩
    any_goals rw [State.me_setMe]; rfl
    unfold Ended
    rw [hpair]
    rw [State.me_setMe]
    exact ⟨hp.trans hpair, rfl, rfl, rfl, rfl, hplace.init, rfl⟩
  | some p =>
    have hup : u.pair = some p := hu.pair.trans (hp.trans hpair)
    rw [State.finish_pair s hup]
    have hme : ∀ q, ({ u with pair := q } : State).me = z := fun _ => hu.me
    refine ⟨hwrites _ ?_ ?_ ?_ ?_ ?_ ?_, hu.alone _⟩
    any_goals rw [hme]
    unfold Ended
    rw [hpair]
    rw [hme]
    exact ⟨by rw [hu.ip_eq hp hplace.ip], hplace.ip, hplace.retry, hplace.front, hplace.oc, hplace.count, hplace.armed⟩

theorem Ctx.setReg_zero (x : Ctx) (v : Word) : x.setReg 0 v = x := rfl

/-- An instruction that ends with OK and writes no register. -/
theorem writes_okay {s w u : State} {x : Ctx} (plain : Bool) (hu : HasMe w u x) (hp : w.pair = s.pair)
    (hx : x.SamePlace s.me) :
    Writes s (s.finish u (.ok plain)) x (.ok plain) 0 0 ∧ Alone w (s.finish u (.ok plain)) :=
  writes_ok plain hu hp hx (m := x.mon) rfl

/-- `u` is `s` with one register of the executing context written. -/
theorem HasMe.setReg (s : State) (d : Spec) (v : Word) : HasMe s (s.setG d v) (s.me.setReg d v) := HasMe.of_setMe s _

theorem State.parkCtx_setMe (u : State) (y : Ctx) (on : WaitOn) : (u.setMe y).parkCtx u.cur.1 u.cur.2 on = u.setMe
    { y with wait := if on = .now then none else some ⟨on, u.myCore.cyc, u.ticks⟩, retry := y.retry && on.fetches } := by
  have hctx : ((u.setMe y).core u.cur.1).ctx u.cur.2 = y := State.me_setMe u y
  have hcyc : ((u.setMe y).core u.cur.1).cyc = u.myCore.cyc := by
    have e := congrArg Core.cyc (State.myCore_setMe u y)
    exact e
  rw [State.parkCtx]
  simp only [hctx, hcyc]
  exact State.setMe_setMe u y _

/-- What an action other than a branch leaves of an outcome that is not ready. -/
theorem State.act_kept {s0 u : State} {x : Ctx} {grp ip nxt tgt : Word} {oc : Nat} {nra : Nra} {on : WaitOn}
    (hn : nra ≠ .branch) : ∃ z : Ctx, s0.act (u.setMe x) grp ip nxt oc nra tgt on false = u.setMe z ∧
      z = { x with ip := z.ip, retry := z.retry, wait := z.wait } := by
  cases nra with
  | set =>
    refine ⟨{ x with ip := nxt, retry := false }, ?_, rfl⟩
    simp only [State.act, Bool.false_and, Bool.false_eq_true, if_false, State.me_setMe, State.setMe_setMe]
  | yield =>
    refine ⟨{ x with ip := grp, retry := true }, ?_, rfl⟩
    simp only [State.act, Bool.false_and, Bool.false_eq_true, if_false, State.me_setMe, State.setMe_setMe]
  | branch => exact absurd rfl hn
  | park =>
    refine ⟨{ x with ip := grp, retry := x.retry && on.fetches
                     wait := if on = .now then none else some ⟨on, u.myCore.cyc, u.ticks⟩ }, ?_, rfl⟩
    simp only [State.act, Bool.false_and, Bool.false_eq_true, if_false, State.me_setMe, State.setMe_setMe]
    exact State.parkCtx_setMe u { x with ip := grp } on

/-- An outcome that is not ready, with any action but a branch, when it counts no retry. -/
theorem State.refuse_kept {s u : State} (hp : u.pair = none) (ha : u.me.armed = false) {nra : Nra} (hn : nra ≠ .branch)
    (code reason : Nat) (tgt : BitVec 32) (on : WaitOn) : ∃ z : Ctx, s.refuse u code reason nra tgt on = u.setMe z ∧
      z = { u.me.unready s.me.ip (ocCode code reason) with ip := z.ip, retry := z.retry, wait := z.wait } := by
  rw [State.refuse_fresh hp ha]
  exact State.act_kept hn

/-- What an outcome that is not ready leaves, beside the place and the wait of its context. -/
theorem Ctx.of_unready {x z : Ctx} {ip : Word} {oc : Nat}
    (h : z = { x.unready ip oc with ip := z.ip, retry := z.retry, wait := z.wait }) :
    z.oc = BitVec.ofNat 8 oc ∧ z.nrip = ip ∧ (∀ r, z.reg r = x.reg r) ∧ z.slot = x.slot := by
  rw [h]
  exact ⟨rfl, rfl, fun r => Ctx.reg_congr rfl rfl rfl rfl r, rfl⟩

/-- An instruction that answers without a change of memory or registers is not ready. -/
theorem unready_of_refuse {i : Instr} {s u : State} {code reason : Nat} {nra : Nra} {tgt : BitVec 32} {on : WaitOn}
    (hn : nra ≠ .branch) (hp : u.pair = s.pair) (ha : u.me.armed = s.me.armed) (hm : u.mem = s.mem)
    (hr : ∀ r, u.me.reg r = s.me.reg r) (h : exec i s = .next (s.refuse u code reason nra tgt on)) :
    Unready i s code reason := by
  intro hpair _ harmed
  obtain ⟨z, hz, hzz⟩ := State.refuse_kept (s := s) (hp.trans hpair) (ha.trans harmed) hn code reason tgt on
  obtain ⟨hoc, hnrip, hreg, -⟩ := Ctx.of_unready hzz
  refine ⟨u.setMe z, by rw [h, hz], ?_, ?_, hm, fun r => ?_⟩
  · rw [State.me_setMe, hoc, ocCode, Nat.mul_comm]
  · rw [State.me_setMe, hnrip]
  · rw [State.me_setMe, hreg, hr]

theorem unready_of_busy {i : Instr} {s : State} {reason : Nat} {nra : Nra} {tgt : BitVec 32} (hn : nra = .set)
    (h : exec i s = .next (s.busy s reason nra tgt)) : Unready i s 4 reason :=
  unready_of_refuse (by rw [hn]; decide) rfl rfl rfl (fun _ => rfl) h

/-- A trap found by the instruction's own access. -/
theorem State.found_traps {i : Instr} {s : State} {cause : Nat} {info : Word}
    (h : exec i s = .next (s.found s cause info)) : Traps i s cause info := by
  refine ⟨fun hp => ?_, fun p hp => ?_⟩
  · rw [h, State.found, State.finish_alone s hp]
    rfl
  · rw [h, State.found, State.finish_pair s hp]
    exact ⟨_, _, _, rfl, rfl, fun hk => by cases hk⟩

/-! ### Loads from the own local store (R258, R262, R265) -/

theorem Memory.readN_split (m : List Host.Cell) (a i n : Nat) :
    Memory.readN m a (i + n) = Memory.readN m a i + 256 ^ i * Memory.readN m (a + i) n := by
  induction i generalizing a with
  | zero => simp [Memory.readN]
  | succ i ih =>
    rw [Nat.add_right_comm, Memory.readN, Memory.readN, ih, Nat.add_assoc a 1 i, Nat.add_comm 1 i, Nat.pow_succ]
    ring

/-- The bytes of a word from the `i`-th on. -/
theorem Memory.readN_bytes (m : List Host.Cell) (a : Nat) {i n k : Nat} (h : i + n ≤ k) :
    Memory.readN m a k / 256 ^ i % 256 ^ n = Memory.readN m (a + i) n := by
  obtain ⟨j, rfl⟩ : ∃ j, k = i + (n + j) := ⟨k - i - n, by omega⟩
  have hlt : Memory.readN m a i < 256 ^ i := Memory.readN_lt m a i
  rw [Memory.readN_split, Nat.add_mul_div_left _ _ (Nat.pos_of_ne_zero (by positivity)), Nat.div_eq_of_lt hlt,
    Nat.zero_add, Memory.readN_split m (a + i) n j, Nat.add_mul_mod_self_left, Nat.mod_eq_of_lt (Memory.readN_lt m _ n)]

theorem lsAddr_mod (p off : Nat) : lsAddr p off % 8 = off % 8 := by
  unfold lsAddr lsBase
  omega

theorem Ty.elemBytes_bits (t : Ty) (h : t.width ≠ 4) : t.width = 8 * elemBytes t := by
  revert h
  cases t <;> decide

theorem pow_256 (n : Nat) : 256 ^ n = 2 ^ (8 * n) := by rw [Nat.pow_mul]

theorem fld_add (x i j n : Nat) : fld x (i + j) n = fld (x / 2 ^ i) j n := by
  rw [fld, fld, Nat.pow_add, Nat.div_div_eq_div_mul]

/-- An aligned element stands in one word. -/
theorem Ty.elemBytes_fit (t : Ty) {a : Nat} (ha : a % elemBytes t = 0) : a % 8 + elemBytes t ≤ 8 := by
  have h8 : elemBytes t = 1 ∨ elemBytes t = 2 ∨ elemBytes t = 4 ∨ elemBytes t = 8 := by cases t <;> decide
  rcases h8 with h | h | h | h <;> rw [h] at ha ⊢ <;> omega

theorem Ty.lsAddr_aligned {t : Ty} {p off : Nat} (ha : off % elemBytes t = 0) : lsAddr p off % elemBytes t = 0 := by
  have h8 : elemBytes t = 1 ∨ elemBytes t = 2 ∨ elemBytes t = 4 ∨ elemBytes t = 8 := by cases t <;> decide
  unfold lsAddr lsBase
  rcases h8 with h | h | h | h <;> rw [h] at ha ⊢ <;> omega

/-- The element of a word of memory, when it is aligned. -/
theorem State.getElem_word (s : State) (a : Nat) (t : Ty) (hi : Bool) (ha : a % elemBytes t = 0) :
    getElem (BitVec.ofNat 64 (s.rd (a / 8 * 8) 8)) t hi a =
      if t.width = 4 then fld (s.rd a 1) (if hi then 4 else 0) 4 else s.rd a (elemBytes t) := by
  have hword : (BitVec.ofNat 64 (s.rd (a / 8 * 8) 8)).toNat = s.rd (a / 8 * 8) 8 := by
    rw [BitVec.toNat_ofNat]
    exact Nat.mod_eq_of_lt (Memory.readN_lt _ _ 8)
  have haddr : a / 8 * 8 + a % 8 = a := by omega
  have hbytes : ∀ n, a % 8 + n ≤ 8 → fld (s.rd (a / 8 * 8) 8) (8 * (a % 8)) (8 * n) = s.rd a n := fun n hn => by
    have h := Memory.readN_bytes s.mem (a / 8 * 8) hn
    rw [haddr, pow_256, pow_256] at h
    exact h
  rw [getElem, hword, elemBit]
  by_cases h4 : t.width = 4
  · rw [if_pos h4, h4, ← hbytes 1 (by omega), fld_add]
    cases hi
    · exact (fld_mod (w := 8) (by decide)).symm
    · exact (fld_mod (w := 8) (by decide)).symm
  · have hw := Ty.elemBytes_bits t h4
    have h4' : (decide (t.width = 4) && hi) = false := by simp [h4]
    rw [if_neg h4, h4', hw, ← hbytes _ (Ty.elemBytes_fit t ha)]
    rfl

theorem getElem_mod (w : Word) (t : Ty) (hi : Bool) {a b : Nat} (h : a % 8 = b % 8) :
    getElem w t hi a = getElem w t hi b := by
  rw [getElem, getElem, elemBit, elemBit, h]

/-- What a load of the own local store reads. -/
theorem State.lsOp_load {s : State} {p off : Nat} (t : Ty) (hi : Bool) (ha : off % elemBytes t = 0) :
    s.lsOp p off (.load t hi) = (s, if s.isPoison (lsAddr p off) then .poisoned else .ok (t.ext
      (if t.width = 4 then fld (s.rd (lsAddr p off) 1) (if hi then 4 else 0) 4 else s.rd (lsAddr p off) (elemBytes t)))) := by
  have hpoison : s.isPoison (lsAddr p off / 8 * 8) = s.isPoison (lsAddr p off) := by
    rw [State.isPoison, State.isPoison, Nat.mul_div_cancel _ (by decide)]
  have hmod : off % 8 % 8 = lsAddr p off % 8 := by rw [lsAddr_mod, Nat.mod_mod]
  rw [← State.getElem_word s (lsAddr p off) t hi (Ty.lsAddr_aligned ha), ← getElem_mod _ t hi hmod]
  cases hpo : s.isPoison (lsAddr p off) <;> simp [State.lsOp, State.lsStep, opEval, hpoison, hpo, State.lsWake_still]

theorem exec_ldl {o : MOp} {s : State} (hg : s.guard o.grd = true) : exec (.ldl o) s = .next
    (s.offset o false fun off => s.ownLs o.nra o.tgt off (elemBytes o.ty) (.load o.ty o.v0) fun s1 v =>
      s.loaded s1 o (ownVa s.myCore.rank off) v) := by
  show execLdl o s = _
  rw [execLdl, guarded_true hg]

theorem exec_stl {o : MOp} {s : State} (hg : s.guard o.grd = true) : exec (.stl o) s = .next
    (s.offset o true fun off =>
      s.ownLs o.nra o.tgt off (elemBytes o.ty) (.store o.ty o.v0 (s.G o.d)) fun s1 _ => s.okay s1) := by
  show execStl o s = _
  rw [execStl, guarded_true hg]

theorem exec_ld {o : MOp} {s : State} (hg : s.guard o.grd = true) : exec (.ld o) s = .next (s.loadOp o false) := by
  show execLd o s = _
  rw [execLd, guarded_true hg]

theorem State.access_ok {s : State} {a : Word} {u : Use} {p : Place} (h : s.placeOf a u = .ok p) (k : Place → State) :
    s.access a u k = k p := by rw [State.access, h]

theorem State.access_error {s : State} {a : Word} {u : Use} {c : Nat} (h : s.placeOf a u = .error c)
    (k : Place → State) : s.access a u k = s.check c a := by rw [State.access, h]

theorem windowOf_rank_off {rank r off : Nat} {va : Word} (h : windowOf rank va = .rank r off) :
    off = va.toNat % 2 ^ 20 := by
  have hf : fld va.toNat 0 20 = va.toNat % 2 ^ 20 := by rw [fld, Nat.pow_zero, Nat.div_one]
  unfold windowOf at h
  dsimp only at h
  split_ifs at h <;> simp_all

/-- A place in the own local store is an offset of 20 bits, at a multiple of the alignment. -/
theorem State.placeOf_own {s : State} {a : Word} {u : Use} {off : Nat} (h : s.placeOf a u = .ok (.own off))
    (hu : u.align ∣ 2 ^ 20) : off < 2 ^ 20 ∧ off % u.align = 0 := by
  unfold State.placeOf at h
  dsimp only at h
  have hperm : ∀ (ok : Bool) (p : Place), p ≠ .own off →
      (if !ok then Except.error 6 else if s.myCore.allowed a u.need then Except.ok p else .error 6) ≠ .ok (.own off) := by
    intro ok p hp
    split_ifs <;> simp [hp]
  split at h
  · cases h
  · next hal =>
    split at h
    · exact absurd h (hperm _ _ (by simp))
    · exact absurd h (hperm _ _ (by simp))
    · next r o hw =>
      have ho : o = off := by
        split_ifs at h
        · exact Place.own.inj (Except.ok.inj h)
        · exact absurd (Except.ok.inj h) (by simp)
      rw [← ho, windowOf_rank_off hw]
      exact ⟨Nat.mod_lt _ (by decide), by rw [Nat.mod_mod_of_dvd _ hu]; exact not_not.mp hal⟩
    · split at h
      · cases h
      · exact absurd h (hperm _ _ (by simp))
    · exact absurd h (hperm _ _ (by simp))
    · cases h

theorem elemBytes_dvd (t : Ty) : elemBytes t ∣ 2 ^ 20 := by cases t <;> decide

theorem loaded_okay {s : State} (o : MOp) (a v : Word) :
    Writes s (s.loaded s o a v) s.me (.ok true) o.d v ∧ Alone s (s.loaded s o a v) := by
  have hu : HasMe s ((s.setG o.d v).setMe { (s.setG o.d v).me with
      mon := { (s.setG o.d v).me.mon with load := some (a, v) } })
      { s.me.setReg o.d v with mon := { s.me.mon with load := some (a, v) } } := by
    rw [State.me_setG, Ctx.setReg_mon, State.setG, State.setMe_setMe]
    exact .of_setMe s _
  exact writes_ok true hu rfl (.refl _) rfl

/-- A load of the own local store at an aligned offset: the three outcomes. -/
theorem ownLoad_outcomes {i : Instr} {o : MOp} {s : State} {off : Nat} {a : Word} (ha : off % elemBytes o.ty = 0)
    (h : exec i s = .next (s.ownLs o.nra o.tgt off (elemBytes o.ty) (.load o.ty o.v0) fun s1 v => s.loaded s1 o a v)) :
    (s.lsLocked off (elemBytes o.ty) = false → s.isPoison (lsAddr s.cur.1 off) = false →
      ∃ t, exec i s = .next t ∧ Writes s t s.me (.ok true) o.d (o.ty.ext (if o.ty.width = 4 then
        fld (s.rd (lsAddr s.cur.1 off) 1) (if o.v0 then 4 else 0) 4 else s.rd (lsAddr s.cur.1 off) (elemBytes o.ty))) ∧
        Alone s t) ∧
    (s.lsLocked off (elemBytes o.ty) = false → s.isPoison (lsAddr s.cur.1 off) = true →
      Traps i s 0x0E (BitVec.ofNat 64 (off / 8 * 8))) ∧
    (s.lsLocked off (elemBytes o.ty) = true → o.nra = .set → Unready i s 4 4) := by
  refine ⟨fun hk hp => ?_, fun hk hp => ?_, fun hk hn => ?_⟩
  · refine ⟨_, h.trans ?_, loaded_okay o a _⟩
    simp only [State.ownLs, hk, State.lsOp_load _ _ ha, hp, Bool.false_eq_true, if_false]
  · refine State.found_traps (h.trans ?_)
    simp only [State.ownLs, hk, State.lsOp_load _ _ ha, hp, Bool.false_eq_true, if_false, if_true]
  · exact unready_of_busy hn (h.trans (congrArg _ (if_pos hk)))

/-- Settles O17: a load of the own local store reads one word; the address checks come first. -/
theorem localLoads : Obligations.LocalLoads := by
  refine ⟨fun o s off i hg _ hi => ?_, fun o s hg => ⟨fun ha => ⟨?_, ?_⟩, fun ha hb => ⟨?_, fun hw => ?_, fun d n hw => ?_⟩,
    fun c hc => ?_, fun c hc => ?_⟩⟩
  · rcases hi with ⟨rfl, hea, hlt, hal⟩ | ⟨rfl, hpl⟩
    · refine ownLoad_outcomes (a := ownVa s.myCore.rank off) hal ?_
      rw [exec_ldl hg, State.offset, hea, if_neg (by omega), if_neg (by omega)]
    · refine ownLoad_outcomes (a := s.ea o) (State.placeOf_own hpl (elemBytes_dvd o.ty)).2 ?_
      rw [exec_ld hg, State.loadOp, State.access_ok hpl]
  · exact State.check_traps (by rw [exec_ldl hg, State.offset, if_pos ha])
  · exact State.check_traps (by rw [exec_stl hg, State.offset, if_pos ha])
  · exact State.check_traps (by rw [exec_ldl hg, State.offset, if_neg (not_not.mpr ha), if_pos hb]; rfl)
  · refine State.check_traps ?_
    rw [exec_stl hg, State.offset, if_neg (not_not.mpr ha), if_pos hb]
    split
    · next d n hd => exact absurd hd (hw d n)
    · rfl
  · refine State.check_traps ?_
    rw [exec_stl hg, State.offset, if_neg (not_not.mpr ha), if_pos hb, hw]
    rfl
  · exact State.check_traps (by rw [exec_ld hg, State.loadOp, State.access_error hc])
  · refine State.check_traps ?_
    show execSt o s = _
    rw [execSt, guarded_true hg, State.access_error hc]

end Sys2Proof.Machine
end

section
/-! The reply slot (R67, R68, R165, R451): what is sent, what waits, what is collected. Settles O23. -/

namespace Sys2Proof.Machine
open Sys2Proof

theorem State.setMyCore_setMe (s : State) (x : Ctx) (c : Core) : (s.setMe x).setMyCore c = s.setMyCore c :=
  s.setCore_setCore _ _ _

theorem State.setMe_setMyCore (s : State) (x : Ctx) (c : Core) :
    (s.setMyCore c).setMe x = s.setMyCore (c.setCtx s.cur.2 x) := by
  show (s.setMyCore c).setMyCore ((s.setMyCore c).myCore.setCtx s.cur.2 x) = _
  rw [State.myCore_setMyCore]
  exact s.setCore_setCore _ _ _

/-- ACQ looks at the copies of the core, not at its contexts. -/
theorem State.acquire_setMe (s : State) (x : Ctx) : (s.setMe x).acquire = s.acquire.setMe x := by
  have hcore : (s.setMe x).myCore.acquire (s.setMe x).cur.2 = (s.myCore.acquire s.cur.2).setCtx s.cur.2 x := by
    rw [State.myCore_setMe]
    rfl
  rw [State.acquire, hcore, State.setMyCore_setMe, State.acquire, State.setMe_setMyCore]
  rfl

theorem State.after_setMe (s : State) (x : Ctx) (r : Ord) : (s.setMe x).after r = (s.after r).setMe x := by
  unfold State.after
  split
  · exact s.acquire_setMe x
  · rfl

theorem State.pair_after (s : State) (r : Ord) : (s.after r).pair = s.pair := by
  unfold State.after
  split <;> rfl

/-- A result collected into a register, and the copies that `.acq` drops. -/
theorem collect_set {s : State} {x : Ctx} (hx : x.SamePlace s.me) (r : Ord) (d : Spec) (v : Word) :
    Writes s (s.okay (((s.setMe x).after r).setG d v)) x (.ok false) d v ∧
      Alone (s.after r) (s.okay (((s.setMe x).after r).setG d v)) := by
  have hu : HasMe (s.after r) (((s.setMe x).after r).setG d v) (x.setReg d v) := by
    rw [State.after_setMe, State.setG, State.me_setMe, State.setMe_setMe]
    exact .of_setMe _ _
  exact writes_ok false hu (s.pair_after r) hx (m := (x.setReg d v).mon) rfl

/-- An answer without a value. -/
theorem collect_okay {s : State} {x : Ctx} (hx : x.SamePlace s.me) (r : Ord) (v : Word) :
    Writes s (s.okay ((s.setMe x).after r)) x (.ok false) 0 v ∧ Alone (s.after r) (s.okay ((s.setMe x).after r)) := by
  have hu : HasMe (s.after r) ((s.setMe x).after r) x := by
    rw [State.after_setMe]
    exact .of_setMe _ _
  exact writes_ok false hu (s.pair_after r) hx (m := x.mon) rfl

theorem collect_loaded {s : State} {x : Ctx} (hx : x.SamePlace s.me) (o : MOp) (a v : Word) :
    Writes s (s.loaded (s.setMe x) o a v) x (.ok true) o.d v ∧ Alone s (s.loaded (s.setMe x) o a v) := by
  have hu : HasMe s (((s.setMe x).setG o.d v).setMe { ((s.setMe x).setG o.d v).me with
      mon := { ((s.setMe x).setG o.d v).me.mon with load := some (a, v) } })
      { x.setReg o.d v with mon := { x.mon with load := some (a, v) } } := by
    rw [State.me_setG, State.me_setMe, Ctx.setReg_mon, State.setG, State.setMe_setMe, State.setMe_setMe]
    exact .of_setMe s _
  exact writes_ok true hu rfl hx rfl

/-! ### The forms and their exchange -/

/-- Whether an access goes to another core. -/
noncomputable def Place.remote : Place → Bool
  | .other _ _ => true
  | _ => false

/-- What a form sends to a place. -/
noncomputable def sendTo (p : Place) (a : Word) (op : HomeOp) (park : Bool) (s : State) : State :=
  match p with
  | .other r off => s.sendMsg r (.access op off park)
  | _ => s.sendHome a op park

/-- What a form does with its answer: it ends with OK, and writes one register. -/
noncomputable def Collects (o : MOp) (s : State) (f : SlotForm) (collect : State → Word → State) : Prop :=
  ∀ x v, Ctx.SamePlace x s.me → Writes s (collect (s.setMe x) v) x (.ok f.plain) f.d v ∧
    Alone (if f.acq then s.after o.ord else s) (collect (s.setMe x) v)

/-- A form is an exchange through the reply slot. -/
noncomputable def Exchanges (o : MOp) (s : State) (p : Place) (f : SlotForm) : Prop :=
  ∃ collect, exec f.i s = .next (s.exchange o f.a p.remote f.op (sendTo p f.a f.op f.park) collect) ∧
    Collects o s f collect

theorem exec_ldk {o : MOp} {s : State} (hg : s.guard o.grd = true) : exec (.ldk o) s = .next (s.loadOp o true) := by
  show execLdk o s = _
  rw [execLdk, guarded_true hg]

theorem loadOp_exchange {o : MOp} {s : State} {p : Place} (hp : s.placeOf (s.ea o) (elemUse o rR false) = .ok p)
    (hr : (∃ r off, p = .other r off) ∨ p = .fabric) (ldk : Bool) : s.loadOp o ldk =
      s.exchange o (s.ea o) p.remote (.load o.ty o.v0) (sendTo p (s.ea o) (.load o.ty o.v0) false)
        (fun s1 v => s.loaded s1 o (s.ea o) v) := by
  rw [State.loadOp, State.access_ok hp]
  rcases hr with ⟨r, off, rfl⟩ | rfl
  · rfl
  · rfl

theorem waitForm_exchange {o : MOp} {s : State} {p : Place} {op : HomeOp} {done : State → Word → State}
    (hp : s.placeOf (s.ea o) (feUse (fills op)) = .ok p) (hr : (∃ r off, p = .other r off) ∨ p = .fabric ∨ p = .home) :
    s.waitForm o op done = s.exchange o (s.ea o) p.remote op (sendTo p (s.ea o) op (o.nra == .park))
      (fun s1 v => done (s1.after o.ord) v) := by
  have h := State.access_ok hp
  rw [feUse] at h
  rw [State.waitForm, h]
  rcases hr with ⟨r, off, rfl⟩ | rfl | rfl
  · rfl
  · rfl
  · rfl

theorem atomic_exchange {o : MOp} {s : State} {p : Place} {op : AtomOp}
    (hp : s.placeOf (s.aea o) (elemUse o rA true) = .ok p)
    (hr : (∃ r off, p = .other r off) ∨ p = .fabric ∨ p = .home) :
    s.atomic o op = s.exchange o (s.aea o) p.remote (.atomic op o.ty (s.G o.b) (s.G o.d))
      (sendTo p (s.aea o) (.atomic op o.ty (s.G o.b) (s.G o.d)) false)
      (fun s1 v => s.okay ((s1.after o.ord).setG o.d v)) := by
  have h : ∀ k : Place → State, s.access (s.aea o) { elemUse o rA true with need := rA } k = k p := State.access_ok hp
  rw [State.atomic, h]
  rcases hr with ⟨r, off, rfl⟩ | rfl | rfl
  · rfl
  · rfl
  · rfl

theorem exec_atomic {o : MOp} {s : State} (hg : s.guard o.grd = true) {i : Instr} {op : AtomOp}
    (h : (i, op) ∈ ([(.aadd o, .add), (.aand o, .and), (.aor o, .or), (.axor o, .xor), (.amin o, .min), (.amax o, .max),
      (.aswp o, .swap), (.acas o, .cas), (.afadd o, .fadd)] : List (Instr × AtomOp))) :
    exec i s = .next (s.atomic o op) := by
  simp only [List.mem_cons, List.not_mem_nil, or_false, Prod.mk.injEq] at h
  rcases h with ⟨rfl, rfl⟩ | ⟨rfl, rfl⟩ | ⟨rfl, rfl⟩ | ⟨rfl, rfl⟩ | ⟨rfl, rfl⟩ | ⟨rfl, rfl⟩ | ⟨rfl, rfl⟩ | ⟨rfl, rfl⟩ |
    ⟨rfl, rfl⟩ <;> exact guarded_true hg fun s => s.atomic o _

theorem exchanges_load {o : MOp} {s : State} {p : Place} {f : SlotForm} (hf : f ∈ loadForms o s)
    (hg : s.guard o.grd = true) (hp : s.placeOf f.a f.use = .ok p) (hr : (∃ r off, p = .other r off) ∨ p = .fabric) :
    Exchanges o s p f := by
  simp only [loadForms, List.mem_cons, List.not_mem_nil, or_false] at hf
  rcases hf with rfl | rfl
  · exact ⟨_, (exec_ld hg).trans (congrArg _ (loadOp_exchange hp hr false)), fun x v hx => collect_loaded hx o _ v⟩
  · exact ⟨_, (exec_ldk hg).trans (congrArg _ (loadOp_exchange hp hr true)), fun x v hx => collect_loaded hx o _ v⟩

theorem exchanges_wait {o : MOp} {s : State} {p : Place} {f : SlotForm} (hf : f ∈ waitForms o s)
    (hg : s.guard o.grd = true) (hp : s.placeOf f.a f.use = .ok p)
    (hr : (∃ r off, p = .other r off) ∨ p = .fabric ∨ p = .home) : Exchanges o s p f := by
  simp only [waitForms, List.mem_cons, List.not_mem_nil, or_false] at hf
  rcases hf with rfl | rfl | rfl | rfl
  · exact ⟨_, (guarded_true hg _ : execLdw o s = _).trans (congrArg _ (waitForm_exchange hp hr)),
      fun x v hx => collect_set hx o.ord o.d v⟩
  · exact ⟨_, (guarded_true hg _ : execLdc o s = _).trans (congrArg _ (waitForm_exchange hp hr)),
      fun x v hx => collect_set hx o.ord o.d v⟩
  · exact ⟨_, (guarded_true hg _ : execFeq o s = _).trans (congrArg _ (waitForm_exchange hp hr)),
      fun x v hx => collect_set hx o.ord o.d v⟩
  · exact ⟨_, (guarded_true hg _ : execStf o s = _).trans (congrArg _ (waitForm_exchange hp hr)),
      fun x v hx => collect_okay hx o.ord v⟩

theorem exchanges_atom {o : MOp} {s : State} {p : Place} {f : SlotForm} (hf : f ∈ atomForms o s)
    (hg : s.guard o.grd = true) (hp : s.placeOf f.a f.use = .ok p)
    (hr : (∃ r off, p = .other r off) ∨ p = .fabric ∨ p = .home) : Exchanges o s p f := by
  obtain ⟨⟨i, op⟩, hmem, rfl⟩ := List.mem_map.mp hf
  exact ⟨_, (exec_atomic hg hmem).trans (congrArg _ (atomic_exchange hp hr)), fun x v hx => collect_set hx o.ord o.d v⟩

theorem State.access_fe {s : State} {a : Word} {p : Place} {w : Bool} (h : s.placeOf a (feUse w) = .ok p)
    (k : Place → State) : s.access a { align := 8, own := true, other := true, device := true, fabric := true
                                       write := w, need := rF } k = k p := State.access_ok h k

theorem setForm_exchange {o : MOp} {s : State} {r off : Nat} {op : HomeOp} {data : Word} {bm fe : Nat}
    (hp : s.placeOf (s.ea o) (feUse true) = .ok (.other r off)) :
    s.setForm o op data bm fe = s.exchange o (s.ea o) true op (sendTo (.other r off) (s.ea o) op false)
      (fun s1 _ => s.okay (s1.after o.ord)) := by
  rw [State.setForm, State.access_fe hp]
  rfl

theorem exchanges_rsta {o : MOp} {s : State} {p : Place} (hg : s.guard o.grd = true)
    (hp : s.placeOf (s.aea o) (rstaUse o) = .ok p) (hr : p = .fabric ∨ p = .home) :
    Exchanges o s p ⟨.rsta o, s.aea o, rstaUse o, .rsta o.ty (s.G o.b), 0, false, false, false⟩ := by
  refine ⟨fun s1 _ => s.okay s1, (guarded_true hg _ : execRsta o s = _).trans (congrArg _ ?_),
    fun x v hx => collect_okay hx .none v⟩
  refine (State.access_ok hp _).trans ?_
  rcases hr with rfl | rfl
  · rfl
  · rfl

/-- Every form that goes through the reply slot is an exchange, which collects its answer. -/
theorem exchanges {o : MOp} {s : State} {p : Place} {f : SlotForm} (hf : f ∈ slotForms o s p)
    (hg : s.guard o.grd = true) (hp : s.placeOf f.a f.use = .ok p) :
    Exchanges o s p f ∧ ((∃ r off, p = .other r off) ∨ p = .fabric ∨ p = .home) := by
  cases p with
  | own off => cases hf
  | weight off => cases hf
  | other r off =>
    refine ⟨?_, .inl ⟨r, off, rfl⟩⟩
    simp only [slotForms, List.mem_append, List.mem_cons, List.not_mem_nil, or_false] at hf
    rcases hf with ((hf | hf) | hf) | rfl | rfl | rfl
    · exact exchanges_load hf hg hp (.inl ⟨r, off, rfl⟩)
    · exact exchanges_wait hf hg hp (.inl ⟨r, off, rfl⟩)
    · exact exchanges_atom hf hg hp (.inl ⟨r, off, rfl⟩)
    · refine ⟨fun s1 _ => s.okay s1, (guarded_true hg _ : execSt o s = _).trans (congrArg _ ?_),
        fun x v hx => collect_okay hx .none v⟩
      exact State.access_ok hp _
    · exact ⟨_, (guarded_true hg _ : execSte o s = _).trans (congrArg _ (setForm_exchange hp)),
        fun x v hx => collect_okay hx o.ord v⟩
    · exact ⟨_, (guarded_true hg _ : execFeset o s = _).trans (congrArg _ (setForm_exchange hp)),
        fun x v hx => collect_okay hx o.ord v⟩
  | fabric =>
    refine ⟨?_, .inr (.inl rfl)⟩
    simp only [slotForms, List.mem_append, List.mem_cons, List.not_mem_nil, or_false] at hf
    rcases hf with ((hf | hf) | hf) | rfl
    · exact exchanges_load hf hg hp (.inr rfl)
    · exact exchanges_wait hf hg hp (.inr (.inl rfl))
    · exact exchanges_atom hf hg hp (.inr (.inl rfl))
    · exact exchanges_rsta hg hp (.inl rfl)
  | home =>
    refine ⟨?_, .inr (.inr rfl)⟩
    simp only [slotForms, List.mem_append, List.mem_cons, List.not_mem_nil, or_false] at hf
    rcases hf with (hf | hf) | rfl
    · exact exchanges_wait hf hg hp (.inr (.inr rfl))
    · exact exchanges_atom hf hg hp (.inr (.inr rfl))
    · exact exchanges_rsta hg hp (.inr rfl)

/-! ### What is sent, and how the slot answers (R67, R68) -/

/-- `s1` is `s` but for its executing context, which has emptied its slot or not yet filled it. -/
structure Asking (s s1 : State) : Prop where
  has : ∃ x, (s1 = s ∨ s1 = s.setMe x) ∧ s1.me = x ∧ x.SamePlace s.me ∧ (∀ r, x.reg r = s.me.reg r) ∧ x.gen = s.me.gen ∧
    x.nrip = s.me.nrip

theorem Asking.refl (s : State) : Asking s s := ⟨s.me, .inl rfl, rfl, .refl _, fun _ => rfl, rfl, rfl⟩

theorem Asking.emptied (s : State) : Asking s (s.setMe { s.me with slot := none, rung := none }) :=
  ⟨_, .inr rfl, State.me_setMe _ _, ⟨rfl, rfl, rfl, rfl, rfl, rfl, rfl⟩, fun r => Ctx.reg_congr rfl rfl rfl rfl r, rfl, rfl⟩

/-- What a request leaves: one message to the owner of the address, the slot, and the outcome that is not ready. -/
noncomputable def Requested (s : State) (p : Place) (f : SlotForm) (t : State) : Prop :=
  t.nextId = s.nextId + 1 ∧ t.mem = s.mem ∧ (∀ r, t.me.reg r = s.me.reg r) ∧ t.me.nrip = s.me.ip ∧
  match p with
  | .other r off => t.me.oc = 12 * 8 + 4 ∧ t.homeReqs = s.homeReqs ∧
    t.me.slot = some ⟨s.nextId, s.me.ip, f.a, s.me.gen.toNat, true, none⟩ ∧
    ∃ m : Msg, t.msgs = s.msgs ++ [m] ∧ m.id = s.nextId ∧ m.kind = .access f.op off f.park ∧
      m.rank = r ∧ m.pid = s.cur.1 ∧ m.ctx = s.cur.2 ∧ m.gen = s.me.gen.toNat
  | _ => t.me.oc = 2 * 8 + 1 ∧ t.msgs = s.msgs ∧
    t.me.slot = some ⟨s.nextId, s.me.ip, f.a, s.me.gen.toNat, false, none⟩ ∧
    ∃ q : HomeReq, t.homeReqs = s.homeReqs ++ [q] ∧ q.id = s.nextId ∧ q.op = f.op ∧ q.va = f.a ∧
      q.pid = s.cur.1 ∧ q.ctx = s.cur.2 ∧ q.gen = s.me.gen.toNat ∧ q.park = f.park

theorem Asking.machine {s s1 : State} (h : Asking s s1) : s1 = { s with cores := s1.cores } := by
  obtain ⟨x, rfl | rfl, -⟩ := h.has
  · rfl
  · rfl

theorem State.me_sendMsg (s : State) (r : Nat) (k : MsgKind) : (s.sendMsg r k).me = s.me := State.me_setMyCore s _

/-- The message that `sendMsg` adds. -/
noncomputable def State.message (s : State) (rank : Nat) (kind : MsgKind) : Msg :=
  { id := s.nextId, kind := kind, team := (s.myCore.team).getD 0, pid := s.cur.1, ctx := s.cur.2, gen := s.me.gen.toNat
    srank := s.myCore.rank, rank := rank, ip := s.ip, cls := s.me.top2, front := s.me.front }

theorem State.msgs_sendMsg (s : State) (r : Nat) (k : MsgKind) : (s.sendMsg r k).msgs = s.msgs ++ [s.message r k] := rfl

/-- The request that `sendHome` adds. -/
noncomputable def State.homeReq (s : State) (a : Word) (op : HomeOp) (park : Bool) : HomeReq :=
  { id := s.nextId, pid := s.cur.1, ctx := s.cur.2, gen := s.me.gen.toNat, dom := s.myCore.dom, va := a, op := op
    park := park, front := s.me.front, seq := s.myCore.seq, ticks := s.ticks }

theorem State.homeReqs_sendHome (s : State) (a : Word) (op : HomeOp) (park : Bool) :
    (s.sendHome a op park).homeReqs = s.homeReqs ++ [s.homeReq a op park] := rfl

theorem State.me_sendTo (s : State) (p : Place) (a : Word) (op : HomeOp) (park : Bool) :
    (sendTo p a op park s).me = s.me := by
  unfold sendTo
  split
  · exact s.me_sendMsg _ _
  · rfl

theorem State.pair_sendTo (s : State) (p : Place) (a : Word) (op : HomeOp) (park : Bool) :
    (sendTo p a op park s).pair = s.pair := by
  unfold sendTo
  split <;> rfl

theorem State.nextId_sendTo (s : State) (p : Place) (a : Word) (op : HomeOp) (park : Bool) :
    (sendTo p a op park s).nextId = s.nextId := by
  unfold sendTo
  split <;> rfl

theorem State.mem_sendTo (s : State) (p : Place) (a : Word) (op : HomeOp) (park : Bool) :
    (sendTo p a op park s).mem = s.mem := by
  unfold sendTo
  split <;> rfl

theorem State.msgs_openSlot (s : State) (a : Word) (remote : Bool) : (s.openSlot a remote).msgs = s.msgs := rfl

theorem State.homeReqs_openSlot (s : State) (a : Word) (remote : Bool) : (s.openSlot a remote).homeReqs = s.homeReqs :=
  rfl

theorem State.msgs_sendHome (s : State) (a : Word) (op : HomeOp) (park : Bool) : (s.sendHome a op park).msgs = s.msgs :=
  rfl

theorem State.homeReqs_sendMsg (s : State) (r : Nat) (k : MsgKind) : (s.sendMsg r k).homeReqs = s.homeReqs := rfl

theorem State.me_openSlot (s : State) (a : Word) (remote : Bool) : (s.openSlot a remote).me =
    { s.me with slot := some { id := s.nextId, ip := s.ip, addr := a, gen := s.me.gen.toNat, remote := remote }
                rung := none } := State.me_setMe _ _

theorem pending_requested {o : MOp} {s s1 : State} {p : Place} {f : SlotForm} (h1 : Asking s s1) (hp : s.pair = none)
    (ha : s.me.armed = false) (hn : o.nra ≠ .branch) (hr : (∃ r off, p = .other r off) ∨ p = .fabric ∨ p = .home) :
    Requested s p f (s.pending ((sendTo p f.a f.op f.park s1).openSlot f.a p.remote) o p.remote) := by
  obtain ⟨x, -, hme, hplace, hreg, hgen, -⟩ := h1.has
  have hmach := h1.machine
  have hp1 : s1.pair = none := by rw [hmach]; exact hp
  have hid : s1.nextId = s.nextId := by rw [hmach]
  have hmem : s1.mem = s.mem := by rw [hmach]
  have hcur : s1.cur = s.cur := by rw [hmach]
  have hme' := State.me_openSlot (sendTo p f.a f.op f.park s1) f.a p.remote
  rw [State.me_sendTo, State.nextId_sendTo, hid, State.ip_alone ((State.pair_sendTo s1 p _ _ _).trans hp1),
    State.me_sendTo, hme] at hme'
  obtain ⟨z, hz, hzz⟩ := State.refuse_kept (s := s) (u := (sendTo p f.a f.op f.park s1).openSlot f.a p.remote)
    ((State.pair_sendTo s1 p _ _ _).trans hp1) (by rw [hme']; exact hplace.armed.trans ha) hn
    (if p.remote then 4 else 1) (if p.remote then 12 else 2) o.tgt .reply
  obtain ⟨hoc, hnrip, hzreg, hslot⟩ := Ctx.of_unready hzz
  rw [hme'] at hslot hzreg
  have hslot' : z.slot = some ⟨s.nextId, s.me.ip, f.a, s.me.gen.toNat, p.remote, none⟩ := by
    rw [hslot, hplace.ip, hgen]
  rw [State.pending, hz]
  refine ⟨?_, ?_, fun r => ?_, ?_, ?_⟩
  · show (sendTo p f.a f.op f.park s1).nextId + 1 = _
    rw [State.nextId_sendTo, hid]
  · exact (State.mem_sendTo s1 p _ _ _).trans hmem
  · rw [State.me_setMe, hzreg]
    exact (Ctx.reg_congr rfl rfl rfl rfl r).trans (hreg r)
  · rw [State.me_setMe, hnrip]
  · rw [State.me_setMe, hslot', hoc, State.setMe_msgs, State.setMe_homeReqs, State.msgs_openSlot, State.homeReqs_openSlot]
    have hgen' : s1.me.gen.toNat = s.me.gen.toNat := by rw [hme, hgen]
    have hhome : s1.homeReqs = s.homeReqs := by rw [hmach]
    have hmsgs : s1.msgs = s.msgs := by rw [hmach]
    have hhomeReq : (s1.homeReq f.a f.op f.park).id = s.nextId ∧ (s1.homeReq f.a f.op f.park).op = f.op ∧
        (s1.homeReq f.a f.op f.park).va = f.a ∧ (s1.homeReq f.a f.op f.park).pid = s.cur.1 ∧
        (s1.homeReq f.a f.op f.park).ctx = s.cur.2 ∧ (s1.homeReq f.a f.op f.park).gen = s.me.gen.toNat ∧
        (s1.homeReq f.a f.op f.park).park = f.park := by
      refine ⟨hid, rfl, rfl, ?_, ?_, hgen', rfl⟩
      · rw [← hcur]
        rfl
      · rw [← hcur]
        rfl
    rcases hr with ⟨r, off, rfl⟩ | rfl | rfl
    · dsimp only [sendTo]
      rw [State.msgs_sendMsg, State.homeReqs_sendMsg, hmsgs, hhome]
      refine ⟨rfl, rfl, rfl, s1.message r (.access f.op off f.park), rfl, hid, rfl, rfl, ?_, ?_, hgen'⟩
      · rw [← hcur]
        rfl
      · rw [← hcur]
        rfl
    · dsimp only [sendTo]
      rw [State.msgs_sendHome, State.homeReqs_sendHome, hmsgs, hhome]
      exact ⟨rfl, rfl, rfl, s1.homeReq f.a f.op f.park, rfl, hhomeReq⟩
    · dsimp only [sendTo]
      rw [State.msgs_sendHome, State.homeReqs_sendHome, hmsgs, hhome]
      exact ⟨rfl, rfl, rfl, s1.homeReq f.a f.op f.park, rfl, hhomeReq⟩

theorem request_sends {o : MOp} {s s1 : State} {a : Word} {remote : Bool} {send : State → State} (h1 : Asking s s1)
    (hr : s.relDue o = false) (hk : s.vaLocked a (elemBytes o.ty) = false)
    (hab : s.myCore.absentAt s.cur.2 (lineKey s.myCore.dom a) = none) :
    s.request s1 o a remote send = s.pending ((send s1).openSlot a remote) o remote := by
  have hab1 : s1.myCore.absentAt s.cur.2 (lineKey s.myCore.dom a) = none := by
    obtain ⟨x, rfl | rfl, -⟩ := h1.has
    · exact hab
    · rw [State.myCore_setMe]
      exact hab
  simp [State.request, hr, hk, hab1]

theorem exchange_empty {o : MOp} {s : State} (h : s.me.slot = none) (a : Word) (remote : Bool) (op : HomeOp)
    (send : State → State) (collect : State → Word → State) :
    s.exchange o a remote op send collect = s.request s o a remote send := by
  rw [State.exchange, h]

theorem exchange_elsewhere {o : MOp} {s : State} {sl : Slot} (h : s.me.slot = some sl) (hip : sl.ip ≠ s.ip) (a : Word)
    (remote : Bool) (op : HomeOp) (send : State → State) (collect : State → Word → State) :
    s.exchange o a remote op send collect = s.busy s (if s.relDue o then 11 else 13) o.nra o.tgt := by
  simp only [State.exchange, h, bne_iff_ne, ne_eq, hip, not_false_eq_true, if_true]

theorem exchange_due {o : MOp} {s : State} {sl : Slot} (h : s.me.slot = some sl) (hip : sl.ip = s.ip)
    (ha : sl.ans = none) (a : Word) (remote : Bool) (op : HomeOp) (send : State → State)
    (collect : State → Word → State) : s.exchange o a remote op send collect = s.pending s o sl.remote := by
  simp only [State.exchange, h, hip, bne_self_eq_false, Bool.false_eq_true, if_false, ha]

theorem exchange_answered {o : MOp} {s : State} {sl : Slot} {ans : Answer} (h : s.me.slot = some sl) (hip : sl.ip = s.ip)
    (ha : sl.ans = some ans) (a : Word) (remote : Bool) (op : HomeOp) (send : State → State)
    (collect : State → Word → State) : s.exchange o a remote op send collect =
      if sl.addr = a then s.collected (s.setMe { s.me with slot := none, rung := none }) o a op ans s.me.rung collect
      else s.request (s.setMe { s.me with slot := none, rung := none }) o a remote send := by
  by_cases hadr : sl.addr = a
  · simp only [State.exchange, h, hip, bne_self_eq_false, Bool.false_eq_true, if_false, ha, hadr, if_true]
  · simp only [State.exchange, h, hip, bne_self_eq_false, Bool.false_eq_true, if_false, ha, bne_iff_ne, ne_eq, hadr,
      not_false_eq_true, if_true]

/-- An answer that is due leaves the networks as they are. -/
theorem pending_again {o : MOp} {s : State} (hp : s.pair = none) (ha : s.me.armed = false) (hn : o.nra = .set)
    (remote : Bool) : (s.pending s o remote).msgs = s.msgs ∧ (s.pending s o remote).homeReqs = s.homeReqs ∧
      (s.pending s o remote).me.oc = if remote then 12 * 8 + 4 else 2 * 8 + 1 := by
  obtain ⟨z, hz, hzz⟩ := State.refuse_kept (s := s) hp ha (show o.nra ≠ .branch by rw [hn]; decide)
    (if remote then 4 else 1) (if remote then 12 else 2) o.tgt .reply
  rw [State.pending, hz, State.me_setMe, (Ctx.of_unready hzz).1]
  exact ⟨rfl, rfl, by cases remote <;> rfl⟩

theorem busy_elsewhere {o : MOp} {s : State} (hp : s.pair = none) (ha : s.me.armed = false) (hn : o.nra = .set)
    (reason : Nat) : (s.busy s reason o.nra o.tgt).msgs = s.msgs ∧ (s.busy s reason o.nra o.tgt).homeReqs = s.homeReqs ∧
      (s.busy s reason o.nra o.tgt).me.slot = s.me.slot := by
  obtain ⟨z, hz, hzz⟩ := State.refuse_kept (s := s) hp ha (show o.nra ≠ .branch by rw [hn]; decide) 4 reason o.tgt
    (.busy reason)
  rw [State.busy, hz, State.me_setMe]
  exact ⟨rfl, rfl, (Ctx.of_unready hzz).2.2.2⟩

/-- Settles O23: every form is one exchange, and the exchange looks at the slot. -/
theorem replySlot : Obligations.ReplySlot := by
  refine ⟨fun o s p f hf hg hpl hp hs => ⟨fun hr hn => ?_, fun hr hk hab _ ha hn => ?_⟩,
    fun o s p f sl hf hg hpl hp hs _ ha hn => ⟨fun hip hans => ?_, fun hip hr => ?_, fun hip hans hadr hr hk hab => ?_⟩,
    fun o s p f sl hf hg hpl hs hip hadr => ⟨fun v hv => ?_, fun cause info hv hp => ?_⟩⟩
  all_goals obtain ⟨⟨collect, hexec, hcollect⟩, hplace⟩ := exchanges hf hg hpl
  · rw [exchange_empty hs, State.request, if_pos hr] at hexec
    exact unready_of_busy hn hexec
  · rw [exchange_empty hs, request_sends (.refl s) hr hk hab] at hexec
    obtain ⟨h1, h2, h3, h4, h5⟩ := pending_requested (o := o) (f := f) (.refl s) hp ha hn hplace
    exact ⟨_, hexec, h1, h2, h3, h4, h5⟩
  · rw [exchange_due hs hip hans] at hexec
    exact ⟨_, hexec, pending_again hp ha hn _⟩
  · rw [exchange_elsewhere hs hip, hr] at hexec
    exact ⟨unready_of_busy hn hexec, _, hexec, busy_elsewhere hp ha hn _⟩
  · obtain ⟨ans, hans⟩ := Option.isSome_iff_exists.mp hans
    rw [exchange_answered hs hip hans, if_neg hadr, request_sends (.emptied s) hr hk hab] at hexec
    obtain ⟨h1, h2, h3, -, h5⟩ := pending_requested (o := o) (f := f) (.emptied s) hp ha
      (show o.nra ≠ .branch by rw [hn]; decide) hplace
    refine ⟨_, hexec, h1, h2, h3, ?_⟩
    rcases hplace with ⟨r, off, rfl⟩ | rfl | rfl
    · obtain ⟨hoc, -, hslot, m, hm, -⟩ := h5
      exact ⟨hoc, by rw [hm]; simp, hslot⟩
    · obtain ⟨hoc, -, hslot, q, hq, -⟩ := h5
      exact ⟨hoc, by rw [hq]; simp, hslot⟩
    · obtain ⟨hoc, -, hslot, q, hq, -⟩ := h5
      exact ⟨hoc, by rw [hq]; simp, hslot⟩
  · rw [exchange_answered hs hip hv, if_pos hadr] at hexec
    obtain ⟨hw, hal⟩ := hcollect { s.me with slot := none, rung := none } v ⟨rfl, rfl, rfl, rfl, rfl, rfl, rfl⟩
    exact ⟨_, hexec, ⟨hw.value, hw.others, hw.halves, hw.ended, hw.rest⟩, hal⟩
  · rw [exchange_answered hs hip hv, if_pos hadr] at hexec
    rw [hexec, State.collected, State.found, State.finish_alone s (show (s.setMe _).pair = none from hp)]
    rfl

end Sys2Proof.Machine
end

section
/-! Copies and buffers of a core: cached loads (R111, R262–R264), the store buffer (R109), WLD and PFX (R269, R270), ACQ,
REL and FENCE (R163–R165), PARK (R253). Settles O24, O25, O26, O27 and O28. -/

namespace Sys2Proof.Machine
open Sys2Proof

/-! ### Cached loads -/

theorem forward_last (es : List SEntry) (e : SEntry) (v : Word) (he : e.bits = BitVec.allOnes 64) :
    forward (es ++ [e]) v = (e.data, BitVec.allOnes 64) := by
  rw [forward, List.foldl_append, List.foldl_cons, List.foldl_nil, he]
  refine Prod.ext ?_ ?_
  · simp only [BitVec.not_allOnes, BitVec.and_zero, BitVec.zero_or, BitVec.and_allOnes]
  · exact BitVec.or_allOnes

theorem Core.lookup_copy {c : Core} {k : Nat} {a : Word} {w : CWord} (hb : c.buffered k a = []) (hw : w.poison = false)
    (m : Word) : c.lookup k a m (some w) = some (w.v, false) := by
  simp [Core.lookup, hb, forward, hw]

theorem Core.lookup_buffered {c : Core} {k : Nat} {a : Word} {es : List SEntry} {e : SEntry}
    (hb : c.buffered k a = es ++ [e]) (he : e.bits = BitVec.allOnes 64) (m : Word) (copy : Option CWord) :
    c.lookup k a m copy = some (e.data, false) := by
  simp [Core.lookup, hb, forward_last _ _ _ he]

theorem elemMask_ne_zero (t : Ty) (hi : Bool) (a : Word) : elemMask t hi a ≠ 0 := by
  intro h
  have hbit : elemBit t hi a.toNat < 64 := by
    unfold elemBit
    split
    · omega
    · omega
  have hones : (ones t.width).testBit 0 = true := by cases t <;> decide
  have h0 : (elemMask t hi a).getLsbD (elemBit t hi a.toNat) = true := by
    rw [elemMask, BitVec.getLsbD_ofNat, Nat.testBit_mul_two_pow, Nat.sub_self, hones]
    simp [hbit]
  rw [h] at h0
  exact absurd h0 (by simp)

theorem Core.lookup_none {c : Core} {k : Nat} {a : Word} (hb : c.buffered k a = []) {m : Word} (hm : m ≠ 0) :
    c.lookup k a m none = none := by
  have h : m &&& ~~~(0 : Word) = m := by
    rw [show ~~~(0 : Word) = BitVec.allOnes 64 from rfl, BitVec.and_allOnes]
  simp only [Core.lookup, hb, forward, List.foldl_nil, h, hm, if_false]
  rfl

/-- A cached load of a line that has left no note, at an address that is not locked. -/
theorem State.cachedLoad_eq {s : State} {o : MOp} {a : Word} (hn : s.myCore.noteAt s.cur.2 (lineKey s.myCore.dom a) = none)
    (hk : s.vaLocked a (elemBytes o.ty) = false) (ldk : Bool) (done : State → Word → State) :
    s.cachedLoad o a ldk done =
      match s.myCore.lookup s.cur.2 a (elemMask o.ty o.v0 a) (s.myCore.copyFor s.cur.2 a ldk) with
      | some (_, true) => s.found s 0x0E (wordAddr a)
      | some (w, false) => done s (o.ty.ext (getElem w o.ty o.v0 a.toNat))
      | none =>
        match s.myCore.absentAt s.cur.2 (lineKey s.myCore.dom a) with
        | some e => s.absent s e a o.nra o.tgt
        | none => match s.requestLine a (if ldk then .ldk else .ld) with
          | some (s1, r) => s.refuse s1 1 r o.nra o.tgt (.line (lineKey s.myCore.dom a))
          | none => s.busy s 0 o.nra o.tgt := by
  simp only [State.cachedLoad, hn, hk, Bool.false_eq_true, if_false] <;> rfl

/-- The request for a line that no request of the core names. -/
noncomputable def State.lineReq (s : State) (a : Word) (w : Want) : LineReq :=
  { line := lineKey s.myCore.dom a, va := BitVec.ofNat 64 (a.toNat / 64 * 64), dom := s.myCore.dom
    waiters := [(s.cur.2, w)] }

theorem State.requestLine_first {s : State} (hl : s.myCore.lineReqs = []) (hd : 0 < s.conf.lineDepth) (a : Word)
    (w : Want) : s.requestLine a w = some (s.setMyCore
      { s.myCore.clearAbsent s.cur.2 (lineKey s.myCore.dom a) (w == .pfx) with lineReqs := [s.lineReq a w] }, 0) := by
  simp only [State.requestLine, hl, List.any_nil, Bool.false_eq_true, if_false, List.length_nil, Nat.not_le.mpr hd,
    List.nil_append]
  rfl

/-- With neither a buffered word nor a copy, the line is asked for. -/
theorem State.cachedLoad_requests {s : State} {o : MOp} {a : Word} {ldk : Bool}
    (hn : s.myCore.noteAt s.cur.2 (lineKey s.myCore.dom a) = none) (hk : s.vaLocked a (elemBytes o.ty) = false)
    (hb : s.myCore.buffered s.cur.2 a = []) (hc : s.myCore.copyFor s.cur.2 a ldk = none)
    (hab : s.myCore.absentAt s.cur.2 (lineKey s.myCore.dom a) = none) (hl : s.myCore.lineReqs = [])
    (hd : 0 < s.conf.lineDepth) (done : State → Word → State) : s.cachedLoad o a ldk done = s.refuse (s.setMyCore
      { s.myCore.clearAbsent s.cur.2 (lineKey s.myCore.dom a) ((if ldk then Want.ldk else .ld) == .pfx) with
        lineReqs := [s.lineReq a (if ldk then .ldk else .ld)] }) 1 0 o.nra o.tgt (.line (lineKey s.myCore.dom a)) := by
  rw [State.cachedLoad_eq hn hk, hc, Core.lookup_none hb (elemMask_ne_zero _ _ _)]
  simp only [hab, State.requestLine_first hl hd]

theorem exec_loads {o : MOp} {s : State} {i : Instr} {ldk : Bool} (hi : (i = .ld o ∧ ldk = false) ∨ (i = .ldk o ∧ ldk = true))
    (hg : s.guard o.grd = true) : exec i s = .next (s.loadOp o ldk) := by
  rcases hi with ⟨rfl, rfl⟩ | ⟨rfl, rfl⟩
  · exact exec_ld hg
  · exact exec_ldk hg

theorem Core.copyFor_of {c : Core} {k : Nat} {a : Word} {ldk : Bool} {w : CWord}
    (h : c.dcache.find? (wordKey c.dom a) = some w ∨
      (c.dcache.find? (wordKey c.dom a) = none ∧
        (ldk = false ∨ c.kcache.find? (wordKey c.dom a) = none) ∧ c.held k a = some w) ∨
      (c.dcache.find? (wordKey c.dom a) = none ∧ ldk = true ∧ c.kcache.find? (wordKey c.dom a) = some w)) :
    c.copyFor k a ldk = some w := by
  unfold Core.copyFor
  rcases h with h | ⟨h, hk, hh⟩ | ⟨h, rfl, hk⟩
  · simp [h]
  · rcases hk with rfl | hk
    · simp [h, hh]
    · cases ldk <;> simp [h, hh, hk]
  · simp [h, hk]

/-- Settles O24: the buffered word, else the copy, else one request for the line. -/
theorem cachedLoads : Obligations.CachedLoads := by
  intro o s i ldk hi hg a c k hpl hn hk
  have hexec : exec i s = .next (s.cachedLoad o a ldk fun s1 v => s.loaded s1 o a v) := by
    rw [exec_loads hi hg, State.loadOp, State.access_ok hpl]
  refine ⟨fun w hb hw hcopy => ?_, fun es e hb he => ?_, fun hb hc hab hl hd hnra hp _ harmed => ?_⟩
  · rw [State.cachedLoad_eq hn hk, Core.copyFor_of hcopy, Core.lookup_copy hb hw] at hexec
    exact ⟨_, hexec, (loaded_okay o a _).2, (loaded_okay o a _).1⟩
  · rw [State.cachedLoad_eq hn hk, Core.lookup_buffered hb he] at hexec
    exact ⟨_, hexec, (loaded_okay o a _).2, (loaded_okay o a _).1⟩
  · obtain ⟨z, hz, hzz⟩ := State.refuse_kept (s := s) (u := s.setMyCore
      { s.myCore.clearAbsent s.cur.2 (lineKey s.myCore.dom a) ((if ldk then Want.ldk else .ld) == .pfx) with
        lineReqs := [s.lineReq a (if ldk then .ldk else .ld)] }) hp
      (by rw [State.me_setMyCore]; exact harmed) (show o.nra ≠ .branch by rw [hnra]; decide) 1 0 o.tgt
      (.line (lineKey s.myCore.dom a))
    obtain ⟨hoc, hnrip, hreg, -⟩ := Ctx.of_unready hzz
    rw [State.cachedLoad_requests hn hk hb hc hab hl hd, hz] at hexec
    refine ⟨_, s.lineReq a (if ldk then .ldk else .ld), hexec, ?_⟩
    rw [State.me_setMe, State.myCore_setMe, State.myCore_setMyCore, hoc, hnrip]
    refine ⟨rfl, rfl, rfl, rfl, rfl, rfl, rfl, fun g => ?_⟩
    rw [hreg, State.me_setMyCore]
    rfl

/-! ### The store buffer (R109, R266, R272) -/

/-- The entry that a store adds to the buffer. -/
noncomputable def State.storeEntry (s : State) (a data : Word) (bm fe : Nat) (nib : Option Bool) : SEntry :=
  { seq := s.myCore.seq, va := a, data := data, bmask := bm, fe := fe, ip := s.ip, gen := s.me.gen.toNat, ctx := s.cur.2
    state := 1, dom := s.myCore.dom, cls := s.me.top2, nib := nib, ticks := s.ticks }

/-- The core with one more buffered store. -/
noncomputable def Core.buffering (c : Core) (e : SEntry) : Core := { c with sbuf := c.sbuf ++ [e], seq := (c.seq + 1) % 2 ^ 32 }

theorem State.bufferStore_full {s : State} {a : Word} (hk : s.vaLocked (wordAddr a) 8 = false)
    (h : 64 ≤ s.myCore.sbuf.length) (nra : Nra) (tgt : BitVec 32) (data : Word) (bm fe : Nat) (nib : Option Bool)
    (done : State → State) : s.bufferStore nra tgt a data bm fe nib done = s.busy s 6 nra tgt := by
  simp only [State.bufferStore, hk, Bool.false_eq_true, if_false, h, if_true]

theorem State.bufferStore_room {s : State} {a : Word} (hk : s.vaLocked (wordAddr a) 8 = false)
    (h : s.myCore.sbuf.length < 64) (nra : Nra) (tgt : BitVec 32) (data : Word) (bm fe : Nat) (nib : Option Bool)
    (done : State → State) : s.bufferStore nra tgt a data bm fe nib done =
      done (s.setMyCore (s.myCore.buffering (s.storeEntry a data bm fe nib))) := by
  simp only [State.bufferStore, hk, Bool.false_eq_true, if_false, Nat.not_le.mpr h]
  rfl

theorem State.setMyCore_setMyCore (s : State) (c d : Core) : (s.setMyCore c).setMyCore d = s.setMyCore d :=
  s.setCore_setCore _ _ _

/-- A core as ACQ of its context leaves it. -/
noncomputable def State.acquired (s : State) (c : Core) : Core :=
  { c.acquire s.cur.2 with kcache := (c.acquire s.cur.2).kcache.filter fun e => s.wordNow e.1 == some e.2.v }

theorem State.acquire_eq (s : State) : s.acquire = s.setMyCore (s.acquired s.myCore) := rfl

theorem State.acquired_setMyCore (s : State) (c d : Core) : (s.setMyCore d).acquired c = s.acquired c := rfl

theorem State.ctxs_acquired (s : State) (c : Core) : (s.acquired c).ctxs = c.ctxs := rfl

theorem State.ctx_acquired (s : State) (c : Core) (k : Nat) : (s.acquired c).ctx k = c.ctx k := by
  rw [Core.ctx, State.ctxs_acquired, Core.ctx]

theorem State.acquired_buffering (s : State) (c : Core) (e : SEntry) : s.acquired (c.buffering e) =
    { s.acquired c with sbuf := c.sbuf ++ [e], seq := (c.seq + 1) % 2 ^ 32 } := rfl

/-- ACQ does not look at the store buffer. -/
theorem State.after_buffering (s : State) (e : SEntry) (r : Ord) : (s.setMyCore (s.myCore.buffering e)).after r =
    (s.after r).setMyCore { (s.after r).myCore with sbuf := s.myCore.sbuf ++ [e], seq := (s.myCore.seq + 1) % 2 ^ 32 } := by
  unfold State.after
  split
  · rw [State.acquire_eq, State.acquire_eq, State.myCore_setMyCore, State.setMyCore_setMyCore, State.myCore_setMyCore,
      State.setMyCore_setMyCore, State.acquired_setMyCore]
    exact congrArg _ (State.acquired_buffering _ _ _)
  · rfl

theorem State.me_after (s : State) (r : Ord) : (s.after r).me = s.me := by
  unfold State.after
  split
  · rw [State.acquire_eq, State.me_setMyCore, State.ctx_acquired]
    rfl
  · rfl

/-- What a store leaves when it retires into the buffer. -/
theorem buffered_okay {s u : State} {e : SEntry} {r : Ord} (hu : u = (s.setMyCore (s.myCore.buffering e)).after r) :
    Writes s (s.okay u) s.me (.ok false) 0 0 ∧ (s.okay u).myCore.sbuf = s.myCore.sbuf ++ [e] ∧
    (s.okay u).myCore.seq = (s.myCore.seq + 1) % 2 ^ 32 ∧
    Alone ((s.after r).setMyCore { (s.after r).myCore with
      sbuf := (s.okay u).myCore.sbuf, seq := (s.okay u).myCore.seq }) (s.okay u) := by
  have hme : u.me = s.me := by
    rw [hu, State.me_after, State.me_setMyCore]
    rfl
  have hpair : u.pair = s.pair := by rw [hu, State.pair_after]; rfl
  obtain ⟨hw, ha⟩ := writes_okay (s := s) false (hme ▸ HasMe.refl u) hpair (.refl _)
  have hcur : (s.okay u).cur = s.cur := by
    rw [State.okay, ha.machine, hu]
    unfold State.after
    split <;> rfl
  have hcore : u.core s.cur.1 = { (s.after r).myCore with
      sbuf := s.myCore.sbuf ++ [e], seq := (s.myCore.seq + 1) % 2 ^ 32 } := by
    have hc : (s.after r).cur = s.cur := by
      unfold State.after
      split <;> rfl
    rw [hu, State.after_buffering, State.setMyCore, hc, State.core_setCore_self]
  have hsbuf : (s.okay u).myCore.sbuf = s.myCore.sbuf ++ [e] := by
    have h := congrArg Core.sbuf (ha.cores s.cur.1)
    rw [State.myCore, hcur]
    exact h.trans (congrArg Core.sbuf hcore)
  have hseq : (s.okay u).myCore.seq = (s.myCore.seq + 1) % 2 ^ 32 := by
    have h := congrArg Core.seq (ha.cores s.cur.1)
    rw [State.myCore, hcur]
    exact h.trans (congrArg Core.seq hcore)
  refine ⟨hw, hsbuf, hseq, ?_⟩
  rw [hsbuf, hseq, ← State.after_buffering, ← hu]
  exact ha

theorem exec_st {o : MOp} {s : State} (hg : s.guard o.grd = true) : execSt o s = .next
    (s.access (s.ea o) (elemUse o rW true) fun
      | .own off => s.ownLs o.nra o.tgt off (elemBytes o.ty) (.store o.ty o.v0 (s.G o.d)) fun s1 _ => s.okay s1
      | .other r off => s.exchange o (s.ea o) true (.store o.ty o.v0 (s.G o.d))
          (fun s1 => s1.sendMsg r (.access (.store o.ty o.v0 (s.G o.d)) off false)) fun s1 _ => s.okay s1
      | .weight _ => s.check 6 (s.ea o)
      | _ => s.bufferStore o.nra o.tgt (s.ea o) (s.storeParts o (s.ea o) (s.G o.d)).1
          (s.storeParts o (s.ea o) (s.G o.d)).2.1 0 (s.storeParts o (s.ea o) (s.G o.d)).2.2 s.okay) := guarded_true hg _

theorem exec_st_buffers {o : MOp} {s : State} {p : Place} (hg : s.guard o.grd = true)
    (hpl : s.placeOf (s.ea o) (elemUse o rW true) = .ok p) (hp : p = .home ∨ p = .fabric) : exec (.st o) s = .next
      (s.bufferStore o.nra o.tgt (s.ea o) (s.storeParts o (s.ea o) (s.G o.d)).1
        (s.storeParts o (s.ea o) (s.G o.d)).2.1 0 (s.storeParts o (s.ea o) (s.G o.d)).2.2 s.okay) := by
  refine (exec_st hg).trans (congrArg _ ((State.access_ok hpl _).trans ?_))
  rcases hp with rfl | rfl
  · rfl
  · rfl

theorem setForm_buffers {o : MOp} {s : State} {p : Place} (hpl : s.placeOf (s.ea o) (feUse true) = .ok p)
    (hp : p = .home ∨ p = .fabric) (hr : s.relDue o = false) (op : HomeOp) (data : Word) (bm fe : Nat) :
    s.setForm o op data bm fe =
      s.bufferStore o.nra o.tgt (s.ea o) data bm fe none (fun s1 => s.okay (s1.after o.ord)) := by
  rw [State.setForm, State.access_fe hpl]
  rcases hp with rfl | rfl
  · simp only [hr, Bool.false_eq_true, if_false]
    rfl
  · simp only [hr, Bool.false_eq_true, if_false]
    rfl

theorem fld_setFld (x lo n v : Nat) : fld (setFld x lo n v) lo n = v % 2 ^ n := by
  apply Nat.eq_of_testBit_eq
  intro j
  rw [testBit_fld, testBit_setFld, Nat.testBit_mod_two_pow]
  by_cases hj : j < n
  · rw [if_pos (by omega), Nat.add_sub_cancel_left]
  · simp [hj]

theorem elemBit_fit (t : Ty) (hi : Bool) {a : Nat} (ha : a % elemBytes t = 0) : elemBit t hi a + t.width ≤ 64 := by
  have hfit := Ty.elemBytes_fit t ha
  by_cases h4 : t.width = 4
  · simp only [elemBit, h4]
    split <;> omega
  · have hw := Ty.elemBytes_bits t h4
    simp only [elemBit, h4, decide_false, Bool.false_and, Bool.false_eq_true, if_false]
    omega

/-- The element of a word after it was put there. -/
theorem getElem_putElem (w : Word) (t : Ty) (hi : Bool) (a v : Nat) (ha : a % elemBytes t = 0) :
    getElem (putElem w t hi (a % 8) v) t hi a = v % 2 ^ t.width := by
  have hbit : elemBit t hi (a % 8) = elemBit t hi a := by rw [elemBit, elemBit, Nat.mod_mod]
  rw [getElem, putElem, BitVec.toNat_ofNat, fld_mod (elemBit_fit t hi ha), hbit, fld_setFld]

/-- Only an element of half a byte has a higher and a lower place in its byte. -/
theorem getElem_whole (w : Word) {t : Ty} (h : t.width ≠ 4) (hi hi' : Bool) (a : Nat) :
    getElem w t hi a = getElem w t hi' a := by simp [getElem, elemBit, h]

theorem storeParts_spec (s : State) (o : MOp) (a v : Word) (ha : a.toNat % elemBytes o.ty = 0) :
    getElem (s.storeParts o a v).1 o.ty o.v0 a.toNat =
        (if o.ty = .l6 then v.toNat % 64 else v.toNat % 2 ^ o.ty.width) ∧
      (s.storeParts o a v).2.1 = (2 ^ elemBytes o.ty - 1) * 2 ^ (a.toNat % 8) := by
  have hval : (if o.ty = .l6 then v.toNat % 64 else v.toNat) % 2 ^ o.ty.width =
      if o.ty = .l6 then v.toNat % 64 else v.toNat % 2 ^ o.ty.width := by
    split
    · next h =>
      rw [h]
      exact Nat.mod_eq_of_lt (lt_of_lt_of_le (Nat.mod_lt _ (by decide)) (by decide))
    · rfl
  unfold State.storeParts
  dsimp only
  by_cases h4 : o.ty.width = 4
  · have h1 : elemBytes o.ty = 1 := by rw [elemBytes, h4]; rfl
    rw [if_pos h4, h1]
    split
    · exact ⟨(getElem_putElem _ _ _ _ _ ha).trans hval, by simp⟩
    · exact ⟨(getElem_putElem _ _ _ _ _ ha).trans hval, by simp⟩
  · rw [if_neg h4]
    exact ⟨((getElem_whole _ h4 _ false _).trans (getElem_putElem _ _ _ _ _ ha)).trans hval, rfl⟩

/-- A place was found only where the address is aligned. -/
theorem State.placeOf_aligned {s : State} {a : Word} {u : Use} {p : Place} (h : s.placeOf a u = .ok p) :
    a.toNat % u.align = 0 := by
  by_contra hne
  rw [State.placeOf, if_pos hne] at h
  cases h

/-- Settles O25: the store is one entry of the buffer, or BUSY (6). -/
theorem bufferedStores : Obligations.BufferedStores := by
  intro o s i u p fe hi hg _ a c hpl hp hfe hk
  have hstore : ∃ (data : Word) (bm : Nat) (nib : Option Bool) (r : Ord), exec i s = .next
      (s.bufferStore o.nra o.tgt a data bm fe nib (fun s1 => s.okay (s1.after r))) ∧
      s.after r = (if fe = 0 then s else s.after o.ord) ∧
      (fe = 0 → getElem data o.ty o.v0 a.toNat =
          (if o.ty = .l6 then (s.G o.d).toNat % 64 else (s.G o.d).toNat % 2 ^ o.ty.width) ∧
        bm = (2 ^ elemBytes o.ty - 1) * 2 ^ (a.toNat % 8)) ∧
      (fe = 1 → data = s.G o.d ∧ bm = 255) ∧ (fe = 2 → bm = 0) := by
    rcases hi with ⟨rfl, rfl, rfl⟩ | ⟨rfl, rfl, rfl⟩ | ⟨rfl, rfl, rfl⟩
    · exact ⟨_, _, _, .none, exec_st_buffers hg hpl hp, rfl, fun _ => storeParts_spec s o _ _ (State.placeOf_aligned hpl),
        fun h => absurd h (by decide), fun h => absurd h (by decide)⟩
    · have hr := hfe.resolve_left (by decide)
      exact ⟨s.G o.d, 255, none, o.ord, (guarded_true hg _ : execSte o s = _).trans
        (congrArg _ (setForm_buffers hpl hp hr _ _ _ _)), rfl, fun h => absurd h (by decide),
        fun _ => ⟨rfl, rfl⟩, fun h => absurd h (by decide)⟩
    · have hr := hfe.resolve_left (by decide)
      exact ⟨0, 0, none, o.ord, (guarded_true hg _ : execFeset o s = _).trans
        (congrArg _ (setForm_buffers hpl hp hr _ _ _ _)), rfl, fun h => absurd h (by decide),
        fun h => absurd h (by decide), fun _ => rfl⟩
  obtain ⟨data, bm, nib, r, hexec, hafter, h0, h1, h2⟩ := hstore
  refine ⟨fun hl hn => ?_, fun hl => ?_⟩
  · rw [State.bufferStore_full hk hl] at hexec
    exact unready_of_busy hn hexec
  · rw [State.bufferStore_room hk hl] at hexec
    obtain ⟨hw, hsbuf, hseq, hal⟩ := buffered_okay (s := s) (e := s.storeEntry a data bm fe nib) (r := r) rfl
    rw [hafter] at hal
    exact ⟨_, s.storeEntry a data bm fe nib, hexec, hw, hsbuf, hseq, hal, rfl, rfl, rfl, rfl, rfl, rfl, rfl, rfl, rfl, h0, h1, h2⟩

/-! ### WLD (R269) -/

/-- Where WLD reads. -/
noncomputable def wldUse (size : Nat) : Use := { align := size, weight := true, need := rR }

theorem State.access_wld {s : State} {a : Word} {size : Nat} {p : Place} (h : s.placeOf a (wldUse size) = .ok p)
    (k : Place → State) : s.access a { align := size, weight := true, need := rR } k = k p := State.access_ok h k

/-- Whether a piece of work names the register `r`, of the kind of `d`. -/
noncomputable def names (d : Spec) (r : Nat) (w : Work) : Bool := if isV d then w.vregs.contains r else w.tregs.contains r

/-- What WLD copies. -/
noncomputable def State.weights (s : State) (o : MOp) (off : Nat) : PReg :=
  { v := s.rd (wsAddr (dieOf s.cur.1) off) (if isV o.d then 64 else 2048), tag := o.ty.tag
    sc := if isV o.d then 0 else scOne }

/-- WLD of a register of the context, from the weight store of its die. -/
theorem exec_wld {o : MOp} {s : State} {r off : Nat} (hg : s.guard o.grd = true) (hr : s.me.pool o.d = some r)
    (hp : s.placeOf (s.ea o) (wldUse (if isV o.d then 64 else 2048)) = .ok (.weight off)) : exec (.wld o) s = .next
      (if s.myCore.mats.any (names o.d r) then s.busy s 2 o.nra o.tgt
      else if s.myCore.sweeps.any (names o.d r) then s.busy s 3 o.nra o.tgt
      else if s.refreshing (off / 2 ^ 23) then s.busy s 5 o.nra o.tgt
      else match ((List.range ((if isV o.d then 64 else 2048) / 8)).map (8 * ·)).find? fun i =>
          s.isPoison (wsAddr (dieOf s.cur.1) off + i) with
        | some i => s.found s 0x0E (s.ea o + BitVec.ofNat 64 i)
        | none => s.okay (s.setMyCore (if isV o.d then
            { s.myCore with vregs := s.myCore.vregs.put r (s.weights o off) }
          else { s.myCore with tregs := s.myCore.tregs.put r (s.weights o off) }))) := by
  show execWld o s = _
  rw [execWld, guarded_true hg]
  simp only [hr, State.access_wld hp]
  rfl

/-- No poison in a block: none of its words is poisoned. -/
theorem find_poison_none {s : State} {a n : Nat} (h : ∀ i, i < n → s.isPoison (a + i) = false) :
    ((List.range (n / 8)).map (8 * ·)).find? (fun i => s.isPoison (a + i)) = none := by
  rw [List.find?_eq_none]
  intro i hi
  obtain ⟨j, hj, rfl⟩ := List.mem_map.mp hi
  have hlt := List.mem_range.mp hj
  rw [h _ (by omega)]
  exact Bool.false_ne_true

/-- What an instruction leaves that ends with OK and has changed its own core, but not the contexts of it. -/
theorem core_okay {s : State} {c : Core} (hc : ∀ k, c.ctx k = s.myCore.ctx k) :
    Writes s (s.okay (s.setMyCore c)) s.me (.ok false) 0 0 ∧ Alone (s.setMyCore c) (s.okay (s.setMyCore c)) := by
  have hme : (s.setMyCore c).me = s.me := by
    rw [State.me_setMyCore, hc]
    rfl
  exact writes_okay false (hme ▸ HasMe.refl (s.setMyCore c)) rfl (.refl _)

/-- A core after an instruction that ended with OK, beside its contexts. -/
theorem Alone.myCore {u t : State} (h : Alone u t) : { t.myCore with ctxs := [] } = { u.myCore with ctxs := [] } := by
  have hcur : t.cur = u.cur := by rw [h.machine]
  rw [State.myCore, State.myCore, hcur]
  exact h.cores _

theorem State.myCore_okay {s : State} {c : Core} (hc : ∀ k, c.ctx k = s.myCore.ctx k) :
    { (s.okay (s.setMyCore c)).myCore with ctxs := [] } = { c with ctxs := [] } := by
  rw [(core_okay hc).2.myCore, State.myCore_setMyCore]

/-- WLD once nothing keeps it out: the register holds the block, with its tag. -/
theorem wld_copies {o : MOp} {s : State} {r off : Nat} (hg : s.guard o.grd = true) (hr : s.me.pool o.d = some r)
    (hp : s.placeOf (s.ea o) (wldUse (if isV o.d then 64 else 2048)) = .ok (.weight off))
    (hm : s.myCore.mats.any (names o.d r) = false) (hs : s.myCore.sweeps.any (names o.d r) = false)
    (hf : s.refreshing (off / 2 ^ 23) = false)
    (hpo : ∀ i, i < (if isV o.d then 64 else 2048) → s.isPoison (wsAddr (dieOf s.cur.1) off + i) = false) :
    ∃ t, exec (.wld o) s = .next t ∧ Writes s t s.me (.ok false) 0 0 ∧
      (if isV o.d then
        t.myCore.vregs.get r {} = ⟨s.rd (wsAddr (dieOf s.cur.1) off) 64, o.ty.tag, 0⟩ ∧
        Alone (s.setMyCore { s.myCore with vregs := t.myCore.vregs }) t ∧
        ∀ q, q ≠ r → t.myCore.vregs.get q {} = s.myCore.vregs.get q {}
      else
        t.myCore.tregs.get r {} = ⟨s.rd (wsAddr (dieOf s.cur.1) off) 2048, o.ty.tag, scOne⟩ ∧
        Alone (s.setMyCore { s.myCore with tregs := t.myCore.tregs }) t ∧
        ∀ q, q ≠ r → t.myCore.tregs.get q {} = s.myCore.tregs.get q {}) := by
  have hexec := exec_wld hg hr hp
  rw [hm, hs, hf, find_poison_none hpo] at hexec
  by_cases hv : isV o.d = true
  · have hw : s.weights o off = ⟨s.rd (wsAddr (dieOf s.cur.1) off) 64, o.ty.tag, 0⟩ := by simp [State.weights, hv]
    simp only [hv, if_true, Bool.false_eq_true, if_false, hw] at hexec ⊢
    have hv' := congrArg Core.vregs (State.myCore_okay (s := s)
      (c := { s.myCore with vregs := s.myCore.vregs.put r ⟨s.rd (wsAddr (dieOf s.cur.1) off) 64, o.ty.tag, 0⟩ }) fun _ => rfl)
    dsimp only at hv'
    obtain ⟨hwr, hal⟩ := core_okay (s := s)
      (c := { s.myCore with vregs := s.myCore.vregs.put r ⟨s.rd (wsAddr (dieOf s.cur.1) off) 64, o.ty.tag, 0⟩ }) fun _ => rfl
    refine ⟨_, hexec, hwr, ?_⟩
    rw [hv']
    exact ⟨KMap.get_put_self _ _ _ _, hal, fun q hq => KMap.get_put_ne _ _ _ hq⟩
  · have hw : s.weights o off = ⟨s.rd (wsAddr (dieOf s.cur.1) off) 2048, o.ty.tag, scOne⟩ := by
      simp [State.weights, hv]
    simp only [hv, Bool.false_eq_true, if_false, hw] at hexec ⊢
    have hv' := congrArg Core.tregs (State.myCore_okay (s := s)
      (c := { s.myCore with tregs := s.myCore.tregs.put r ⟨s.rd (wsAddr (dieOf s.cur.1) off) 2048, o.ty.tag, scOne⟩ })
      fun _ => rfl)
    dsimp only at hv'
    obtain ⟨hwr, hal⟩ := core_okay (s := s)
      (c := { s.myCore with tregs := s.myCore.tregs.put r ⟨s.rd (wsAddr (dieOf s.cur.1) off) 2048, o.ty.tag, scOne⟩ })
      fun _ => rfl
    refine ⟨_, hexec, hwr, ?_⟩
    rw [hv']
    exact ⟨KMap.get_put_self _ _ _ _, hal, fun q hq => KMap.get_put_ne _ _ _ hq⟩

/-! ### PFX (R270) -/

/-- Where PFX may look. -/
noncomputable def pfxUse : Use :=
  { align := 8, own := true, other := true, host := true, device := true, weight := true, anyDie := true, fabric := true
    need := rR }

theorem exec_pfx {o : MOp} {s : State} {p : Place} (hg : s.guard o.grd = true) (hp : s.placeOf (s.ea o) pfxUse = .ok p) :
    exec (.pfx o) s = .next (match p with
      | .home =>
        if (s.myCore.noteAt s.cur.2 (lineKey s.myCore.dom (s.ea o))).isSome ||
            (List.range 8).all fun i => (s.myCore.dcache.find? (lineKey s.myCore.dom (s.ea o) * 8 + i)).isSome then s.okay s
        else match s.myCore.absents.find? fun e =>
            e.ctx == s.cur.2 && e.line == lineKey s.myCore.dom (s.ea o) && e.pfx && !e.failed with
          | some e => s.absent s e (s.ea o) o.nra o.tgt
          | none => if s.vaLocked (wordAddr (s.ea o)) 8 then s.busy s 4 o.nra o.tgt
            else match s.requestLine (s.ea o) .pfx with
            | some (s1, _) => s.okay s1
            | none => s.busy s 0 o.nra o.tgt
      | _ => s.okay s) := by
  show execPfx o s = _
  rw [execPfx, guarded_true hg]
  refine congrArg _ ((State.access_ok hp _).trans ?_)
  cases p with
  | home => rfl
  | own off => rfl
  | other r off => rfl
  | fabric => rfl
  | weight off => rfl

theorem okay_same (s : State) : Writes s (s.okay s) s.me (.ok false) 0 0 ∧ Alone s (s.okay s) :=
  writes_okay false (.refl s) rfl (.refl _)

/-- PFX of a line that its core neither holds nor has asked for. -/
theorem pfx_asks {o : MOp} {s : State} (hg : s.guard o.grd = true) (hp : s.placeOf (s.ea o) pfxUse = .ok .home)
    (hn : s.myCore.noteAt s.cur.2 (lineKey s.myCore.dom (s.ea o)) = none) (hd : s.myCore.dcache = [])
    (hab : ∀ e ∈ s.myCore.absents, ¬ (e.ctx = s.cur.2 ∧ e.line = lineKey s.myCore.dom (s.ea o)))
    (hk : s.vaLocked (wordAddr (s.ea o)) 8 = false) : exec (.pfx o) s = .next
      (match s.requestLine (s.ea o) .pfx with
        | some (s1, _) => s.okay s1
        | none => s.busy s 0 o.nra o.tgt) := by
  have hfind : (s.myCore.absents.find? fun e =>
      e.ctx == s.cur.2 && e.line == lineKey s.myCore.dom (s.ea o) && e.pfx && !e.failed) = none := by
    rw [List.find?_eq_none]
    intro e he h
    simp only [Bool.and_eq_true, beq_iff_eq] at h
    exact hab e he h.1.1
  have hall : ((List.range 8).all fun i =>
      (s.myCore.dcache.find? (lineKey s.myCore.dom (s.ea o) * 8 + i)).isSome) = false := by
    rw [hd]
    rfl
  rw [exec_pfx hg hp]
  simp only [hn, hall, hfind, hk, Option.isSome_none, Bool.or_self, Bool.false_eq_true, if_false]

/-- Settles O26: WLD looks at the accepted work and at the bank, PFX at the copies and at the requests of its core. -/
theorem weightLoadsAndPrefetch : Obligations.WeightLoadsAndPrefetch := by
  refine ⟨fun o s r off hg hr hp => ⟨fun hm hn => ?_, fun hm hs hn => ?_, fun hm hs => ⟨fun hf hn => ?_, fun hf hpo => ?_⟩⟩,
    fun o s p hg hp => ⟨fun h => ?_, fun hh hn hd hab hk hl => ⟨fun hdep => ?_, fun hdep hnra => ?_⟩⟩⟩
  · have hexec := exec_wld hg hr hp
    rw [show s.myCore.mats.any (names o.d r) = true from hm, if_pos rfl] at hexec
    exact unready_of_busy hn hexec
  · have hexec := exec_wld hg hr hp
    rw [show s.myCore.mats.any (names o.d r) = false from hm, show s.myCore.sweeps.any (names o.d r) = true from hs] at hexec
    exact unready_of_busy hn hexec
  · have hexec := exec_wld hg hr hp
    rw [show s.myCore.mats.any (names o.d r) = false from hm, show s.myCore.sweeps.any (names o.d r) = false from hs,
      hf] at hexec
    exact unready_of_busy hn hexec
  · exact wld_copies hg hr hp hm hs hf hpo
  · refine ⟨_, (exec_pfx hg hp).trans ?_, okay_same s⟩
    cases p with
    | home =>
      have hall := h.resolve_left (fun h => h rfl)
      dsimp only
      rw [if_pos]
      rw [Bool.or_eq_true]
      exact .inr (List.all_eq_true.mpr fun i hi => hall i (List.mem_range.mp hi))
    | own off => rfl
    | other r off => rfl
    | fabric => rfl
    | weight off => rfl
  · subst hh
    rw [pfx_asks hg hp hn hd hab hk, State.requestLine_first hl hdep]
    have hc := State.myCore_okay (s := s) (c := { s.myCore.clearAbsent s.cur.2 (lineKey s.myCore.dom (s.ea o)) true with
      lineReqs := [s.lineReq (s.ea o) .pfx] }) fun _ => rfl
    obtain ⟨hwr, hal⟩ := core_okay (s := s) (c := { s.myCore.clearAbsent s.cur.2 (lineKey s.myCore.dom (s.ea o)) true with
      lineReqs := [s.lineReq (s.ea o) .pfx] }) fun _ => rfl
    have hlr := congrArg Core.lineReqs hc
    have hmem := congrArg State.mem hal.machine
    exact ⟨_, s.lineReq (s.ea o) .pfx, rfl, hwr, hlr, rfl, rfl, rfl, hmem⟩
  · subst hh
    refine unready_of_busy (tgt := o.tgt) hnra ((pfx_asks hg hp hn hd hab hk).trans ?_)
    have hnone : s.requestLine (s.ea o) .pfx = none := by
      have hl' : s.myCore.lineReqs = [] := hl
      simp [State.requestLine, hl', hdep]
    rw [hnone]

/-! ### ACQ, REL and FENCE (R163–R165, R276–R278) -/

theorem exec_acq {o : ROp} {s : State} (hg : s.guard o.grd = true) : exec (.acq o) s = .next (s.retire s.acquire.dirty) := by
  show execAcq o s = _
  rw [execAcq, guarded_true hg]

theorem exec_rel {o : MOp} {s : State} (hg : s.guard o.grd = true) : exec (.rel o) s =
    .next (if s.relMet s.cur.1 s.cur.2 then s.okay s else s.busy s 11 o.nra o.tgt) := by
  show execRel o s = _
  rw [execRel, guarded_true hg]

theorem exec_fence {o : MOp} {s : State} (hg : s.guard o.grd = true) : exec (.fence o) s =
    .next (if s.fenceMet s.cur.1 s.cur.2 then s.okay s else s.busy s 11 o.nra o.tgt) := by
  show execFence o s = _
  rw [execFence, guarded_true hg]

/-- The end of a scalar instruction that has changed the machine beside its own context. -/
theorem retire_writes {s w u : State} {x : Ctx} (hu : HasMe w u x) (hp : w.pair = s.pair) (hx : x.SamePlace s.me) :
    Writes s (s.retire u) x .next 0 0 ∧ Alone w (s.retire u) := by
  cases hpair : s.pair with
  | none =>
    have hup : u.pair = none := hu.pair.trans (hp.trans hpair)
    rw [State.retire, State.finish_alone s hup, State.conclude, hu.me, hu.setMe]
    refine ⟨Writes.none ?_ ?_ ?_, Alone.of_setMe w _⟩
    · rw [State.me_setMe]
      exact ⟨rfl, rfl, rfl, rfl⟩
    · unfold Ended
      rw [hpair, State.me_setMe]
      exact ⟨hp.trans hpair, rfl, rfl, rfl, hx.oc, hx.count, hx.armed⟩
    · rw [State.me_setMe]
      rfl
  | some p =>
    have hup : u.pair = some p := hu.pair.trans (hp.trans hpair)
    have hme : ∀ q, ({ u with pair := q } : State).me = x := fun _ => hu.me
    rw [State.retire, State.finish_pair s hup]
    refine ⟨Writes.none ?_ ?_ ?_, hu.alone _⟩
    · rw [hme]
      exact ⟨rfl, rfl, rfl, rfl⟩
    · unfold Ended
      rw [hpair, hme]
      exact ⟨by rw [hu.ip_eq hp hx.ip], hx.ip, hx.retry, hx.front, hx.oc, hx.count, hx.armed⟩
    · rw [hme]

theorem State.me_acquire (s : State) : s.acquire.me = s.me := by
  rw [State.acquire_eq, State.me_setMyCore, State.ctx_acquired]
  rfl

/-- What ACQ leaves of a core: no copy that it does not own, nothing held for its context, and every request stale. -/
theorem State.acquired_spec (s : State) (c : Core) : (∀ e ∈ (s.acquired c).dcache, e.2.owned = true ∧ e ∈ c.dcache) ∧
    (∀ e ∈ c.dcache, e.2.owned = true → e ∈ (s.acquired c).dcache) ∧ (∀ h ∈ (s.acquired c).holds, h.ctx ≠ s.cur.2) ∧
    ∀ q ∈ (s.acquired c).lineReqs, q.stale = true := by
  refine ⟨fun e he => ?_, fun e he ho => ?_, fun h hh => ?_, fun q hq => ?_⟩
  · obtain ⟨hmem, ho⟩ := List.mem_filter.mp he
    exact ⟨ho, hmem⟩
  · exact List.mem_filter.mpr ⟨he, ho⟩
  · simpa using (List.mem_filter.mp hh).2
  · obtain ⟨r, -, rfl⟩ := List.mem_map.mp hq
    rfl

theorem relMet_iff (s : State) : s.relMet s.cur.1 s.cur.2 = true ↔
    (∀ e ∈ s.myCore.sbuf, ¬ (e.ctx = s.cur.2 ∧ e.gen = s.me.gen.toNat)) ∧
      ∀ sl, s.me.slot = some sl → sl.ans.isSome = true ∨ (s.replies.any (·.id == sl.id)) = true := by
  have hsb : (!(s.myCore.sbuf.any fun e => e.ctx == s.cur.2 && e.gen == s.me.gen.toNat)) = true ↔
      ∀ e ∈ s.myCore.sbuf, ¬ (e.ctx = s.cur.2 ∧ e.gen = s.me.gen.toNat) := by
    rw [Bool.not_eq_true', List.any_eq_false]
    simp only [Bool.and_eq_true, beq_iff_eq]
  rw [show s.relMet s.cur.1 s.cur.2 = (!(s.myCore.sbuf.any fun e => e.ctx == s.cur.2 && e.gen == s.me.gen.toNat) &&
    (match s.me.slot with
      | some sl => sl.ans.isSome || s.replies.any (·.id == sl.id)
      | none => true)) from rfl, Bool.and_eq_true, hsb]
  refine and_congr_right fun _ => ?_
  cases s.me.slot with
  | none => simp
  | some sl => simp

theorem fenceMet_iff (s : State) : s.fenceMet s.cur.1 s.cur.2 = true ↔
    ∀ m ∈ s.posted s.cur.1, ¬ (m.ctx = s.cur.2 ∧ m.gen = s.me.gen.toNat) := by
  rw [State.fenceMet, List.all_eq_true]
  simp only [Bool.not_eq_true', Bool.and_eq_false_iff, beq_eq_false_iff_ne, ne_eq, not_and_or]
  rfl

/-- Settles O27: ACQ by what it drops, REL and FENCE by what they wait for. -/
theorem acquireAndRelease : Obligations.AcquireAndRelease := by
  intro r o s
  refine ⟨fun hg => ?_, fun hg => ⟨fun hsb hsl => ?_, fun ⟨e, he, hc⟩ hn => ?_, fun hm => ?_, fun ⟨m, hm, hc⟩ hn => ?_⟩⟩
  · have hu : HasMe s.acquire s.acquire.dirty { s.me with mon := { s.me.mon with dirty := true } } := by
      rw [State.dirty, State.me_acquire]
      exact .of_setMe _ _
    obtain ⟨hw, hal⟩ := retire_writes (s := s) hu rfl ⟨rfl, rfl, rfl, rfl, rfl, rfl, rfl⟩
    obtain ⟨h1, h2, h3, h4⟩ := s.acquired_spec s.myCore
    have hcore : s.acquire.myCore = s.acquired s.myCore := by rw [State.acquire_eq, State.myCore_setMyCore]
    have hd := congrArg Core.dcache hal.myCore
    have hh := congrArg Core.holds hal.myCore
    have hl := congrArg Core.lineReqs hal.myCore
    rw [hcore] at hd hh hl
    dsimp only at hd hh hl
    refine ⟨_, exec_acq hg, hw.of_dirty, hal, ?_, ?_, ?_, ?_⟩
    · rw [hd]
      exact h1
    · rw [hd]
      exact h2
    · rw [hh]
      exact h3
    · rw [hl]
      exact h4
  · refine ⟨_, (exec_rel hg).trans (congrArg _ (if_pos ((relMet_iff s).mpr ⟨hsb, ?_⟩))), okay_same s⟩
    intro sl h
    rw [hsl] at h
    cases h
  · exact unready_of_busy hn ((exec_rel hg).trans (congrArg _ (if_neg fun h => ((relMet_iff s).mp h).1 e he hc)))
  · exact ⟨_, (exec_fence hg).trans (congrArg _ (if_pos ((fenceMet_iff s).mpr hm))), okay_same s⟩
  · exact unready_of_busy hn ((exec_fence hg).trans (congrArg _ (if_neg fun h => (fenceMet_iff s).mp h m hm hc)))

/-! ### PARK (R253) -/

/-- Where PARK may look. -/
noncomputable def parkUse : Use := { align := 8, own := true, other := true, host := true, device := true, need := rR }

/-- The place of an address does not depend on the contexts of the core. -/
theorem State.placeOf_setMe (s : State) (x : Ctx) (a : Word) (u : Use) : (s.setMe x).placeOf a u = s.placeOf a u := by
  have hteam : (s.setMe x).teamSize s.cur.1 = s.teamSize s.cur.1 := by
    have h : ((s.setMe x).core s.cur.1).team = (s.core s.cur.1).team := by
      rw [show (s.setMe x).core s.cur.1 = (s.setMe x).myCore from rfl, State.myCore_setMe]
      rfl
    rw [State.teamSize, State.teamSize, State.teamOf, State.teamOf, h]
    rfl
  have hrank : (s.setMe x).myCore.rank = s.myCore.rank := by rw [State.myCore_setMe]; rfl
  have hallow : ∀ n, (s.setMe x).myCore.allowed a n = s.myCore.allowed a n := fun n => by
    rw [State.myCore_setMe]
    rfl
  simp only [State.placeOf, hteam, hrank, hallow, State.setMe_cur]

theorem exec_park {o : ROp} {s : State} {p : Place} (hg : s.guard o.grd = true)
    (hp : s.placeOf (s.G o.a) parkUse = .ok p) : exec (.park o) s = .next (match p with
      | .own off =>
        if s.dirty.lsLocked off 8 then s.dirty.parkCtx s.cur.1 s.cur.2 .parkLock
        else match s.dirty.lsOp s.cur.1 off (.park (s.G o.b)) with
        | (s1, .ok _) => s.dirty.retire s1
        | (s1, .poisoned) => s.dirty.found s1 0x0E (BitVec.ofNat 64 off)
        | (s1, .unready) =>
          (s1.addLsWatch s.cur.1 { word := lsWord s.cur.1 off, want := none, changing := false, pid := s.cur.1
                                   ctx := s.cur.2, gen := s.dirty.me.gen.toNat } false).1.parkCtx s.cur.1 s.cur.2
            (.parkWatch (lineKey 0 (ownVa s.dirty.myCore.rank off)) (fld (s.G o.c).toNat 0 32))
      | .other r off => (s.dirty.sendMsg r (.parkCheck off (s.G o.b))).askPark (fld (s.G o.c).toNat 0 32)
      | _ =>
        if s.dirty.vaLocked (s.G o.a) 8 then s.dirty.parkCtx s.cur.1 s.cur.2 .parkLock
        else (s.dirty.sendHome (s.G o.a) (.park (s.G o.b)) true).askPark (fld (s.G o.c).toNat 0 32)) := by
  show execPark o s = _
  rw [execPark, guarded_true hg]
  refine congrArg _ ((State.access_ok ((State.placeOf_setMe s _ _ _).trans hp) _).trans ?_)
  cases p with
  | own off => rfl
  | other r off => rfl
  | home => rfl
  | fabric => rfl
  | weight off => rfl

/-- A word operation that leaves the word and its bits. -/
theorem State.lsOp_same {s : State} {p off : Nat} {op : HomeOp} {r : Res}
    (h : opEval op (off % 8) (BitVec.ofNat 64 (s.rd (lsAddr p off / 8 * 8) 8)) (s.isFull (lsAddr p off / 8 * 8))
      (s.isPoison (lsAddr p off / 8 * 8)) = ⟨r, BitVec.ofNat 64 (s.rd (lsAddr p off / 8 * 8) 8),
        s.isFull (lsAddr p off / 8 * 8), s.isPoison (lsAddr p off / 8 * 8), false⟩) :
    s.lsOp p off op = (s, r) := by
  rw [State.lsOp, State.lsStep]
  simp [h, State.lsWake_still]

theorem lsAddr_word {p off : Nat} (h : off % 8 = 0) : lsAddr p off / 8 * 8 = lsAddr p off := by
  have := lsAddr_mod p off
  omega

/-- The check of PARK on an own word that is not poisoned. -/
theorem State.lsOp_park {s : State} {p off : Nat} (h8 : off % 8 = 0) (hp : s.isPoison (lsAddr p off) = false) (v : Word) :
    s.lsOp p off (.park v) = (s, if s.rd (lsAddr p off) 8 = v.toNat then .unready else .ok 0) := by
  have hword : BitVec.ofNat 64 (s.rd (lsAddr p off) 8) = v ↔ s.rd (lsAddr p off) 8 = v.toNat := by
    rw [← BitVec.toNat_inj, BitVec.toNat_ofNat, Nat.mod_eq_of_lt (show s.rd (lsAddr p off) 8 < 2 ^ 64 from Memory.readN_lt _ _ 8)]
  refine State.lsOp_same ?_
  rw [lsAddr_word h8]
  by_cases hv : s.rd (lsAddr p off) 8 = v.toNat
  · simp [opEval, hp, hv]
  · simp [opEval, hp, hword, hv]

theorem State.dirty_hasMe (s : State) : HasMe s s.dirty { s.me with mon := { s.me.mon with dirty := true } } :=
  .of_setMe s _

theorem State.parkCtx_eq (u : State) (on : WaitOn) : u.parkCtx u.cur.1 u.cur.2 on = u.setMe
    { u.me with wait := if on = .now then none else some ⟨on, u.myCore.cyc, u.ticks⟩, retry := u.me.retry && on.fetches } :=
  rfl

/-- A context that sends its check and waits for the answer. -/
theorem State.me_askPark (u : State) (T : Nat) : (u.askPark T).me.wait = some ⟨.parkAsk T, u.myCore.cyc, u.ticks⟩ ∧
    ∀ g, (u.askPark T).me.reg g = u.me.reg g := by
  have h : u.askPark T = ({ u with nextId := u.nextId + 1 } : State).setMe
      { u.me with rung := none, asked := some u.nextId, wait := some ⟨.parkAsk T, u.myCore.cyc, u.ticks⟩
                  retry := u.me.retry && (WaitOn.parkAsk T).fetches } :=
    State.parkCtx_setMe { u with nextId := u.nextId + 1 } _ _
  rw [h, State.me_setMe]
  exact ⟨rfl, fun g => Ctx.reg_congr rfl rfl rfl rfl g⟩

theorem State.reg_dirty (s : State) (g : Spec) : s.dirty.me.reg g = s.me.reg g := by
  rw [State.dirty_hasMe s |>.me]
  exact Ctx.reg_congr rfl rfl rfl rfl g

theorem State.cyc_dirty (s : State) : s.dirty.myCore.cyc = s.myCore.cyc := by
  rw [State.dirty, State.myCore_setMe]
  rfl

theorem State.rank_dirty (s : State) : s.dirty.myCore.rank = s.myCore.rank := by
  rw [State.dirty, State.myCore_setMe]
  rfl

theorem fld_low (x n : Nat) : fld x 0 n = x % 2 ^ n := by rw [fld, Nat.pow_zero, Nat.div_one]

/-- PARK at a home: its check is sent. -/
theorem park_home {o : ROp} {s : State} (hk : s.vaLocked (s.G o.a) 8 = false) (h : exec (.park o) s = .next
      (if s.dirty.vaLocked (s.G o.a) 8 then s.dirty.parkCtx s.cur.1 s.cur.2 .parkLock
      else (s.dirty.sendHome (s.G o.a) (.park (s.G o.b)) true).askPark (fld (s.G o.c).toNat 0 32))) :
    ∃ t q, exec (.park o) s = .next t ∧ t.homeReqs = s.homeReqs ++ [q] ∧ q.op = .park (s.G o.b) ∧ q.va = s.G o.a ∧
      q.ctx = s.cur.2 ∧ t.mem = s.mem ∧ t.me.wait = some ⟨.parkAsk ((s.G o.c).toNat % 2 ^ 32), s.myCore.cyc, s.ticks⟩ ∧
      ∀ g, t.me.reg g = s.me.reg g := by
  have hk' : s.dirty.vaLocked (s.G o.a) 8 = false := by
    rw [State.vaLocked, State.dirty, State.myCore_setMe]
    exact hk
  rw [hk', if_neg Bool.false_ne_true, fld_low] at h
  obtain ⟨hw, hr⟩ := (s.dirty.sendHome (s.G o.a) (.park (s.G o.b)) true).me_askPark ((s.G o.c).toNat % 2 ^ 32)
  refine ⟨_, s.dirty.homeReq (s.G o.a) (.park (s.G o.b)) true, h, rfl, rfl, rfl, rfl, rfl, hw.trans ?_,
    fun g => (hr g).trans (s.reg_dirty g)⟩
  have hcyc : (s.dirty.sendHome (s.G o.a) (.park (s.G o.b)) true).myCore.cyc = s.myCore.cyc := s.cyc_dirty
  rw [hcyc]
  rfl

theorem State.msgs_askPark (u : State) (T : Nat) : (u.askPark T).msgs = u.msgs := rfl

theorem State.mem_askPark (u : State) (T : Nat) : (u.askPark T).mem = u.mem := rfl

theorem State.cyc_sendMsg (s : State) (r : Nat) (k : MsgKind) : (s.sendMsg r k).myCore.cyc = s.myCore.cyc := by
  have h : (s.sendMsg r k).myCore = _ := State.myCore_setMyCore s _
  rw [h]

/-- PARK on a word of another core: its check is sent. -/
theorem park_other {o : ROp} {s : State} {r off : Nat} (h : exec (.park o) s = .next
      ((s.dirty.sendMsg r (.parkCheck off (s.G o.b))).askPark (fld (s.G o.c).toNat 0 32))) :
    ∃ t m, exec (.park o) s = .next t ∧ t.msgs = s.msgs ++ [m] ∧ m.kind = .parkCheck off (s.G o.b) ∧ m.rank = r ∧
      m.ctx = s.cur.2 ∧ t.mem = s.mem ∧ t.me.wait = some ⟨.parkAsk ((s.G o.c).toNat % 2 ^ 32), s.myCore.cyc, s.ticks⟩ ∧
      ∀ g, t.me.reg g = s.me.reg g := by
  rw [fld_low] at h
  obtain ⟨hw, hr⟩ := (s.dirty.sendMsg r (.parkCheck off (s.G o.b))).me_askPark ((s.G o.c).toNat % 2 ^ 32)
  have hcyc := (State.cyc_sendMsg s.dirty r (.parkCheck off (s.G o.b))).trans s.cyc_dirty
  have hmsgs := (State.msgs_askPark _ ((s.G o.c).toNat % 2 ^ 32)).trans
    (State.msgs_sendMsg s.dirty r (.parkCheck off (s.G o.b)))
  have hmem := State.mem_askPark (s.dirty.sendMsg r (.parkCheck off (s.G o.b))) ((s.G o.c).toNat % 2 ^ 32)
  refine ⟨_, s.dirty.message r (.parkCheck off (s.G o.b)), h, hmsgs, rfl, rfl, rfl, hmem, hw.trans ?_,
    fun g => (hr g).trans ?_⟩
  · rw [hcyc]
    rfl
  · rw [State.me_sendMsg, State.reg_dirty]

/-- A watch of the own core goes to the end of its list. -/
theorem State.addLsWatch_own (s : State) {p : Nat} {w : Watch} (h : w.pid = p) :
    (s.addLsWatch p w false).1 = s.setCore p { s.core p with watches := (s.core p).watches ++ [w] } := by
  simp [State.addLsWatch, h]

/-- PARK on an own word: it goes on at once, or leaves its watch of the line and waits. -/
theorem park_own {o : ROp} {s : State} {off : Nat} (hg : s.guard o.grd = true)
    (hp : s.placeOf (s.G o.a) parkUse = .ok (.own off)) (hk : s.lsLocked off 8 = false)
    (hpo : s.isPoison (lsAddr s.cur.1 off) = false) : exec (.park o) s = .next
      (if s.rd (lsAddr s.cur.1 off) 8 = (s.G o.b).toNat then
        (s.dirty.addLsWatch s.cur.1 { word := lsWord s.cur.1 off, want := none, changing := false, pid := s.cur.1
                                      ctx := s.cur.2, gen := s.dirty.me.gen.toNat } false).1.parkCtx s.cur.1 s.cur.2
            (.parkWatch (lineKey 0 (ownVa s.dirty.myCore.rank off)) ((s.G o.c).toNat % 2 ^ 32))
      else s.dirty.retire s.dirty) := by
  have h8 : off % 8 = 0 := (State.placeOf_own hp (by decide)).2
  have hk' : s.dirty.lsLocked off 8 = false := by
    rw [State.lsLocked, State.dirty, State.myCore_setMe]
    exact hk
  rw [exec_park hg hp]
  dsimp only
  rw [hk', if_neg Bool.false_ne_true, State.lsOp_park (s := s.dirty) h8 hpo, fld_low]
  show _ = Host.Outcome.next (if s.dirty.rd (lsAddr s.cur.1 off) 8 = (s.G o.b).toNat then _ else _)
  by_cases hv : s.dirty.rd (lsAddr s.cur.1 off) 8 = (s.G o.b).toNat
  · rw [if_pos hv, if_pos hv]
  · rw [if_neg hv, if_neg hv]

/-- What the context leaves that waits on a line of its own local store. -/
theorem park_watches {i : Instr} {s : State} {w : Watch} {on : WaitOn} (hon : on ≠ .now) (h : exec i s = .next
      ((s.dirty.setCore s.cur.1 { s.dirty.core s.cur.1 with
        watches := (s.dirty.core s.cur.1).watches ++ [w] }).parkCtx s.cur.1 s.cur.2 on)) :
    ∃ t, exec i s = .next t ∧ t.me.wait = some ⟨on, s.myCore.cyc, s.ticks⟩ ∧ t.me.ip = s.me.ip ∧
      (∀ r, t.me.reg r = s.me.reg r) ∧ t.mem = s.mem ∧ t.myCore.watches = s.myCore.watches ++ [w] := by
  have hme : (s.dirty.setCore s.cur.1 { s.dirty.core s.cur.1 with
      watches := (s.dirty.core s.cur.1).watches ++ [w] }).me = { s.me with mon := { s.me.mon with dirty := true } } := by
    rw [← s.dirty_hasMe.me]
    exact State.me_setMyCore s.dirty _
  have hcore : (s.dirty.setCore s.cur.1 { s.dirty.core s.cur.1 with
      watches := (s.dirty.core s.cur.1).watches ++ [w] }).myCore =
      { s.myCore.setCtx s.cur.2 { s.me with mon := { s.me.mon with dirty := true } } with
        watches := s.myCore.watches ++ [w] } := by
    refine (State.myCore_setMyCore s.dirty _).trans ?_
    rw [show s.dirty.core s.cur.1 = s.dirty.myCore from rfl, State.dirty, State.myCore_setMe]
    rfl
  have hpark := State.parkCtx_eq (s.dirty.setCore s.cur.1 { s.dirty.core s.cur.1 with
    watches := (s.dirty.core s.cur.1).watches ++ [w] }) on
  rw [if_neg hon, hme] at hpark
  refine ⟨_, h.trans (congrArg _ hpark), ?_⟩
  rw [State.me_setMe, State.myCore_setMe, hcore]
  exact ⟨rfl, rfl, fun r => Ctx.reg_congr rfl rfl rfl rfl r, rfl, rfl⟩

/-- Settles O28: the place decides whether PARK looks itself, sends its check to a core, or to a home. -/
theorem parkForms : Obligations.ParkForms := by
  intro o s p hg hpair a v T hp
  have hexec := exec_park hg hp
  cases p with
  | weight off => exact fun hk => park_home hk hexec
  | fabric => exact fun hk => park_home hk hexec
  | home => exact fun hk => park_home hk hexec
  | other r off => exact park_other hexec
  | own off =>
    intro hk hpo
    have hown := park_own hg hp hk hpo
    refine ⟨fun hne => ?_, fun heq => ?_⟩
    · have hret : s.dirty.retire s.dirty = s.retire s.dirty := by
        rw [State.retire, State.retire, State.finish_alone s.dirty (show s.dirty.pair = none from hpair),
          State.finish_alone s (show s.dirty.pair = none from hpair)]
        simp only [State.conclude, s.dirty_hasMe.me]
      rw [if_neg hne, hret] at hown
      obtain ⟨hw, hal⟩ := retire_writes (s := s) s.dirty_hasMe rfl ⟨rfl, rfl, rfl, rfl, rfl, rfl, rfl⟩
      exact ⟨_, hown, hw.of_dirty, hal⟩
    · rw [if_pos heq, State.addLsWatch_own (p := s.cur.1) _ rfl, State.rank_dirty] at hown
      obtain ⟨t, ht, hw, hip, hr, hm, hws⟩ := park_watches (by simp) hown
      exact ⟨t, _, ht, hw, hip, hr, hm, hws, rfl, rfl, rfl, rfl, rfl⟩

end Sys2Proof.Machine
end

section
/-! Refutations about semaphores and the end of a core's work (R53, R286–R289, R300). -/

namespace Sys2Proof.Machine.Counter
open Sys2Proof Sys2Proof.Machine

/-- Context 1 stands in the list of semaphore 0, but waits on a line that its core has asked for. -/
noncomputable def misplaced : State :=
  { State.reset with
    cores := [(0, { ctxs := [(0, { live := true }), (1, { live := true, wait := some ⟨.parkWatch 0 0, 0, 0⟩ })]
                    semWait := [(0, [⟨some 1, 0, 1, false⟩])]
                    lineReqs := [{ line := 0, va := 0, dom := 0, waiters := [(2, .ld)] }] })] }

/-- Refutes O29: the signal wakes the context, and the wake makes a request of the core stale. -/
theorem not_semaphoreCounts : ¬ Obligations.SemaphoreCounts := by
  intro h
  obtain ⟨-, -, -, t, ht, -, -, -, hs, -⟩ := h signalOp misplaced (by decide) rfl (by decide)
  have hq : holdsAfter (exec (.sset signalOp) misplaced) stale = true := by decide +kernel
  have e : (t.core 0).lineReqs = misplaced.myCore.lineReqs := lineReqs_of_spared hs 0
  rw [holdsAfter_next ht, stale, e] at hq
  exact absurd hq (by decide)

/-- A guard that is always true, and no register. -/
noncomputable def plainOp : ROp :=
  { grd := ⟨false, 0⟩, ty := .n64, var := 0, d := 0, a := 0, b := 0, c := 0, sel := 0, sat := false, rm := 0 }

/-- A watch of core 0 stands in the directory with a place in a park heap, whose page is mapped by a table of two levels at
2^20; the entry of the leaf has never been used. -/
noncomputable def heaped : State :=
  { State.reset with
    cores := [(0, { ctxs := [(0, { live := true })] })]
    rootTable := 2 ^ 20
    mem := [(2 ^ 20, 0x01), (2 ^ 20 + 1, 0x20), (2 ^ 20 + 2, 0x10), (2 ^ 20 + 8192, 0x07)]
    frames := [(0, 5)]
    watches := [(0, [{ word := 0, want := none, changing := false, pid := 0, ctx := 0, gen := 0, heap := some 0 }])] }

/-- Refutes O32: DONE takes the watch from the heap, and that write marks the entry of its page. -/
theorem not_barrierAndDone : ¬ Obligations.BarrierAndDone := by
  intro h
  obtain ⟨-, hd⟩ := (h.2 signalOp plainOp heaped).2 (by decide)
  obtain ⟨t, ht, -, -, -, hm⟩ := hd (by decide) (by decide) (by decide)
  have hq : holdsAfter (exec (.doneI plainOp) heaped) (fun t => Memory.read t.mem (2 ^ 20 + 8193) == 3) = true := by decide +kernel
  rw [holdsAfter_next ht, hm] at hq
  exact absurd hq (by decide)

end Sys2Proof.Machine.Counter
end

section
/-! Refutations about system instructions, the events of a home and of an owner, and the work of the units. -/

namespace Sys2Proof.Machine.Counter
open Sys2Proof Sys2Proof.Machine

/-- CSRW of the budget register of zone 0. -/
noncomputable def budgetOp : IOp := { grd := ⟨false, 0⟩, ty := .n64, var := 0, d := 0, a := 1, imm := 0x450 }

/-- Core 0 is in system mode, zone 0 draws five units of its budget of ten, and the grant allows any budget. -/
noncomputable def drawing : State :=
  { State.reset with
    cores := [(0, { ctxs := [(0, { live := true, mode := true })] })]
    zones := [(0, { budget := 10, draw := 5 })]
    power := { grant := 10000 } }

/-- Refutes O39: a budget of zero, written below the draw of its zone, makes the zone spent, which its draw register shows. -/
theorem not_systemRegisters : ¬ Obligations.SystemRegisters := by
  intro h
  obtain ⟨-, -, -, hw⟩ := h budgetOp drawing (by decide) (by decide)
  obtain ⟨t, ht, -, -, -, -, -, -, hm, -⟩ := hw (.inl (by decide)) (.csrw budgetOp) (drawing.G 1) (by simp [budgetOp])
  have hq : holdsAfter (exec (.csrw budgetOp) drawing) (fun t => t.csr 0 0 0x460 != drawing.csr 0 0 0x460) = true := by
    decide +kernel
  rw [holdsAfter_next ht, bne_iff_ne] at hq
  exact hq (hm 0x460 (by decide) (by decide))

/-- A cached line of device memory, which stands at another address than its frame records. -/
noncomputable def misframed : Nat × Line :=
  (lineKey 0 0x8000000000000000, ⟨List.replicate 8 0, 255, 0, false, false, 2 ^ 30, 0⟩)

/-- Core 0 is in system mode; the page of the line is resident in a table of two levels at 2^20. -/
noncomputable def cached : State :=
  { State.reset with
    cores := [(0, { ctxs := [(0, { live := true, mode := true, g := [(1, 0x8000000000000000)] })] })]
    rootTable := 2 ^ 20
    mem := heaped.mem
    frames := [(0, 5)]
    lines := [misframed] }

/-- Refutes O41: INVL gives a line of a resident page the frame that its page has now. -/
theorem not_systemInstructions : ¬ Obligations.SystemInstructions := by
  intro h
  obtain ⟨-, -, hinv, -⟩ := (h { plainOp with a := 1 } budgetOp cached rfl).1 (by decide)
  obtain ⟨⟨t, ht, -, -, -, -, hl, -⟩, -⟩ := hinv (by decide) (by decide)
  have hq : holdsAfter (exec (.invl { plainOp with a := 1 }) cached) (fun t => !t.lines.contains misframed) = true := by
    decide +kernel
  rw [holdsAfter_next ht] at hq
  simp [hl misframed (by decide) (by decide +kernel)] at hq

/-- RSTA.i64 of one, from an address of host memory that is no multiple of eight. -/
noncomputable def straddling : HomeReq :=
  { id := 0, pid := 0, ctx := 0, gen := 0, dom := 0, va := 4, op := .rsta .i64 1, park := false, front := false, seq := 0
    ticks := 0 }

/-- The line of zeros that its home holds. -/
noncomputable def zeroLine : Line := ⟨List.replicate 8 0, 255, 0, false, false, hostBase, 0⟩

/-- The request waits at its home, whose translation is at hand. -/
noncomputable def asked : State :=
  { State.reset with
    homeReqs := [straddling]
    xlates := [(pageKey 0 4, ⟨hostBase, 31, 0, true⟩)]
    lines := [(lineKey 0 4, zeroLine)] }

/-- Refutes O45: one is added at the offset of the address in its word, which is not the word plus one. -/
theorem not_homeEvents : ¬ Obligations.HomeEvents := by
  intro h
  obtain ⟨-, -, hreq, -⟩ := h 0 asked
  obtain ⟨t, l', m, -, -, hw, -, -, -, -, -, -, -, -, -, -, hadd, -⟩ := hreq straddling (.nearCacheAdd 0) (hostBase + 4)
    zeroLine (.inr (.inr ⟨rfl, rfl⟩)) rfl rfl (by decide) (by decide) (by decide +kernel) (by decide) rfl
    ⟨⟨rfl, by decide⟩, fun hd => absurd hd (by decide)⟩
  obtain ⟨hone, -⟩ := (hadd (by decide)).1 1 rfl
  exact absurd (hw.symm.trans hone) (by decide)

/-- A message that signals semaphore 0 of rank 0 by nothing. -/
noncomputable def hollow : Msg :=
  { id := 0, kind := .signal 0 0, team := 0, pid := 0, ctx := 0, gen := 0, srank := 0, rank := 0, ip := 0, cls := 0 }

/-- Whether semaphore 0 of core 0 counts to 65535. -/
noncomputable def clamped (t : State) : Bool := (t.core 0).sems.get 0 0 == 65535

/-- Semaphore 0 of core 0 counts beyond 65535, and the message is the oldest to it. -/
noncomputable def overfull : State :=
  { State.reset with
    msgs := [hollow]
    teams := [(0, teamOfOne)]
    cores := [(0, { team := some 0, sems := [(0, 65536)] })] }

/-- Refutes O46: a signal by nothing lowers a count beyond 65535 to it. -/
theorem not_messageEvents : ¬ Obligations.MessageEvents := by
  intro h
  obtain ⟨-, -, hsig, -⟩ := h overfull 0 0 hollow (by decide) (by decide)
  obtain ⟨t, ht, -, -, hn, -⟩ := hsig 0 0 rfl (by decide) (by decide)
  have hq : holdsAfter (exec (.signalMessage 0) overfull) clamped = true := by decide +kernel
  rw [holdsAfter_next ht, clamped, hn] at hq
  exact absurd hq (by decide +kernel)

/-- A sweep that is performed and signals semaphore 0 by nothing. -/
noncomputable def done : Work :=
  { id := 0, instr := .nop, ctx := 0, gen := 0, ip := 0, cls := 0, d := 0, a := 0, b := 0, e := 0, a2 := 0, b2 := 0
    vbase := 0, tbase := 0, dom := 0, vregs := [], tregs := [], performed := true }

/-- Semaphore 0 of core 0 counts beyond 65535, and its oldest sweep is performed. -/
noncomputable def swept : State := { State.reset with cores := [(0, { sweeps := [done], sems := [(0, 65536)] })] }

/-- Refutes O49: the signal of the sweep, by nothing, lowers the count. -/
theorem not_workCompletes : ¬ Obligations.WorkCompletes := by
  intro h
  obtain ⟨-, hdone, -⟩ := (h 0 swept done []).1 (by decide +kernel)
  obtain ⟨t, ht, -, -, -, hn, -⟩ := hdone rfl (by decide +kernel)
  have hn : (t.core 0).sems.get 0 0 = 65536 := hn
  have hq : holdsAfter (exec (.sweepComplete 0) swept) clamped = true := by decide +kernel
  rw [holdsAfter_next ht, clamped, hn] at hq
  exact absurd hq (by decide +kernel)

/-- A record that copies on write: the block that word 0 of rank 0 names has one reference, and the copy would go to device
memory of this device, through its fabric window. -/
noncomputable def cowRun : Run :=
  { ws := [6, 0x9000000000000000, 0xB000000000000000, 7, 0, 0, 0, 0]
    rc := { va := 0, advanced := true, dom := 0, ctx := 0, gen := 0, ip := 0, cls := 0, seqs := [], ws := [] } }

/-- Chain 0 runs that record. The page of the destination is resident, and its entry has never been used. -/
noncomputable def looped : State :=
  { State.reset with
    teams := [(0, teamOfOne)]
    cores := [(0, { team := some 0, perms := [(0, ⟨31, BitVec.allOnes 64⟩)] })]
    chains := [(0, { team := some 0, run := some cowRun })]
    imports := [(0, 0x80000000001F0000)]
    rootTable := 2 ^ 20
    frames := heaped.frames
    mem := [(2 ^ 20, 0x01), (2 ^ 20 + 1, 0x20), (2 ^ 20 + 2, 0x10), (2 ^ 20 + 8192, 0xFF), (lsAddr 0 0 + 7, 0x90)] }

/-- Refutes O50: the destination is translated before the count is read, and its entry is marked as used. -/
theorem not_recordsRun : ¬ Obligations.RecordsRun := by
  intro h
  obtain ⟨-, -, hrun⟩ := h 0 looped
  obtain ⟨-, -, -, hcow⟩ := hrun cowRun (by decide +kernel)
  obtain ⟨hkeep, -⟩ := hcow rfl rfl rfl (by decide) 0 0 0 0 0 0 (by decide) (by decide) rfl (by decide +kernel) (by decide)
    (by decide) (by decide) (by decide) (by decide)
  obtain ⟨t, -, ht, hm, -⟩ := hkeep (by decide +kernel)
  have hq : holdsAfter (exec (.cowStep 0) looped) (fun t => Memory.read t.mem (2 ^ 20 + 8193) == 0) = false := by
    decide +kernel
  rw [holdsAfter_next ht, hm] at hq
  exact absurd hq (by decide +kernel)

/-- The record of the faults of queue 0 is cached as a line that stands where the table keeps the entry of its page. -/
noncomputable def mapped : Line := ⟨List.replicate 8 0, 255, 0, false, false, 2 ^ 20 + 8192, 0⟩

/-- The mailbox enables queue 0, whose descriptor and record of faults lie in one page. -/
noncomputable def enabling : State :=
  { State.reset with
    qdbase := 0x8000000000000000
    rootTable := 2 ^ 20
    mem := heaped.mem
    frames := heaped.frames
    xlates := [(pageKey 0 0x8000000000000000, ⟨0, 31, 2 ^ 20 + 8192, true⟩)]
    lines := [(lineKey 0 0x8000000000001000, mapped)]
    root := { mbBusy := true, mbPriv := true, mbOp := 4, mbArg := [(0, 0), (1, 1)] } }

/-- No queue is enabled. Eight at a time, for the sake of the evaluation. -/
theorem qState_enabling {r : Nat} (hr : r < 64) : enabling.qState r = 0 := by
  have h : ∀ j < 8, enabling.qState (8 * (r / 8) + j) = 0 := by
    have hk : r / 8 < 8 := Nat.div_lt_of_lt_mul hr
    interval_cases r / 8 <;> decide +kernel
  rw [← Nat.div_add_mod r 8]
  exact h _ (Nat.mod_lt _ (by decide))

theorem pasidClash_enabling : enabling.pasidClash 0 = false :=
  List.any_eq_false.2 fun r hr => by simp [qState_enabling (List.mem_range.1 hr)]

/-- What enabling queue 0 leads to, in a state that may. -/
theorem exec_enable {s : State} (hg : s.command 4 [0, 1] = fun k => k s) (h0 : s.qState 0 = 0)
    (hc : s.pasidClash 0 = false) :
    exec (.setQueueState 0 1) s = .next (((s.ownWrite (s.platVa 0x1000)
      (setFld ((s.rawRead (s.platVa 0x1000)).getD 0) 0 8 0)).setQState 0 1).mailbox 0) := by
  show Host.Outcome.next (s.command 4 [0, 1] _) = _
  rw [hg]
  simp [h0, hc]

/-- Refutes O57: the record of faults is cleared first; its line, now dirty, hides the entry of the page, and the state of
the queue finds no place. -/
theorem not_rootEvents : ¬ Obligations.RootEvents := by
  intro h
  obtain ⟨-, -, -, hqueue, -⟩ := h enabling
  obtain ⟨-, hset⟩ := hqueue 0 1
  have hargs : ∀ (j : Nat) (v : Word), ([0, 1] : List Word)[j]? = some v → enabling.root.mbArg.get j 0 = v
    | 0, _, rfl => rfl
    | 1, _, rfl => rfl
  obtain ⟨-, hlegal⟩ := hset ⟨⟨rfl, rfl, hargs⟩, rfl⟩
  obtain ⟨-, -, hclear⟩ := hlegal (by decide) (by decide)
  have hd : Noted enabling (enabling.descVa 0 5) := ⟨⟨_, rfl, rfl⟩, .inr (by decide +kernel)⟩
  obtain ⟨t, -, ht, -, hs, -⟩ := hclear 0x1000 (qState_enabling (by decide)) rfl pasidClash_enabling ⟨rfl, by decide⟩ hd
    ⟨⟨_, rfl, rfl⟩, .inl (by decide)⟩ (by decide) (by decide +kernel) (by decide +kernel)
  obtain ⟨l, hl, -⟩ := hs 40 _ (by decide +kernel) hd rfl (by decide +kernel)
  have hl : t.lines.find? (lineKey 0 (enabling.descVa 0 5)) = some l := hl
  have hnone : (((enabling.ownWrite (enabling.platVa 0x1000)
      (setFld ((enabling.rawRead (enabling.platVa 0x1000)).getD 0) 0 8 0)).setQState 0 1).mailbox 0).lines.find?
      (lineKey 0 (enabling.descVa 0 5)) = none := by
    decide +kernel
  rw [exec_enable rfl (qState_enabling (by decide)) pasidClash_enabling] at ht
  obtain rfl := Host.Outcome.next.inj ht
  rw [hnone] at hl
  cases hl

end Sys2Proof.Machine.Counter
end

section
/-! Exceptions: entry, TRAP and ERET (R439–R441, R444, R445, R490, R491, R495). -/

namespace Sys2Proof.Machine
open Sys2Proof

/-! ### Entry, and the failure of the team where there is none -/

/-- Without room at entry a spill is due, and it does not fit below the limit. -/
theorem Ctx.spill_full {x : Ctx} (h : ¬ x.entryRoom) : ∃ a, x.spillAt = some a ∧ x.wsl < a + 64 := by
  simp only [Ctx.entryRoom, not_or] at h
  obtain ⟨hdue, hfull⟩ := h
  exact ⟨x.wsp, by simp [Ctx.spillAt, show 5 < x.wbase + 3 - x.wlow by omega], by omega⟩

theorem State.deliver_failed {s : State} {p k : Nat} (tr : Trap) (tip : Word)
    (h : (s.core p).tvec = 0 ∨ ¬ (s.ctx p k).entryRoom) :
    s.deliver p k tr tip = s.failCore p tr.cause tr tip false := by
  by_cases hv : (s.core p).tvec = 0
  · simp [State.deliver, hv]
  · obtain ⟨a, hs, hfull⟩ := Ctx.spill_full (h.resolve_left hv)
    have hs' : ((s.core p).ctx k).spillAt = some a := hs
    have hfull' : ((s.core p).ctx k).wsl < a + 64 := hfull
    simp [State.deliver, hs', hfull']

theorem State.raise_system {s : State} {p k : Nat} (tr : Trap) (tip : Word) (h : (s.ctx p k).mode = true) :
    s.raise p k tr tip = s.failCore p tr.cause tr (tr.tip.getD tip) false := by
  simp [State.raise, h]

/-- Where a trap says that it returns is not part of what it brings to the handler. -/
theorem Entered.of_tip {s t : State} {p k : Nat} {tr : Trap} {tip : Word} (h : Entered s t p k tr tip)
    (there : Option Word) : Entered s t p k { tr with tip := there } tip :=
  ⟨h.frame, h.place, h.window, h.kept, h.others, h.cores, h.machine⟩

/-- A check that fails in a slot alone raises its trap there. -/
theorem State.check_alone {s : State} (cause : Nat) (info : Word) (hp : s.pair = none) :
    s.check cause info = s.raise s.cur.1 s.cur.2 { cause := cause, info := info } s.me.ip := by
  rw [State.check, State.finish_alone s hp]
  rfl

/-! ### TRAP -/

/-- What TRAP raises: its immediate, to return behind it. -/
noncomputable def trapOf (i : IOp) (ip : Word) : Trap :=
  { cause := 0x17, tip := some (nextIp ip), info := BitVec.ofNat 64 (i.imm.toNat % 65536) }

theorem exec_trap {s : State} {i : IOp} (hp : s.pair = none) (hg : s.guard i.grd = true) :
    exec (.trap i) s = .next (s.raise s.cur.1 s.cur.2 (trapOf i s.me.ip) s.me.ip) := by
  show execTrap i s = _
  rw [execTrap, guarded_true hg, State.finish_alone s hp, State.ip_alone hp]
  rfl

theorem exec_trap_user {s : State} {i : IOp} (hp : s.pair = none) (hg : s.guard i.grd = true) (hm : s.me.mode = false)
    (hv : s.myCore.tvec ≠ 0) (hroom : s.me.entryRoom) :
    exec (.trap i) s = .next (s.atHandler s.cur.1 s.cur.2 (trapOf i s.me.ip) (nextIp s.me.ip)) := by
  rw [exec_trap hp hg, State.raise, if_neg (by rw [show s.ctx s.cur.1 s.cur.2 = s.me from rfl, hm]; decide),
    State.deliver_eq_entered _ _ hv hroom]
  rfl

/-! ### ERET -/

/-- The context behind ERET. -/
noncomputable def Ctx.returned (x : Ctx) : Ctx := { x.eret with front := false, mon := { x.mon with dirty := true } }

/-- The window that a handler gives back is the one that it took. -/
theorem Ctx.reg_returned_entered (x : Ctx) (tr : Trap) (tip tvec : Word) (n : Nat) (r : Spec) :
    (x.entered tr tip tvec n).returned.reg r = x.reg r := by
  by_cases hw : 16 ≤ r.toNat ∧ r.toNat < 32
  · obtain ⟨h16, h32⟩ := hw
    have hbase : (x.entered tr tip tvec n).returned.wbase = x.wbase := rfl
    simp only [Ctx.reg, show r.toNat ≠ 0 by omega, show ¬ r.toNat < 16 by omega, h32, if_true, if_false, hbase]
    exact x.get_win_advance n (by omega)
  · have hs := x.reg_advance_shared n (r := r) (by omega)
    rw [← hs]
    by_cases hlow : r.toNat < 16
    · simp only [Ctx.reg, hlow, if_true]
      rfl
    · simp only [Ctx.reg, hlow, show ¬ r.toNat < 32 by omega, if_false]
      rfl

theorem exec_eret_user {s : State} {o : ROp} (hg : s.guard o.grd = true) (hm : s.me.mode = false) :
    exec (.eret o) s = .next (s.denied (.eret o)) := by
  show execEret o s = _
  rw [execEret, guarded_true hg]
  simp [hm]

theorem exec_eret_lost {s : State} {o : ROp} (hg : s.guard o.grd = true) (hm : s.me.mode = true)
    (hd : s.me.depth ≠ s.me.tdepth) :
    exec (.eret o) s = .next (({ s with free := s.free + 1 } : State).check 0x12 (Config.freeValue s.free)) := by
  show execEret o s = _
  rw [execEret, guarded_true hg]
  simp [hm, hd]

theorem exec_eret_bad {s : State} {o : ROp} (hg : s.guard o.grd = true) (hm : s.me.mode = true)
    (hd : s.me.depth = s.me.tdepth) (hip : ipOk s.me.tip = false) : exec (.eret o) s = .next (s.check 3 s.me.tip) := by
  show execEret o s = _
  rw [execEret, guarded_true hg]
  simp [hm, hd, hip]

theorem exec_eret {s : State} {o : ROp} (hg : s.guard o.grd = true) (hm : s.me.mode = true)
    (hd : s.me.depth = s.me.tdepth) (hip : ipOk s.me.tip = true) :
    exec (.eret o) s = .next (s.setMe s.me.returned) := by
  show execEret o s = _
  rw [execEret, guarded_true hg]
  simp only [hm, hd, hip, Bool.not_true, Bool.false_eq_true, ne_eq, not_true_eq_false, if_false]
  rfl

/-! ### ERET behind TRAP -/

theorem State.me_atHandler (s : State) (tr : Trap) (tip : Word) :
    (s.atHandler s.cur.1 s.cur.2 tr tip).me = s.me.entered tr tip s.myCore.tvec s.free :=
  s.ctx_atHandler _ _ tr tip

/-- A handler begins with the predicates of its context. -/
theorem State.guard_atHandler {s : State} (hp : s.pair = none) (tr : Trap) (tip : Word) (g : Guard) :
    (s.atHandler s.cur.1 s.cur.2 tr tip).guard g = s.guard g := by
  have ht : (s.atHandler s.cur.1 s.cur.2 tr tip).pair = none := hp
  rw [State.guard, State.guard, State.view_alone ht, State.view_alone hp, State.me_atHandler]
  obtain ⟨-, -, -, -, -, hshared⟩ := s.me.window_entered tr tip s.myCore.tvec s.free
  rw [hshared _ (.inr (by bv_omega))]

/-- The handler of a TRAP that ends in ERET goes on behind the TRAP, with every register as it was (R445). -/
theorem eret_behind_trap {s : State} {i : IOp} {o : ROp} (hp : s.pair = none) (hg : s.guard o.grd = true)
    (hip : ipOk (nextIp s.me.ip) = true) :
    let t := s.atHandler s.cur.1 s.cur.2 (trapOf i s.me.ip) (nextIp s.me.ip)
    exec (.eret o) t = .next (t.setMe t.me.returned) ∧ (t.setMe t.me.returned).me.ip = nextIp s.me.ip ∧
      (t.setMe t.me.returned).me.mode = false ∧ (t.setMe t.me.returned).me.depth = s.me.depth ∧
      (∀ r, (t.setMe t.me.returned).me.reg r = s.me.reg r) ∧ (t.setMe t.me.returned).mem = s.mem := by
  intro t
  have hme : t.me = s.me.entered (trapOf i s.me.ip) (nextIp s.me.ip) s.myCore.tvec s.free := s.me_atHandler _ _
  refine ⟨exec_eret ((State.guard_atHandler hp _ _ _).trans hg) ?_ ?_ ?_, ?_⟩
  · rw [hme]; rfl
  · rw [hme]; rfl
  · rw [hme]; exact hip
  · rw [State.me_setMe, hme]
    exact ⟨rfl, rfl, rfl, fun r => Ctx.reg_returned_entered _ _ _ _ _ r, rfl⟩

/-- Settles O40: an exception enters its handler when there is one, and there is room for the spill; ERET gives the window
back that the entry took. -/
theorem exceptionEntryAndReturn : Obligations.ExceptionEntryAndReturn := by
  refine ⟨fun s p k x tip => ⟨fun hv hroom => ⟨State.deliver_entered x tip hv hroom, fun hm =>
    State.raise_entered x tip hm hv hroom⟩, State.deliver_failed x tip, State.raise_system x tip⟩, ?_⟩
  refine fun i o s hp => ⟨fun hi ho hm hv hroom => ?_, fun ho => ⟨fun hm => ?_, fun hm hd => ⟨fun hip => ?_, fun hip => ?_⟩,
    fun hm hd => ?_⟩⟩
  · exact ⟨_, _, exec_trap_user hp hi hm hv hroom, (s.atHandler_entered _ _ _ _).of_tip none,
      eret_behind_trap hp ho⟩
  · exact State.check_traps (exec_eret_user ho hm)
  · refine ⟨_, exec_eret ho hm hd hip, .of_setMe s _, ?_⟩
    rw [State.me_setMe]
    exact ⟨rfl, rfl, rfl, rfl, rfl, rfl, rfl⟩
  · exact State.check_traps (exec_eret_bad ho hm hd hip)
  · refine ⟨Config.freeValue s.free, ?_⟩
    rw [exec_eret_lost ho hm hd]
    exact congrArg _ (State.check_alone (s := { s with free := s.free + 1 }) _ _ hp)

end Sys2Proof.Machine
end

section
/-! Wakes exactly, and the ends of waits (R65, R79, R95, R177, R253, R273, R448, R478). -/

namespace Sys2Proof.Machine
open Sys2Proof

/-! ### Cancelled watches -/

theorem State.removeHomeWatches_cores (s : State) (mine : Watch → Bool) : (s.removeHomeWatches mine).cores = s.cores :=
  (Bookkept.foldl (fun s key => s.setWatches_bookkept key _ _) _ s).cores

theorem State.core_removeWatches (s : State) (mine : Watch → Bool) (p : Nat) :
    (s.removeWatches mine).core p = { s.core p with watches := (s.core p).watches.filter fun w => !mine w } := by
  have hsame : ∀ c : Core, (if c.watches.any mine then { c with watches := c.watches.filter fun w => !mine w } else c) =
      { c with watches := c.watches.filter fun w => !mine w } := fun c => by
    split
    · rfl
    · next h =>
      have hf : (c.watches.filter fun w => !mine w) = c.watches := by simpa [List.filter_eq_self] using h
      rw [hf]
  simp only [State.removeWatches, State.core, KMap.get, State.removeHomeWatches_cores, KMap.find?_mapVals]
  cases KMap.find? s.cores p with
  | none => rfl
  | some c => exact hsame c

theorem State.ctx_cancelWatches (s : State) (p k q j : Nat) : (s.cancelWatches p k).ctx q j = s.ctx q j := by
  rw [State.ctx, State.cancelWatches, State.core_removeWatches]
  rfl

/-! ### One wake -/

/-- The waits behind which a context goes on at the next slot; at the others its instruction executes again. -/
noncomputable def WaitOn.passes : WaitOn → Bool
  | .parkWatch _ _ | .parkTimed _ => true
  | _ => false

theorem State.ctx_wake_self {s : State} {p k : Nat} {w : Wait} (h : (s.ctx p k).wait = some w) :
    ∃ r, (s.wake p k).ctx p k = { s.ctx p k with
      wait := none, ip := if w.on.passes then nextIp (s.ctx p k).ip else (s.ctx p k).ip, retry := r } := by
  have hself : ∀ (c : Core) (x : Ctx), (s.setCore p (c.setCtx k x)).ctx p k = x := fun c x => by simp [State.ctx]
  have hw : ((s.core p).ctx k).wait = some w := h
  obtain ⟨on, a, b⟩ := w
  simp only [State.wake, hw]
  cases on with
  | parkWatch line T => exact ⟨_, hself _ _⟩
  | parkTimed line => exact ⟨_, hself _ _⟩
  | monitor =>
    dsimp only
    split
    · exact ⟨_, hself _ _⟩
    · exact ⟨_, hself _ _⟩
  | _ => exact ⟨_, hself _ _⟩

theorem State.ctx_wake_ne (s : State) {p k q j : Nat} (h : (q, j) ≠ (p, k)) : (s.wake p k).ctx q j = s.ctx q j := by
  have hne : ∀ (c : Core) (x : Ctx), c.ctxs = (s.core p).ctxs → (s.setCore p (c.setCtx k x)).ctx q j = s.ctx q j := by
    intro c x hc
    by_cases hq : q = p
    · subst hq
      have hj : j ≠ k := fun e => h (by rw [e])
      simp [State.ctx, Core.ctx, hj, hc, Core.setCtx]
    · simp [State.ctx, hq]
  simp only [State.wake]
  split
  · rfl
  · next w _ =>
    split
    · exact hne _ _ rfl
    · exact hne _ _ rfl
    · split
      · exact hne _ _ rfl
      · exact hne _ _ rfl
    · exact hne _ _ rfl
    · exact hne _ _ rfl
    · exact hne _ _ rfl

/-! ### Wakes of waits that change nothing of their core (R65) -/

/-- The waits whose end changes the context alone, and lets its instruction execute again as a new one. -/
noncomputable def WaitOn.plain : WaitOn → Bool
  | .parkWatch _ _ | .parkTimed _ | .monitor | .fetch _ | .fetchPage _ => false
  | _ => true

/-- A context whose wait has ended. -/
noncomputable def Ctx.awake (x : Ctx) : Ctx := { x with wait := none, retry := false }

/-- A context after a wake of those whose wait meets `f`. -/
noncomputable def Ctx.roused (x : Ctx) (f : WaitOn → Bool) : Ctx := if x.wait.any (fun w => f w.on) then x.awake else x

theorem Ctx.roused_of_some {x : Ctx} {f : WaitOn → Bool} {w : Wait} (h : x.wait = some w) (hf : f w.on = true) :
    x.roused f = x.awake := by
  simp [Ctx.roused, h, hf]

theorem Ctx.roused_of_not {x : Ctx} {f : WaitOn → Bool} (h : ∀ w, x.wait = some w → f w.on = false) :
    x.roused f = x := by
  simp only [Ctx.roused]
  cases hw : x.wait with
  | none => rfl
  | some w => simp [h w hw]

theorem Ctx.roused_roused (x : Ctx) (f : WaitOn → Bool) : (x.roused f).roused f = x.roused f := by
  refine Ctx.roused_of_not fun w hw => ?_
  simp only [Ctx.roused] at hw
  split at hw
  · cases hw
  · next h => simpa [hw] using h

/-- What a wake of plain waits leaves: all but contexts. -/
structure CtxsOnly (s t : State) : Prop where
  cores : ∀ p, { t.core p with ctxs := [] } = { s.core p with ctxs := [] }
  machine : t = { s with cores := t.cores }

namespace CtxsOnly

theorem refl (s : State) : CtxsOnly s s := ⟨fun _ => rfl, rfl⟩

theorem trans {s t u : State} (h1 : CtxsOnly s t) (h2 : CtxsOnly t u) : CtxsOnly s u where
  cores := fun p => (h2.cores p).trans (h1.cores p)
  machine := by
    have e := h2.machine
    rw [h1.machine] at e
    exact e

theorem setCtx (s : State) (p k : Nat) (x : Ctx) : CtxsOnly s (s.setCtx p k x) := ⟨s.core_setCtx_ctxs p k x, rfl⟩

theorem foldl {α : Type} {f : State → α → State} (hf : ∀ s a, CtxsOnly s (f s a)) (l : List α) (s : State) :
    CtxsOnly s (l.foldl f s) := by
  induction l generalizing s with
  | nil => exact .refl s
  | cons a l ih => exact (hf s a).trans (ih _)

theorem mem {s t : State} (h : CtxsOnly s t) : t.mem = s.mem := by rw [h.machine]

end CtxsOnly

theorem State.wake_none {s : State} {p k : Nat} (h : (s.ctx p k).wait = none) : s.wake p k = s := by
  have hw : ((s.core p).ctx k).wait = none := h
  simp only [State.wake, hw]

theorem State.wake_plain {s : State} {p k : Nat} {w : Wait} (h : (s.ctx p k).wait = some w) (hp : w.on.plain = true) :
    s.wake p k = s.setCtx p k (s.ctx p k).awake := by
  have hw : ((s.core p).ctx k).wait = some w := h
  obtain ⟨on, a, b⟩ := w
  simp only [State.wake, hw]
  cases on with
  | parkWatch | parkTimed | monitor | fetch | fetchPage => cases hp
  | _ => rfl

/-- The contexts of core `p` that a list names and whose wait meets `f`, woken one after another. -/
theorem State.ctx_wakes {f : WaitOn → Bool} (hf : ∀ w, f w = true → w.plain = true) {p : Nat} (l : List Nat) (s : State)
    (hl : ∀ k ∈ l, ∀ w, (s.ctx p k).wait = some w → f w.on = true) :
    CtxsOnly s (l.foldl (fun s k => s.wake p k) s) ∧ ∀ q j, (l.foldl (fun s k => s.wake p k) s).ctx q j =
      if q = p ∧ j ∈ l then (s.ctx q j).roused f else s.ctx q j := by
  induction l generalizing s with
  | nil => exact ⟨.refl s, fun q j => by simp⟩
  | cons k l ih =>
    have hstep : CtxsOnly s (s.wake p k) ∧ ∀ q j, (s.wake p k).ctx q j =
        if q = p ∧ j = k then (s.ctx q j).roused f else s.ctx q j := by
      cases hw : (s.ctx p k).wait with
      | none =>
        rw [State.wake_none hw]
        refine ⟨.refl s, fun q j => ?_⟩
        split
        · next h =>
          obtain ⟨rfl, rfl⟩ := h
          rw [Ctx.roused_of_not fun w h => by rw [hw] at h; cases h]
        · rfl
      | some w =>
        have hon := hl k (by simp) w hw
        rw [State.wake_plain hw (hf _ hon)]
        refine ⟨.setCtx s p k _, fun q j => ?_⟩
        split
        · next h =>
          obtain ⟨rfl, rfl⟩ := h
          rw [State.ctx_setCtx_self, Ctx.roused_of_some hw hon]
        · next h => exact s.ctx_setCtx_ne _ fun e => h (by simpa using e)
    obtain ⟨honly, hctx⟩ := hstep
    obtain ⟨honly', hctx'⟩ := ih (s.wake p k) fun j hj w hw => by
      rw [hctx] at hw
      split at hw
      · next h =>
        obtain ⟨-, rfl⟩ := h
        simp only [Ctx.roused] at hw
        split at hw
        · cases hw
        · exact hl _ (by simp) w hw
      · exact hl j (by simp [hj]) w hw
    refine ⟨honly.trans honly', fun q j => ?_⟩
    rw [List.foldl_cons, hctx', hctx]
    have htwice := (s.ctx q j).roused_roused f
    by_cases h : q = p ∧ j = k
    · obtain ⟨rfl, rfl⟩ := h
      simp [htwice]
    · have hiff : (q = p ∧ j ∈ k :: l) ↔ (q = p ∧ j ∈ l) := by
        simp only [List.mem_cons]
        tauto
      simp only [if_neg h, hiff]

theorem mem_parkOrder (l : List (Nat × Nat)) (e f : Nat × Nat) : f ∈ parkOrder l e ↔ f = e ∨ f ∈ l := by
  induction l with
  | nil => simp [parkOrder]
  | cons g l ih =>
    rw [parkOrder]
    split
    · simp
    · simp only [List.mem_cons, ih]
      tauto

theorem mem_foldl_parkOrder (l a : List (Nat × Nat)) (f : Nat × Nat) : f ∈ l.foldl parkOrder a ↔ f ∈ l ∨ f ∈ a := by
  induction l generalizing a with
  | nil => simp
  | cons e l ih =>
    rw [List.foldl_cons, ih, mem_parkOrder, List.mem_cons]
    tauto

theorem Core.mem_waiting (c : Core) (f : WaitOn → Bool) (k : Nat) :
    k ∈ c.waiting f ↔ k < 16 ∧ ∃ w, (c.ctx k).wait = some w ∧ f w.on = true := by
  simp only [Core.waiting, List.mem_map, mem_foldl_parkOrder, List.mem_filterMap, List.mem_range, List.not_mem_nil, or_false]
  constructor
  · rintro ⟨e, ⟨j, hj, he⟩, rfl⟩
    split at he
    · next w hw =>
      split at he
      · next hf =>
        cases he
        exact ⟨hj, w, hw, hf⟩
      · cases he
    · cases he
  · rintro ⟨hk, w, hw, hf⟩
    exact ⟨(w.cyc, k), ⟨k, hk, by simp [hw, hf]⟩, rfl⟩

/-- A wake of plain waits on one core. -/
theorem State.ctx_wakeIf {f : WaitOn → Bool} (hf : ∀ w, f w = true → w.plain = true) (s : State) (p : Nat) :
    CtxsOnly s (s.wakeIf p f) ∧ ∀ q j, (s.wakeIf p f).ctx q j =
      if q = p ∧ j < 16 then (s.ctx q j).roused f else s.ctx q j := by
  obtain ⟨honly, hctx⟩ := State.ctx_wakes hf ((s.core p).waiting f) s fun k hk w hw => by
    obtain ⟨-, w', hw', hon⟩ := (Core.mem_waiting _ _ _).mp hk
    rw [State.ctx, hw'] at hw
    cases hw
    exact hon
  refine ⟨honly, fun q j => (hctx q j).trans ?_⟩
  by_cases hq : q = p
  · subst hq
    have hiff := (s.core q).mem_waiting f j
    by_cases hk : j ∈ (s.core q).waiting f
    · simp [hk, (hiff.mp hk).1]
    · by_cases hj : j < 16
      · have hnot : (s.ctx q j).roused f = s.ctx q j := Ctx.roused_of_not fun w hw => by
          by_contra hon
          exact hk (hiff.mpr ⟨hj, w, hw, by simpa using hon⟩)
        simp [hk, hj, hnot]
      · simp [hk, hj]
  · simp [hq]

theorem State.ctx_wakesOf {f : WaitOn → Bool} (hf : ∀ w, f w = true → w.plain = true) (P : Nat → Prop) [DecidablePred P]
    (l : List (Nat × Core)) (s : State) :
    let t := l.foldl (fun s e => if P e.1 then s.wakeIf e.1 f else s) s
    CtxsOnly s t ∧ ∀ q j, t.ctx q j =
      if (∃ e ∈ l, e.1 = q) ∧ P q ∧ j < 16 then (s.ctx q j).roused f else s.ctx q j := by
  induction l generalizing s with
  | nil => exact ⟨.refl s, fun q j => by simp⟩
  | cons e l ih =>
    have hstep : CtxsOnly s (if P e.1 then s.wakeIf e.1 f else s) ∧ ∀ q j,
        (if P e.1 then s.wakeIf e.1 f else s).ctx q j =
          if q = e.1 ∧ P q ∧ j < 16 then (s.ctx q j).roused f else s.ctx q j := by
      obtain ⟨honly, hctx⟩ := s.ctx_wakeIf hf e.1
      split
      · next h =>
        refine ⟨honly, fun q j => (hctx q j).trans ?_⟩
        by_cases hq : q = e.1
        · simp [hq, h]
        · simp [hq]
      · next h =>
        refine ⟨.refl s, fun q j => ?_⟩
        rw [if_neg]
        rintro ⟨rfl, hP, -⟩
        exact h hP
    obtain ⟨honly, hctx⟩ := hstep
    obtain ⟨honly', hctx'⟩ := ih (if P e.1 then s.wakeIf e.1 f else s)
    refine ⟨honly.trans honly', fun q j => ?_⟩
    rw [List.foldl_cons, hctx', hctx]
    have htwice := (s.ctx q j).roused_roused f
    by_cases h : q = e.1 ∧ P q ∧ j < 16
    · have hin : (∃ e' ∈ e :: l, e'.1 = q) ∧ P q ∧ j < 16 := ⟨⟨e, by simp, h.1.symm⟩, h.2⟩
      rw [if_pos h, if_pos hin, htwice, ite_self]
    · have hiff : ((∃ e' ∈ e :: l, e'.1 = q) ∧ P q ∧ j < 16) ↔ ((∃ e' ∈ l, e'.1 = q) ∧ P q ∧ j < 16) := by
        simp only [List.exists_mem_cons_iff, eq_comm (a := e.1)]
        tauto
      simp only [if_neg h, hiff]

/-- A context of a core that no state lists waits for nothing. -/
theorem State.wait_unlisted {s : State} {q : Nat} (h : ¬ ∃ e ∈ s.cores, e.1 = q) (j : Nat) : (s.ctx q j).wait = none := by
  have hnone : KMap.find? s.cores q = none := by
    cases hf : KMap.find? s.cores q with
    | none => rfl
    | some c => exact absurd ⟨_, mem_of_find? hf, rfl⟩ h
  rw [State.ctx, State.core, KMap.get, hnone]
  rfl

/-- A wake of plain waits on the cores that `P` names, of all that the state lists. -/
theorem State.ctx_wakesWhere {f : WaitOn → Bool} (hf : ∀ w, f w = true → w.plain = true) (P : Nat → Prop)
    [DecidablePred P] (s : State) :
    let t := s.cores.foldl (fun s e => if P e.1 then s.wakeIf e.1 f else s) s
    CtxsOnly s t ∧ ∀ q j, t.ctx q j = if P q ∧ j < 16 then (s.ctx q j).roused f else s.ctx q j := by
  obtain ⟨honly, hctx⟩ := State.ctx_wakesOf hf P s.cores s
  refine ⟨honly, fun q j => (hctx q j).trans ?_⟩
  by_cases hq : ∃ e ∈ s.cores, e.1 = q
  · simp [hq]
  · have hnot : (s.ctx q j).roused f = s.ctx q j := Ctx.roused_of_not fun w hw => by
      rw [State.wait_unlisted hq] at hw
      cases hw
    simp [hnot]

/-! ### The ends of waits -/

/-- A wait ended, with its watches. -/
theorem State.ends_wait {s : State} {p k : Nat} {w : Wait} (h : (s.ctx p k).wait = some w) :
    let t := (s.cancelWatches p k).wake p k
    let ip := if w.on.passes then nextIp (s.ctx p k).ip else (s.ctx p k).ip
    (t.ctx p k).wait = none ∧ (t.ctx p k).ip = ip ∧ (∀ r, (t.ctx p k).reg r = (s.ctx p k).reg r) ∧
      ∀ q j, (q, j) ≠ (p, k) → t.ctx q j = s.ctx q j := by
  intro t ip
  have hsame := s.ctx_cancelWatches p k
  obtain ⟨r, hr⟩ := State.ctx_wake_self ((congrArg Ctx.wait (hsame p k)).trans h)
  rw [hsame] at hr
  refine ⟨?_, ?_, ?_, fun q j hne => (State.ctx_wake_ne _ hne).trans (hsame q j)⟩
  · rw [hr]
  · rw [hr]
  · rw [hr]
    exact fun _ => rfl

theorem State.endWait_lasted {s : State} {p k : Nat} {w : Wait} {f : WaitOn → Bool} {lasted : Wait → Bool}
    (h : (s.ctx p k).wait = some w) (hf : f w.on = true) (hl : lasted w = true) :
    s.endWait p k f lasted = (s.cancelWatches p k).wake p k := by
  simp [State.endWait, h, hf, hl]

theorem State.endWait_young {s : State} {p k : Nat} {w : Wait} {f : WaitOn → Bool} {lasted : Wait → Bool}
    (h : (s.ctx p k).wait = some w) (hl : lasted w = false) : s.endWait p k f lasted = s := by
  simp [State.endWait, h, hl]

theorem exec_parkTimeout_lasted {s : State} {p k line T a b : Nat} (h : (s.ctx p k).wait = some ⟨.parkWatch line T, a, b⟩)
    (hT : T ≠ 0) (hl : a + T ≤ (s.core p).cyc) : exec (.parkTimeout p k) s = .next ((s.cancelWatches p k).wake p k) := by
  show execParkTimeout p k s = _
  simp [execParkTimeout, h, hT, hl]

theorem exec_parkTimeout_young {s : State} {p k line T a b : Nat} (h : (s.ctx p k).wait = some ⟨.parkWatch line T, a, b⟩)
    (hl : T = 0 ∨ (s.core p).cyc < a + T) : exec (.parkTimeout p k) s = .next s := by
  show execParkTimeout p k s = _
  have hnot : ¬ (T ≠ 0 ∧ a + T ≤ (s.core p).cyc) := by omega
  simpa [execParkTimeout, h] using fun hT hl' => absurd ⟨hT, hl'⟩ hnot

/-- A context that waits for a word that no watch names stands in a park heap. -/
theorem State.waitsInHeap_of_unwatched {s : State} {p k a b : Nat} (h : (s.ctx p k).wait = some ⟨.word, a, b⟩)
    (hh : ∀ e ∈ s.watches, ∀ w ∈ e.2, ¬ (w.pid = p ∧ w.ctx = k))
    (hc : ∀ e ∈ s.cores, ∀ w ∈ e.2.watches, ¬ (w.pid = p ∧ w.ctx = k)) : s.waitsInHeap p k = true := by
  simp only [State.waitsInHeap, h, Bool.true_and, Bool.and_eq_true, List.all_eq_true, Bool.not_eq_true', List.any_eq_false]
  refine ⟨fun e he w hw hm => hh e he w hw ?_, fun e he w hw hm => hc e he w hw ?_⟩ <;> simp_all

/-- A context that left the heap of its word executes again. -/
theorem State.ends_heapWait {s : State} {p k : Nat} :
    let u := s.cancelWatches p k
    let t := u.setCtx p k { u.ctx p k with wait := none, retry := false }
    (t.ctx p k).wait = none ∧ (t.ctx p k).ip = (s.ctx p k).ip ∧ (∀ r, (t.ctx p k).reg r = (s.ctx p k).reg r) ∧
      ∀ q j, (q, j) ≠ (p, k) → t.ctx q j = s.ctx q j := by
  intro u t
  have hself : t.ctx p k = (s.ctx p k).awake := by rw [State.ctx_setCtx_self, s.ctx_cancelWatches]; rfl
  rw [hself]
  exact ⟨rfl, rfl, fun _ => rfl, fun q j hne => (u.ctx_setCtx_ne _ hne).trans (s.ctx_cancelWatches p k q j)⟩

/-- The end of a refresh wakes those who wait for the bank, on the cores of its die (R95). -/
theorem refreshWindowEnd_wakes (die bank : Nat) (s : State) :
    ∃ t, exec (.refreshWindowEnd die bank) s = .next t ∧ t.mem = s.mem ∧ ∀ q j, j < 16 →
      (t.ctx q j).reg = (s.ctx q j).reg ∧
      (bank < 32 → dieOf q = die → (∃ m n, (s.ctx q j).wait = some ⟨.busy 5, m, n⟩) → (t.ctx q j).wait = none) ∧
      (¬ (bank < 32 ∧ dieOf q = die ∧ ∃ m n, (s.ctx q j).wait = some ⟨.busy 5, m, n⟩) → t.ctx q j = s.ctx q j) := by
  refine ⟨_, rfl, ?_⟩
  by_cases hb : bank < 32
  · obtain ⟨honly, hctx⟩ := s.ctx_wakesWhere (f := (· == .busy 5)) (by simp +contextual [WaitOn.plain]) (dieOf · = die)
    rw [if_pos hb]
    refine ⟨honly.mem, fun q j hj => ?_⟩
    rw [hctx]
    by_cases hd : dieOf q = die
    · rw [if_pos ⟨hd, hj⟩]
      refine ⟨?_, fun _ _ ⟨m, n, hw⟩ => ?_, fun hnot => Ctx.roused_of_not fun w hw => ?_⟩
      · rw [Ctx.roused]
        split <;> rfl
      · rw [Ctx.roused_of_some hw (by simp)]
        rfl
      · obtain ⟨on, m, n⟩ := w
        refine beq_eq_false_iff_ne.mpr fun (hon : on = .busy 5) => hnot ⟨hb, hd, m, n, ?_⟩
        rw [hw, hon]
    · simp [hd]
  · rw [if_neg hb]
    exact ⟨rfl, fun q j _ => ⟨rfl, fun h => absurd h hb, fun _ => rfl⟩⟩

/-- Settles O44: each timer ends the wait it is for once that has lasted its time, and does nothing before. -/
theorem waitsEnd : Obligations.WaitsEnd := by
  intro p k s a b _ c x ends waits
  have hends : ∀ {i : Instr} {w : WaitOn}, waits w → exec i s = .next ((s.cancelWatches p k).wake p k) →
      ends i (if w.passes then nextIp x.ip else x.ip) := fun hw hi => ⟨_, hi, State.ends_wait hw⟩
  refine ⟨fun hw => ⟨fun hl => ?_, fun hl => ?_⟩, fun line T hw => ⟨fun hT hl => ?_, fun hl => ?_⟩,
    fun hw => ⟨fun hl => ?_, fun hl => ?_⟩, fun line hw hl => ?_, fun hw hl => ?_,
    fun hw hh hc => ⟨fun hl => ?_, fun hl => ?_⟩, fun hw => ⟨fun hl => ?_, fun hl => ?_⟩,
    fun w hw hp => ⟨fun hl hs => ?_, fun hl => ?_⟩, fun die bank => ?_⟩
  · exact hends hw (congrArg _ (State.endWait_lasted hw rfl (decide_eq_true hl)))
  · exact congrArg _ (State.endWait_young hw (decide_eq_false (by simpa using hl)))
  · exact hends hw (exec_parkTimeout_lasted hw hT hl)
  · exact exec_parkTimeout_young hw hl
  · exact hends hw (congrArg _ (State.endWait_lasted hw rfl (decide_eq_true hl)))
  · exact congrArg _ (State.endWait_young hw (decide_eq_false (by simpa [tUs] using hl)))
  · exact hends hw (congrArg _ (State.endWait_lasted hw rfl (decide_eq_true hl)))
  · exact hends hw (congrArg _ (State.endWait_lasted hw rfl (decide_eq_true hl)))
  · refine ⟨_, ?_, State.ends_heapWait⟩
    show execParkHeapTimeout p k s = _
    simp only [execParkHeapTimeout, show (s.ctx p k).wait = _ from hw, State.waitsInHeap_of_unwatched hw hh hc]
    rw [if_pos (by simpa using hl)]
  · show execParkHeapTimeout p k s = _
    have hyoung : ¬ a + 2 ^ 24 ≤ (s.core p).cyc := Nat.not_le.mpr hl
    simp only [execParkHeapTimeout, show (s.ctx p k).wait = _ from hw, hyoung, decide_false, Bool.and_false,
      Bool.false_eq_true, if_false]
  · exact hends hw (congrArg _ (State.endWait_lasted hw rfl (decide_eq_true hl)))
  · exact congrArg _ (State.endWait_young hw (decide_eq_false (by simpa using hl)))
  · show execWatchdog p k s = _
    simp only [execWatchdog, show (s.ctx p k).wait = _ from hw, hp, show (s.core p).stopped = false from hs]
    rw [if_pos (by simpa using hl)]
  · show execWatchdog p k s = _
    have hyoung : ¬ a + 2 ^ 36 ≤ (s.core p).cyc := Nat.not_le.mpr hl
    simp only [execWatchdog, show (s.ctx p k).wait = _ from hw, hyoung, decide_false, Bool.and_false, Bool.false_and,
      Bool.false_eq_true, if_false]
  · exact refreshWindowEnd_wakes die bank s

end Sys2Proof.Machine
end

section
/-! Fetched lines, line requests and held lines (R74, R75, R101, R163, R191, R263, R465, R468, R487). -/

namespace Sys2Proof.Machine
open Sys2Proof

/-! ### Wakes of any kind -/

theorem State.wait_wake_none {s : State} {p k : Nat} (j : Nat) (h : (s.ctx p k).wait = none) :
    ((s.wake p j).ctx p k).wait = none := by
  by_cases hj : j = k
  · subst hj
    rw [State.wake_none h, h]
  · rw [State.ctx_wake_ne _ (by simpa using Ne.symm hj), h]

theorem State.wait_wakes_none {p k : Nat} (l : List Nat) (s : State) (h : (s.ctx p k).wait = none) :
    ((l.foldl (fun s k => s.wake p k) s).ctx p k).wait = none := by
  induction l generalizing s with
  | nil => exact h
  | cons j l ih => exact ih _ (State.wait_wake_none j h)

theorem State.wait_wakes {p k : Nat} (l : List Nat) (s : State) (hk : k ∈ l) :
    ((l.foldl (fun s k => s.wake p k) s).ctx p k).wait = none := by
  induction l generalizing s with
  | nil => cases hk
  | cons j l ih =>
    by_cases hj : j = k
    · subst hj
      refine State.wait_wakes_none l _ ?_
      dsimp only
      cases hw : (s.ctx p j).wait with
      | none => rw [State.wake_none hw, hw]
      | some w =>
        obtain ⟨r, hr⟩ := State.ctx_wake_self hw
        rw [hr]
    · exact ih _ ((List.mem_cons.mp hk).resolve_left (Ne.symm hj))

/-- A context whose wait a wake meets waits for nothing after it. -/
theorem State.wait_wakeIf {s : State} {p k : Nat} {f : WaitOn → Bool} {w : Wait} (hk : k < 16)
    (h : (s.ctx p k).wait = some w) (hf : f w.on = true) : ((s.wakeIf p f).ctx p k).wait = none :=
  State.wait_wakes _ s ((Core.mem_waiting _ _ _).mpr ⟨hk, w, h, hf⟩)

theorem Stirred.core_icache {s t : State} (h : Stirred s t) (p : Nat) : (t.core p).icache = (s.core p).icache := by
  have e := congrArg Core.icache (h.cores p)
  exact e

/-- An update of a core that keeps its contexts. -/
theorem State.ctx_setCore_same (s : State) {p : Nat} {c : Core} (h : c.ctxs = (s.core p).ctxs) (q j : Nat) :
    (s.setCore p c).ctx q j = s.ctx q j := by
  by_cases hq : q = p
  · subst hq
    rw [State.ctx, State.core_setCore_self, Core.ctx, h]
    rfl
  · rw [State.ctx, State.core_setCore_ne _ _ hq]
    rfl

/-! ### Fetched lines -/

theorem exec_lineFetch {s : State} {p k line a b : Nat} (h : (s.ctx p k).wait = some ⟨.fetch line, a, b⟩) :
    exec (.lineFetch p k) s = .next (s.fetchLine p k line) := by
  show execLineFetch p k s = _
  simp [execLineFetch, h]

/-- A fetch that failed is kept for its context, which no longer waits. -/
theorem State.fetchFails_ctx {s : State} {p k : Nat} {w : Wait} (h : (s.ctx p k).wait = some w) (va : Word) (cause : Nat) :
    ((s.fetchFails p k va cause).ctx p k).fetchFail = some (va, cause) ∧
    ((s.fetchFails p k va cause).ctx p k).wait = none ∧ (s.fetchFails p k va cause).mem = s.mem := by
  obtain ⟨r, hr⟩ := State.ctx_wake_self (s := s.setCtx p k { s.ctx p k with fetchFail := some (va, cause) }) (p := p) (k := k)
    (w := w) (by rw [State.ctx_setCtx_self]; exact h)
  rw [State.ctx_setCtx_self] at hr
  refine ⟨?_, ?_, State.wake_mem _ p k⟩
  · rw [State.fetchFails, hr]
  · rw [State.fetchFails, hr]

/-- The room that a fetched line takes costs another line, no context and no byte. -/
theorem State.fetchRoom_same (s : State) (p line : Nat) :
    (s.fetchRoom p line).mem = s.mem ∧ ∀ q j, (s.fetchRoom p line).ctx q j = s.ctx q j := by
  simp only [State.fetchRoom]
  split
  · exact ⟨rfl, fun _ _ => rfl⟩
  · split
    · exact ⟨rfl, fun _ _ => rfl⟩
    · exact ⟨rfl, s.ctx_setCore_same rfl⟩

theorem State.openLine_found {s : State} {dom pa : Nat} {va : Word} {l : Line} (h : s.lines.find? (lineKey dom va) = some l) :
    s.openLine dom va pa = (s.countCache (lineKey dom va) dom CacheCnt.addHit, l) := by
  simp [State.openLine, h]

theorem State.fetchLine_found {s : State} {p k line pa : Nat} {l : Line}
    (ha : ((isHost (keyVa line) || isDevice (keyVa line)) && (s.core p).allowed (keyVa line) rX) = true)
    (hx : s.xlate (s.core p).dom (keyVa line) rX = (s, .ok pa))
    (hl : s.lines.find? (lineKey (s.core p).dom (keyVa line)) = some l) :
    let u := s.countCache (lineKey (s.core p).dom (keyVa line)) (s.core p).dom CacheCnt.addHit
    let il := ILine.ofWords l.ws l.poison
    let v := u.fetchRoom p line
    s.fetchLine p k line = if !il.sound then u.fetchFails p k (keyVa line) 2
      else (v.setCore p { v.core p with icache := (v.core p).icache.put line il }).wakeIf p (· == .fetch line) := by
  simp only [State.fetchLine, ha, hx, State.openLine_found hl, Bool.not_true, Bool.false_eq_true, if_false]

theorem fetchLine_refused {s : State} {p line : Nat} (k : Nat)
    (hno : (isHost (keyVa line) = false ∧ isDevice (keyVa line) = false) ∨ (s.core p).allowed (keyVa line) rX = false) :
    s.fetchLine p k line = s.fetchFails p k (keyVa line) 6 := by
  have hb : (!((isHost (keyVa line) || isDevice (keyVa line)) && (s.core p).allowed (keyVa line) rX)) = true := by
    obtain ⟨hh, hd⟩ | ha := hno
    · simp [hh, hd]
    · simp [ha]
  simp only [State.fetchLine, hb, if_true]

/-- A line that is found enters the instruction cache when it is sound. -/
theorem fetchLine_enters {s : State} {p k line pa a b : Nat} {l : Line} (hk : k < 16)
    (h : (s.ctx p k).wait = some ⟨.fetch line, a, b⟩)
    (ha : ((isHost (keyVa line) || isDevice (keyVa line)) && (s.core p).allowed (keyVa line) rX) = true)
    (hx : s.xlate (s.core p).dom (keyVa line) rX = (s, .ok pa))
    (hl : s.lines.find? (lineKey (s.core p).dom (keyVa line)) = some l) :
    let il := ILine.ofWords l.ws l.poison
    let t := s.fetchLine p k line
    t.mem = s.mem ∧ (t.ctx p k).wait = none ∧ (il.sound = true → (t.core p).icache.find? line = some il) ∧
      (il.sound = false → (t.ctx p k).fetchFail = some (keyVa line, 2)) := by
  intro il t
  have ht : t = _ := State.fetchLine_found (k := k) ha hx hl
  generalize hu : s.countCache (lineKey (s.core p).dom (keyVa line)) (s.core p).dom CacheCnt.addHit = u at ht
  have hctx : u.ctx p k = s.ctx p k := by rw [← hu]; rfl
  have hmem : u.mem = s.mem := by rw [← hu]; rfl
  obtain ⟨hrmem, hrctx⟩ := u.fetchRoom_same p line
  cases hs : (ILine.ofWords l.ws l.poison).sound with
  | false =>
    rw [hs] at ht
    obtain ⟨hfail, hwait, hm⟩ := State.fetchFails_ctx ((congrArg Ctx.wait hctx).trans h) (keyVa line) 2
    rw [ht]
    exact ⟨hm.trans hmem, hwait, fun h => Bool.noConfusion h, fun _ => hfail⟩
  | true =>
    rw [hs] at ht
    have hw : (((u.fetchRoom p line).setCore p { (u.fetchRoom p line).core p with
        icache := ((u.fetchRoom p line).core p).icache.put line il }).ctx p k).wait = some ⟨.fetch line, a, b⟩ := by
      rw [State.ctx, State.core_setCore_self, ← h, ← hctx, ← hrctx]
      rfl
    rw [ht]
    refine ⟨(State.wakeIf_mem _ _ _).trans (hrmem.trans hmem), State.wait_wakeIf hk hw (by simp), fun _ => ?_,
      fun h => Bool.noConfusion h⟩
    show (State.core (State.wakeIf _ _ _) _).icache.find? line = _
    rw [(State.wakeIf_stirred _ _ _).core_icache, State.core_setCore_self]
    exact KMap.find?_put_self _ _ _

/-! ### Line requests -/

theorem exec_lineRequest {s : State} {p line : Nat} {r : LineReq} (h : (s.core p).lineReqs = [r]) (hl : r.line = line)
    (hf : r.fill = none) {u : State} {f : Fill} (ha : s.lineAnswer p r = (u, f)) : exec (.lineRequest p line) s =
      .next (u.setCore p { u.core p with lineReqs := (u.core p).lineReqs.map fun q =>
        if q = r then { q with fill := some f } else if q.line = line then q.renew f else q }) := by
  show execLineRequest p line s = _
  simp [execLineRequest, h, hl, hf, ha]

/-- The answer to the only request of a core. -/
theorem lineRequest_answered {s : State} {p line : Nat} {r : LineReq} (h : (s.core p).lineReqs = [r]) (hl : r.line = line)
    (hf : r.fill = none) {u : State} {f : Fill} (ha : s.lineAnswer p r = (u, f)) (hc : u.cores = s.cores) :
    ∃ t, exec (.lineRequest p line) s = .next t ∧ t.mem = u.mem ∧
      (t.core p).lineReqs = [{ r with fill := some f }] := by
  have hu : (u.core p).lineReqs = [r] := by rw [State.core, hc]; exact h
  exact ⟨_, exec_lineRequest h hl hf ha, rfl, by simp [hu]⟩

theorem State.refused_cores (s : State) (dom : Nat) (va : Word) : (s.refused dom va).cores = s.cores := by
  simp only [State.refused]
  split
  · rfl
  · rfl

theorem State.lineAnswer_found {s : State} {p pa : Nat} {r : LineReq} {l : Line}
    (hx : s.xlate r.dom r.va rR = (s, .ok pa)) (hl : s.lines.find? (lineKey r.dom r.va) = some l) :
    s.lineAnswer p r = (s.countCache (lineKey r.dom r.va) r.dom CacheCnt.addHit, .data l.ws 255 l.poison
      (ofBits ((List.range 8).map fun i => s.owners.find? (r.line * 8 + i) == some p))) := by
  simp only [State.lineAnswer, hx, State.openLine_found hl]
  rfl

theorem bitAt_ofBits (l : List Bool) (i : Nat) : bitAt (ofBits l) i = (l[i]?).getD false := by
  induction l generalizing i with
  | nil => simp [ofBits, bitAt]
  | cons b l ih =>
    cases i with
    | zero => cases b <;> simp [ofBits, bitAt]
    | succ i =>
      have hhalf : ofBits (b :: l) / 2 = ofBits l := by
        rw [ofBits]
        split <;> omega
      rw [bitAt_eq_testBit, Nat.testBit_succ, hhalf, ← bitAt_eq_testBit, ih]
      rfl

/-- A home answers the request with the words of its line, and with which of them the core owns. -/
theorem lineRequest_found {s : State} {p line pa : Nat} {r : LineReq} {l : Line} (h : (s.core p).lineReqs = [r])
    (hr : r.line = line) (hf : r.fill = none) (hx : s.xlate r.dom r.va rR = (s, .ok pa))
    (hl : s.lines.find? (lineKey r.dom r.va) = some l) : ∃ t o, exec (.lineRequest p line) s = .next t ∧ t.mem = s.mem ∧
      (t.core p).lineReqs = [{ r with fill := some (.data l.ws 255 l.poison o) }] ∧
      ∀ i, i < 8 → (bitAt o i = true ↔ s.owners.find? (line * 8 + i) = some p) := by
  obtain ⟨t, ht, hm, hreqs⟩ := lineRequest_answered h hr hf (State.lineAnswer_found (p := p) hx hl) rfl
  refine ⟨t, _, ht, hm, hreqs, fun i hi => ?_⟩
  simp [bitAt_ofBits, hi, hr]

/-! ### The arrival of a line -/

theorem exec_lineArrival {s : State} {p line : Nat} {r : LineReq} {f : Fill} (h : (s.core p).lineReqs = [r])
    (hl : r.line = line) (hf : r.fill = some f) :
    exec (.lineArrival p line) s = .next ((s.fillArrives p r f).fillWakes p r) := by
  show execLineArrival p line s = _
  simp [execLineArrival, h, hl, hf]

/-- One word of a fill. -/
noncomputable def fillWord (line : Nat) (ws : List Word) (valid poison owned : Nat) (m : KMap CWord) (i : Nat) : KMap CWord :=
  let keep := match m.find? (line * 8 + i) with
    | some w => w.owned
    | none => false
  if bitAt valid i && !keep then
    m.put (line * 8 + i) { v := (ws[i]?).getD 0, owned := bitAt owned i, poison := bitAt poison i }
  else m

theorem fillWords_eq (m : KMap CWord) (line : Nat) (ws : List Word) (valid poison owned : Nat) :
    fillWords m line ws valid poison owned = (List.range 8).foldl (fillWord line ws valid poison owned) m := rfl

theorem find?_fillWord_ne (line : Nat) (ws : List Word) (valid poison owned : Nat) (m : KMap CWord) {i j : Nat} (h : i ≠ j) :
    (fillWord line ws valid poison owned m j).find? (line * 8 + i) = m.find? (line * 8 + i) := by
  simp only [fillWord]
  generalize (match m.find? (line * 8 + j) with
    | some w => w.owned
    | none => false) = keep
  split
  · exact KMap.find?_put_ne m _ (by omega)
  · rfl

theorem find?_fillWord_self (line : Nat) (ws : List Word) {valid : Nat} (poison owned : Nat) {m : KMap CWord} {i : Nat}
    (hv : bitAt valid i = true) (h : m.find? (line * 8 + i) = none) :
    (fillWord line ws valid poison owned m i).find? (line * 8 + i) =
      some ⟨(ws[i]?).getD 0, bitAt owned i, bitAt poison i⟩ := by
  simp [fillWord, h, hv]

theorem find?_foldl_fillWord_ne (line : Nat) (ws : List Word) (valid poison owned : Nat) {i : Nat} (l : List Nat)
    (m : KMap CWord) (h : i ∉ l) :
    (l.foldl (fillWord line ws valid poison owned) m).find? (line * 8 + i) = m.find? (line * 8 + i) := by
  induction l generalizing m with
  | nil => rfl
  | cons j l ih =>
    obtain ⟨hj, hl⟩ : i ≠ j ∧ i ∉ l := by simpa using h
    rw [List.foldl_cons, ih _ hl, find?_fillWord_ne _ _ _ _ _ _ hj]

theorem find?_foldl_fillWord (line : Nat) (ws : List Word) {valid : Nat} (poison owned : Nat) {i : Nat} (l : List Nat)
    {m : KMap CWord} (hl : l.Nodup) (hi : i ∈ l) (hv : bitAt valid i = true) (h : m.find? (line * 8 + i) = none) :
    (l.foldl (fillWord line ws valid poison owned) m).find? (line * 8 + i) =
      some ⟨(ws[i]?).getD 0, bitAt owned i, bitAt poison i⟩ := by
  induction l generalizing m with
  | nil => cases hi
  | cons j l ih =>
    obtain ⟨hj, hl⟩ := List.nodup_cons.mp hl
    rw [List.foldl_cons]
    by_cases hji : i = j
    · subst hji
      rw [find?_foldl_fillWord_ne _ _ _ _ _ _ _ hj]
      exact find?_fillWord_self line ws poison owned hv h
    · exact ih hl ((List.mem_cons.mp hi).resolve_left hji) (by rw [find?_fillWord_ne _ _ _ _ _ _ hji, h])

/-- A word that the cache does not hold is filled. -/
theorem find?_fillWords (line : Nat) (ws : List Word) {valid : Nat} (poison owned : Nat) {m : KMap CWord} {i : Nat} (hi : i < 8)
    (hv : bitAt valid i = true) (h : m.find? (line * 8 + i) = none) :
    (fillWords m line ws valid poison owned).find? (line * 8 + i) =
      some ⟨(ws[i]?).getD 0, bitAt owned i, bitAt poison i⟩ :=
  find?_foldl_fillWord line ws poison owned _ List.nodup_range (List.mem_range.mpr hi) hv h

theorem find?_ne_none_of_mem {α : Type} {m : KMap α} {k : Nat} {x : α} (h : (k, x) ∈ m) : KMap.find? m k ≠ none := by
  induction m with
  | nil => cases h
  | cons e m ih =>
    obtain ⟨j, y⟩ := e
    rw [KMap.find?]
    split
    · exact fun h => nomatch h
    · next hj =>
      obtain h | h := List.mem_cons.mp h
      · exact absurd (congrArg Prod.fst h).symm hj
      · exact ih h

theorem find?_filter_none {α : Type} {m : KMap α} {k : Nat} (f : Nat × α → Bool) (h : m.find? k = none) :
    KMap.find? (m.filter f) k = none := by
  cases hf : KMap.find? (m.filter f) k with
  | none => rfl
  | some x =>
    have hm := List.mem_of_mem_filter (mem_of_find? hf)
    exact absurd h (find?_ne_none_of_mem hm)

/-- The room that a fill takes costs copies of other lines only. -/
theorem State.cacheRoom_same (s : State) (p line : Nat) : ∃ d, (s.cacheRoom p line).core p = { s.core p with dcache := d } ∧
    (∀ w, (s.core p).dcache.find? w = none → KMap.find? d w = none) ∧ (s.cacheRoom p line).mem = s.mem := by
  simp only [State.cacheRoom]
  split
  · exact ⟨_, rfl, fun _ h => h, rfl⟩
  · split
    · exact ⟨_, rfl, fun _ h => h, rfl⟩
    · split
      · exact ⟨_, rfl, fun _ h => h, rfl⟩
      · exact ⟨_, State.core_setCore_self s p _, fun _ h => find?_filter_none _ h, rfl⟩

/-- What is held of a line for a load of context `k`. -/
noncomputable def heldLine (k line : Nat) (ws : List Word) (v q cyc : Nat) : Hold :=
  { ctx := k, line := line, data := ws, valid := v, poison := q, cyc := cyc, fault := none }

theorem mem_addHold (hs : List Hold) (h : Hold) : h ∈ addHold hs h := by simp [addHold]

/-- The line is there: it is held for the load that asked, and its words enter the cache unless the request is stale. -/
theorem State.fillArrives_data {s : State} {p k : Nat} {r : LineReq} (h : (s.core p).lineReqs = [r])
    (hr : r.waiters = [(k, .ld)]) (ws : List Word) (v q o : Nat) :
    let t := s.fillArrives p r (.data ws v q o)
    (t.core p).lineReqs = [] ∧ (t.core p).ctxs = (s.core p).ctxs ∧ t.mem = s.mem ∧
    (r.stale = false → ∀ i, i < 8 → bitAt v i = true → (s.core p).dcache.find? (r.line * 8 + i) = none →
      (t.core p).dcache.find? (r.line * 8 + i) = some ⟨(ws[i]?).getD 0, bitAt o i, bitAt q i⟩) ∧
    (r.stale = true → (t.core p).dcache = (s.core p).dcache) ∧
    ∃ g ∈ (t.core p).holds, g.ctx = k ∧ g.line = r.line ∧ g.data = ws ∧ g.valid = v ∧ g.fault = none := by
  intro t
  have hnew := fun d hs => mem_addHold hs (heldLine k r.line ws v q d)
  cases hs : r.stale with
  | true =>
    have ht : t.core p = { s.core p with
        lineReqs := [], holds := addHold (s.core p).holds (heldLine k r.line ws v q (s.core p).cyc) } := by
      simp [t, State.fillArrives, h, hr, hs, heldLine]
    rw [ht]
    exact ⟨rfl, rfl, by simp [t, State.fillArrives, h, hr, hs], fun h => Bool.noConfusion h, fun _ => rfl,
      _, hnew _ _, rfl, rfl, rfl, rfl, rfl⟩
  | false =>
    obtain ⟨d, hd, hnone, hm⟩ := (s.setCore p { s.core p with lineReqs := [] }).cacheRoom_same p r.line
    rw [State.core_setCore_self] at hd hnone
    have ht : t.core p = { s.core p with
        lineReqs := [], dcache := fillWords d r.line ws v q o
        holds := addHold ((s.core p).holds.map fun h => h.renew r.line ws v q) (heldLine k r.line ws v q (s.core p).cyc) } := by
      simp [t, State.fillArrives, h, hr, hs, heldLine, hd]
    rw [ht]
    refine ⟨rfl, rfl, ?_, fun _ i hi hv hc => find?_fillWords _ _ _ _ hi hv (hnone _ hc), fun h => Bool.noConfusion h,
      _, hnew _ _, rfl, rfl, rfl, rfl, rfl⟩
    simpa [t, State.fillArrives, h, hr, hs] using hm

/-- The wakes of a line that one context waits for. -/
theorem State.fillWakes_one {s : State} {p k a b : Nat} {r : LineReq} (hk : k < 16) (hr : r.waiters = [(k, .ld)])
    (hw : (s.ctx p k).wait = some ⟨.line r.line, a, b⟩) : CtxsOnly s (s.fillWakes p r) ∧
      (s.fillWakes p r).ctx p k = (s.ctx p k).awake := by
  have hwake : s.fillWakes p r = (s.setCtx p k (s.ctx p k).awake).wakeIf p (· == .busy 0) := by
    simp only [State.fillWakes, hr, List.map_cons, List.map_nil, List.foldl_cons, List.foldl_nil, hw, beq_self_eq_true,
      if_true]
    rw [State.wake_plain hw rfl]
  obtain ⟨honly, hctx⟩ := (s.setCtx p k (s.ctx p k).awake).ctx_wakeIf (f := (· == .busy 0))
    (by simp +contextual [WaitOn.plain]) p
  rw [hwake]
  refine ⟨(CtxsOnly.setCtx s p k _).trans honly, ?_⟩
  rw [hctx, if_pos ⟨rfl, hk⟩, State.ctx_setCtx_self]
  exact Ctx.roused_of_not fun w h => nomatch h

@[simp] theorem State.pagePending_setCore (s : State) (p : Nat) (c : Core) (key : Nat) :
    (s.setCore p c).pagePending key = s.pagePending key := rfl

theorem fillArrives_fault {s : State} {p k : Nat} {r : LineReq} (h : (s.core p).lineReqs = [r])
    (hr : r.waiters = [(k, .ld)]) (cause : Nat) : let t := s.fillArrives p r (.fault cause)
    (t.core p).lineReqs = [] ∧ (t.core p).ctxs = (s.core p).ctxs ∧ t.mem = s.mem ∧
    ∃ g ∈ (t.core p).holds, g.ctx = k ∧ g.line = r.line ∧ g.fault = some cause := by
  intro t
  have ht : t.core p = { s.core p with
      lineReqs := [], holds := addHold (s.core p).holds { heldLine k r.line [] 0 0 (s.core p).cyc with
        fault := some cause } } := by
    simp [t, State.fillArrives, h, hr, heldLine]
  rw [ht]
  exact ⟨rfl, rfl, rfl, _, mem_addHold _ _, rfl, rfl, rfl⟩

theorem fillArrives_absent {s : State} {p k : Nat} {r : LineReq} (h : (s.core p).lineReqs = [r])
    (hr : r.waiters = [(k, .ld)]) : let t := s.fillArrives p r .absent
    (t.core p).lineReqs = [] ∧ (t.core p).ctxs = (s.core p).ctxs ∧ t.mem = s.mem ∧
    (s.pagePending (pageKey r.dom r.va) = true →
      ∃ e ∈ (t.core p).absents, e.ctx = k ∧ e.line = r.line ∧ e.page = pageKey r.dom r.va) := by
  intro t
  cases hp : s.pagePending (pageKey r.dom r.va) with
  | true =>
    have ht : t.core p = { s.core p with
        lineReqs := [], absents := ((s.core p).clearAbsent k r.line false).absents ++
          [{ ctx := k, line := r.line, page := pageKey r.dom r.va, host := isHost r.va
             failed := s.priFailed.contains (pageKey r.dom r.va) }] } := by
      simp [t, State.fillArrives, h, hr, hp, Core.clearAbsent, show (Want.ld == Want.pfx) = false from rfl]
    rw [ht]
    refine ⟨rfl, rfl, ?_, fun _ => ⟨_, by simp only [List.mem_append, List.mem_singleton]; exact .inr rfl, rfl, rfl, rfl⟩⟩
    simp [t, State.fillArrives, h, hr, hp]
  | false =>
    have ht : t = s.setCore p { s.core p with lineReqs := [] } := by
      simp [t, State.fillArrives, h, hp]
    rw [ht, State.core_setCore_self]
    exact ⟨rfl, rfl, rfl, fun h => Bool.noConfusion h⟩

/-- What arrives is there for the context that waits for the line, and the context executes again. -/
theorem lineArrival_one {s : State} {p k line a b : Nat} {r : LineReq} {f : Fill} (hk : k < 16) (h : (s.core p).lineReqs = [r])
    (hl : r.line = line) (hr : r.waiters = [(k, .ld)]) (hw : (s.ctx p k).wait = some ⟨.line line, a, b⟩)
    (hf : r.fill = some f) (hctx : ((s.fillArrives p r f).core p).ctxs = (s.core p).ctxs) :
    ∃ t, exec (.lineArrival p line) s = .next t ∧ CtxsOnly (s.fillArrives p r f) t ∧ (t.ctx p k).wait = none ∧
      (t.ctx p k).ip = (s.ctx p k).ip := by
  have hsame : (s.fillArrives p r f).ctx p k = s.ctx p k := congrArg (fun m : KMap Ctx => m.get k {}) hctx
  have hw' : ((s.fillArrives p r f).ctx p k).wait = some ⟨.line r.line, a, b⟩ := by rw [hsame, hw, hl]
  obtain ⟨honly, hawake⟩ := State.fillWakes_one hk hr hw'
  refine ⟨_, exec_lineArrival h hl hf, honly, ?_⟩
  rw [hawake, hsame]
  exact ⟨rfl, rfl⟩

/-! ### The end of a held line (R263) -/

theorem exec_holdWindowEnd {s : State} {p k line : Nat} {g : Hold} (h : (s.core p).holds = [g]) (hk : g.ctx = k)
    (hl : g.line = line) (hf : g.fault = none) : exec (.holdWindowEnd p k line) s = .next
      (if g.cyc + 512 ≤ (s.core p).cyc then s.setCore p (Core.dropUnowned { s.core p with holds := [] } line) else s) := by
  show execHoldWindowEnd p k line s = _
  simp [execHoldWindowEnd, h, hk, hl, hf]

theorem CtxsOnly.core_lineReqs {s t : State} (h : CtxsOnly s t) (p : Nat) : (t.core p).lineReqs = (s.core p).lineReqs := by
  have e := congrArg Core.lineReqs (h.cores p)
  exact e

theorem CtxsOnly.core_dcache {s t : State} (h : CtxsOnly s t) (p : Nat) : (t.core p).dcache = (s.core p).dcache := by
  have e := congrArg Core.dcache (h.cores p)
  exact e

theorem CtxsOnly.core_holds {s t : State} (h : CtxsOnly s t) (p : Nat) : (t.core p).holds = (s.core p).holds := by
  have e := congrArg Core.holds (h.cores p)
  exact e

theorem CtxsOnly.core_absents {s t : State} (h : CtxsOnly s t) (p : Nat) : (t.core p).absents = (s.core p).absents := by
  have e := congrArg Core.absents (h.cores p)
  exact e

/-- Settles O43: a line that arrives is where it was asked for, and those who wait for it go on. -/
theorem lineEvents : Obligations.LineEvents := by
  intro p k line s hk c x va
  refine ⟨fun a b hw => ⟨fun hno => ?_, fun pa l hwin ha hx hl => ?_⟩, fun r h hl => ⟨fun hf => ⟨fun pa l hx hline => ?_,
    fun u hx hc => ?_, fun u cause hx hc => ?_⟩, fun hr a b hw f hf => ?_⟩, fun g h hgk hgl hgf => ⟨fun hy => ?_, fun ho => ?_⟩⟩
  · exact ⟨_, (exec_lineFetch hw).trans (congrArg _ (fetchLine_refused k hno)), State.fetchFails_ctx hw va 6⟩
  · have hallowed : ((isHost va || isDevice va) && c.allowed va rX) = true := by
      rw [ha, Bool.and_true, Bool.or_eq_true]
      exact hwin
    exact ⟨_, exec_lineFetch hw, fetchLine_enters hk hw hallowed hx hl⟩
  · exact lineRequest_found h hl hf hx hline
  · obtain ⟨t, ht, -, hreqs⟩ := lineRequest_answered (u := u.refused r.dom r.va) (f := .absent) h hl hf
      (by simp only [State.lineAnswer, hx]) ((State.refused_cores _ _ _).trans hc)
    exact ⟨t, ht, hreqs⟩
  · obtain ⟨t, ht, -, hreqs⟩ := lineRequest_answered (u := u.refused r.dom r.va) (f := .fault cause) h hl hf
      (by simp only [State.lineAnswer, hx]) ((State.refused_cores _ _ _).trans hc)
    exact ⟨t, ht, hreqs⟩
  · cases f with
    | data ws v q o =>
      obtain ⟨hreqs, hctx, hm, hfill, hstale, hheld⟩ := State.fillArrives_data h hr ws v q o
      obtain ⟨t, ht, honly, hwait, hip⟩ := lineArrival_one hk h hl hr hw hf hctx
      refine ⟨t, ht, (honly.core_lineReqs p).trans hreqs, hwait, hip, honly.mem.trans hm, fun ws' v' q' o' hd => ?_,
        (fun _ hd => nomatch hd), fun hd => nomatch hd⟩
      cases hd
      rw [honly.core_dcache, honly.core_holds, ← hl]
      exact ⟨hfill, hstale, hheld⟩
    | absent =>
      obtain ⟨hreqs, hctx, hm, hnote⟩ := fillArrives_absent h hr
      obtain ⟨t, ht, honly, hwait, hip⟩ := lineArrival_one hk h hl hr hw hf hctx
      refine ⟨t, ht, (honly.core_lineReqs p).trans hreqs, hwait, hip, honly.mem.trans hm, (fun _ _ _ _ hd => nomatch hd),
        (fun _ hd => nomatch hd), fun _ => ?_⟩
      rw [honly.core_absents, ← hl]
      exact hnote
    | fault cause =>
      obtain ⟨hreqs, hctx, hm, hheld⟩ := fillArrives_fault h hr cause
      obtain ⟨t, ht, honly, hwait, hip⟩ := lineArrival_one hk h hl hr hw hf hctx
      refine ⟨t, ht, (honly.core_lineReqs p).trans hreqs, hwait, hip, honly.mem.trans hm, (fun _ _ _ _ hd => nomatch hd),
        fun cause' hd => ?_, fun hd => nomatch hd⟩
      cases hd
      rw [honly.core_holds, ← hl]
      exact hheld
  · rw [exec_holdWindowEnd h hgk hgl hgf, if_neg (Nat.not_le.mpr hy)]
  · refine ⟨_, (exec_holdWindowEnd h hgk hgl hgf).trans (congrArg _ (if_pos ho)), ?_⟩
    rw [State.core_setCore_self]
    refine ⟨rfl, fun e he hline => ?_, fun e he hkeep => ?_, rfl⟩
    · have hm := (List.mem_filter.mp he).2
      simpa [hline] using hm
    · refine List.mem_filter.mpr ⟨he, ?_⟩
      simpa using hkeep

end Sys2Proof.Machine
end

section
/-! The issue selector, spills, fills and held traps (R11, R28, R32, R33, R394, R439, R442, R470). -/

namespace Sys2Proof.Machine
open Sys2Proof

/-! ### Words written to a local store by an engine or a spill -/

theorem State.wakeWatch_mem (s : State) (w : Watch) : (s.wakeWatch w).mem = s.mem := by
  simp only [State.wakeWatch]
  split
  · rfl
  · split
    · rfl
    · have hw := s.wake_mem w.pid w.ctx
      have hif : (if w.changing then (s.wake w.pid w.ctx).setCtx w.pid w.ctx
          { (s.wake w.pid w.ctx).ctx w.pid w.ctx with front := true } else s.wake w.pid w.ctx).mem = s.mem := by
        split <;> exact hw
      split
      · exact hif
      · exact hif
      · exact hif
      · exact hif
      · rfl

theorem State.lsWake_mem (s : State) (p off : Nat) (changed full wrote : Bool) :
    (s.lsWake p off changed full wrote).mem = s.mem := by
  have hfold : ∀ (l : List Watch) (s : State), (l.foldl State.wakeWatch s).mem = s.mem := fun l => by
    induction l with
    | nil => exact fun _ => rfl
    | cons w l ih => exact fun s => (ih _).trans (s.wakeWatch_mem w)
  have hif : ∀ {c : Prop} [Decidable c] (l : List Watch) (u : State), u.mem = s.mem →
      (if c then s else l.foldl State.wakeWatch u).mem = s.mem := fun l u hu => by
    split
    · rfl
    · exact (hfold l u).trans hu
  simp only [State.lsWake]
  split
  · exact hif _ _ rfl
  · exact hif _ _ rfl

/-- A step of a word of a local store writes that word or nothing. -/
theorem State.lsStep_mem (s : State) (p off : Nat) (f : Nat → Word → Bool → Bool → OpRes) :
    let a := lsAddr p off / 8 * 8
    let r := f (off % 8) (BitVec.ofNat 64 (s.rd a 8)) (s.isFull a) (s.isPoison a)
    (s.lsStep p off f).1.mem = if r.wrote then Memory.writeN s.mem a 8 r.w.toNat else s.mem := by
  intro a r
  rw [State.lsStep, State.lsWake_mem]
  have hmarks : ∀ (b c : Prop) [Decidable b] [Decidable c] (u : State),
      (if c then (if b then u.setPoison a r.poison else u).setFull a r.full
        else (if b then u.setPoison a r.poison else u)).mem = u.mem := fun b c _ _ u => by
    split <;> split <;> rfl
  refine (hmarks _ _ _).trans ?_
  show (if r.wrote = true then s.wr a 8 r.w.toNat else s).mem = _
  split <;> rfl

theorem lsAddr_add {p off n : Nat} (h : off + n < 2 ^ 20) : lsAddr p (off + n) = lsAddr p off + n := by
  simp only [lsAddr, Nat.mod_eq_of_lt h, Nat.mod_eq_of_lt (show off < 2 ^ 20 by omega)]
  omega

/-- The memory with the words `ws` at `a`. -/
noncomputable def Memory.putWords (m : List Host.Cell) (a : Nat) : List Word → List Host.Cell
  | [] => m
  | w :: ws => Memory.putWords (Memory.writeN m a 8 w.toNat) (a + 8) ws

theorem Memory.read_putWords_out (m : List Host.Cell) {a b : Nat} (ws : List Word) (h : b < a ∨ a + 8 * ws.length ≤ b) :
    Memory.read (Memory.putWords m a ws) b = Memory.read m b := by
  induction ws generalizing m a with
  | nil => rfl
  | cons w ws ih =>
    rw [List.length_cons] at h
    rw [Memory.putWords, ih _ (by omega), Memory.read_writeN_out _ _ _ (by omega)]

theorem Memory.readN_putWords_out (m : List Host.Cell) {a b n : Nat} (ws : List Word)
    (h : b + n ≤ a ∨ a + 8 * ws.length ≤ b) : Memory.readN (Memory.putWords m a ws) b n = Memory.readN m b n := by
  induction ws generalizing m a with
  | nil => rfl
  | cons w ws ih =>
    rw [List.length_cons] at h
    rw [Memory.putWords, ih _ (by omega), Memory.readN_writeN_out _ _ _ (by omega)]

theorem Memory.readN_putWords (m : List Host.Cell) (a : Nat) {ws : List Word} {j : Nat} (h : j < ws.length) :
    Memory.readN (Memory.putWords m a ws) (a + 8 * j) 8 = (ws[j]).toNat := by
  induction ws generalizing m a j with
  | nil => cases h
  | cons w ws ih =>
    rw [Memory.putWords]
    cases j with
    | zero =>
      rw [Memory.readN_putWords_out _ _ (by omega), Nat.mul_zero, Nat.add_zero, Memory.readN_writeN]
      exact Nat.mod_eq_of_lt w.isLt
    | succ j =>
      rw [show a + 8 * (j + 1) = a + 8 + 8 * j by omega, ih _ _ (by simpa using h)]
      rfl

/-- A record at a multiple of 8 of a local store takes its words, and nothing else in memory. -/
theorem putRecord_mem_from {p off : Nat} (h8 : off % 8 = 0) (ws : List Word) (n : Nat) (s : State)
    (hfit : off + 8 * (n + ws.length) ≤ 2 ^ 20) :
    ((ws.zipIdx n).foldl (fun s e => (s.lsStep p (off + 8 * e.2) fun _ _ full _ => ⟨.ok 0, e.1, full, false, true⟩).1) s).mem =
      Memory.putWords s.mem (lsAddr p off + 8 * n) ws := by
  induction ws generalizing n s with
  | nil => rfl
  | cons w ws ih =>
    rw [List.length_cons] at hfit
    rw [List.zipIdx_cons, List.foldl_cons, ih (n + 1) _ (by omega), State.lsStep_mem, Memory.putWords]
    have ha : lsAddr p (off + 8 * n) / 8 * 8 = lsAddr p off + 8 * n := by
      rw [lsAddr_word (by omega), lsAddr_add (by omega)]
    rw [ha]
    rfl

theorem State.putRecord_mem (s : State) {p off : Nat} (h8 : off % 8 = 0) {ws : List Word}
    (hfit : off + 8 * ws.length ≤ 2 ^ 20) : (s.putRecord p off ws).mem = Memory.putWords s.mem (lsAddr p off) ws :=
  putRecord_mem_from h8 ws 0 s (by rwa [Nat.zero_add])

/-! ### Spills and fills (R33) -/

theorem find?_filter_key {α : Type} (m : KMap α) {k : Nat} (f : Nat → Bool) (h : f k = true) :
    KMap.find? (m.filter fun e => f e.1) k = m.find? k := by
  induction m with
  | nil => rfl
  | cons e m ih =>
    obtain ⟨j, x⟩ := e
    rw [List.filter_cons]
    by_cases hj : j = k
    · subst hj
      simp [h, KMap.find?]
    · split
      · simp [KMap.find?, hj, ih]
      · simp [KMap.find?, hj, ih]

/-- The words of a half that a fill or a spill moves. -/
noncomputable def Ctx.half (x : Ctx) (h : Nat) : List Word := (List.range 8).map fun j => x.win.get (8 * h + j) 0

@[simp] theorem Ctx.length_half (x : Ctx) (h : Nat) : (x.half h).length = 8 := by simp [Ctx.half]

/-- The context whose oldest half has been spilled. -/
noncomputable def Ctx.spilled (x : Ctx) : Ctx :=
  { x with win := x.win.filter (fun e => e.1 / 8 != x.wlow), wlow := x.wlow + 1, wsp := x.wsp + 64 }

theorem State.spillHalf_eq (s : State) (p k : Nat) : s.spillHalf p k =
    (s.putRecord p (s.ctx p k).wsp ((s.ctx p k).half (s.ctx p k).wlow)).setCtx p k (s.ctx p k).spilled := rfl

theorem Ctx.reg_spilled {x : Ctx} (h : x.spillDue = true) (r : Spec) : x.spilled.reg r = x.reg r := by
  have hdue : 5 < x.wbase + 2 - x.wlow := by simpa [Ctx.spillDue] using h
  by_cases hw : 16 ≤ r.toNat ∧ r.toNat < 32
  · obtain ⟨h16, h32⟩ := hw
    have hkey : (8 * x.wbase + (r.toNat - 16)) / 8 ≠ x.wlow := by omega
    simp only [Ctx.reg, show r.toNat ≠ 0 by omega, show ¬ r.toNat < 16 by omega, h32, if_true, if_false, Ctx.spilled, KMap.get]
    rw [find?_filter_key x.win (fun k => k / 8 != x.wlow) (by simpa using hkey)]
  · by_cases hlow : r.toNat < 16
    · simp only [Ctx.reg, hlow, if_true]
      rfl
    · simp only [Ctx.reg, hlow, show ¬ r.toNat < 32 by omega, if_false]
      rfl

/-- A spill writes the oldest half to the window stack; the registers read the same. -/
theorem windowSpill_spills {s : State} {p k : Nat} (hlive : (s.ctx p k).live = true) (hdue : (s.ctx p k).spillDue = true)
    (h8 : (s.ctx p k).wsp % 8 = 0) (hfit : (s.ctx p k).wsp + 64 ≤ 2 ^ 20) :
    let x := s.ctx p k
    ∃ t, exec (.windowSpill p k) s = .next t ∧ (t.ctx p k).wlow = x.wlow + 1 ∧ (t.ctx p k).wsp = x.wsp + 64 ∧
      (∀ r, (t.ctx p k).reg r = x.reg r) ∧
      (∀ j, j < 8 → BitVec.ofNat 64 (t.rd (lsAddr p (x.wsp + 8 * j)) 8) = x.win.get (8 * x.wlow + j) 0) ∧
      SameBytes s t (lsAddr p x.wsp) 64 := by
  intro x
  have hfit' : x.wsp + 64 ≤ 2 ^ 20 := hfit
  have hmem : (s.spillHalf p k).mem = Memory.putWords s.mem (lsAddr p x.wsp) (x.half x.wlow) := by
    rw [State.spillHalf_eq, State.setCtx_mem, State.putRecord_mem s h8 (by rw [Ctx.length_half]; exact hfit)]
  have hctx : (s.spillHalf p k).ctx p k = x.spilled := by rw [State.spillHalf_eq, State.ctx_setCtx_self]
  refine ⟨s.spillHalf p k, ?_, ?_, ?_, fun r => ?_, fun j hj => ?_, fun b hb => ?_⟩
  · show execWindowSpill p k s = _
    simp [execWindowSpill, hlive, hdue]
  · rw [hctx]
    rfl
  · rw [hctx]
    rfl
  · rw [hctx, Ctx.reg_spilled hdue]
  · rw [State.rd, hmem, lsAddr_add (by omega), Memory.readN_putWords _ _ (by rw [Ctx.length_half]; exact hj)]
    simp [Ctx.half]
  · rw [hmem, Memory.read_putWords_out _ _ (by rw [Ctx.length_half]; exact hb)]

theorem find?_foldl_put {α : Type} (g : Nat → α) (b n : Nat) (m : KMap α) :
    (∀ j, j < n → KMap.find? ((List.range n).foldl (fun m j => m.put (b + j) (g j)) m) (b + j) = some (g j)) ∧
    ∀ k, k < b ∨ b + n ≤ k → KMap.find? ((List.range n).foldl (fun m j => m.put (b + j) (g j)) m) k = m.find? k := by
  induction n with
  | zero => exact ⟨fun j hj => absurd hj (by omega), fun k _ => rfl⟩
  | succ n ih =>
    obtain ⟨hin, hout⟩ := ih
    simp only [List.range_succ, List.foldl_append, List.foldl_cons, List.foldl_nil]
    refine ⟨fun j hj => ?_, fun k hk => ?_⟩
    · by_cases hjn : j = n
      · subst hjn
        exact KMap.find?_put_self _ _ _
      · rw [KMap.find?_put_ne _ _ (by omega), hin j (by omega)]
    · rw [KMap.find?_put_ne _ _ (by omega), hout k (by omega)]

/-- A fill brings the half below back. -/
theorem windowFill_fills {s : State} {p k : Nat} (hlive : (s.ctx p k).live = true) (hdue : (s.ctx p k).fillDue = true) :
    let x := s.ctx p k
    ∃ t, exec (.windowFill p k) s = .next t ∧ (t.ctx p k).wlow = x.wlow - 1 ∧ (t.ctx p k).wsp = x.wsp - 64 ∧ t.mem = s.mem ∧
      (∀ j, j < 8 → (t.ctx p k).win.get (8 * (x.wlow - 1) + j) 0 =
        BitVec.ofNat 64 (s.rd (lsAddr p (x.wsp - 64 + 8 * j)) 8)) ∧
      ∀ h j, h ≠ x.wlow - 1 → j < 8 → (t.ctx p k).win.get (8 * h + j) 0 = x.win.get (8 * h + j) 0 := by
  intro x
  obtain ⟨hin, hout⟩ := find?_foldl_put (fun j => (BitVec.ofNat 64 (s.rd (lsAddr p (x.wsp - 64 + 8 * j)) 8) : Word))
    (8 * (x.wlow - 1)) 8 x.win
  refine ⟨s.fillHalf p k, ?_, ?_⟩
  · show execWindowFill p k s = _
    simp [execWindowFill, hlive, hdue]
  · rw [State.fillHalf, State.ctx_setCtx_self]
    refine ⟨rfl, rfl, rfl, fun j hj => ?_, fun h j hh hj => ?_⟩
    · rw [KMap.get, hin j hj]
      rfl
    · rw [KMap.get, hout _ (by omega)]
      rfl

/-! ### The choice (R28, R32) -/

theorem State.tick_eq (s : State) (p : Nat) : s.tick p = s.setCore p { s.core p with cyc := (s.core p).cyc + 1 } := rfl

/-- A core whose halves are all in place moves none. -/
theorem State.moveFirst_none {s : State} {p : Nat} (h : ∀ j, ((s.core p).ctx j).live = true →
    ((s.core p).ctx j).spillDue = false ∧ ((s.core p).ctx j).fillDue = false) : s.moveFirst p = s := by
  have hnone : ((List.range 16).find? fun k => (s.ctx p k).live && ((s.ctx p k).spillDue || (s.ctx p k).fillDue)) = none := by
    rw [List.find?_eq_none]
    intro k _ hk
    obtain ⟨hlive, hdue⟩ := Bool.and_eq_true_iff.mp hk
    obtain ⟨hs, hf⟩ := h k hlive
    rw [show (s.ctx p k).spillDue = false from hs, show (s.ctx p k).fillDue = false from hf] at hdue
    exact Bool.noConfusion hdue
  simp only [State.moveFirst, hnone]

theorem State.select_eq {s : State} {p : Nat} (hc : isCore p = true) (hg : (s.core p).gated = false) :
    s.select p = if (s.turnOf p).issue then s.turnOf p else (s.turnOf p).tick p := by
  simp [State.select, hc, hg]

theorem State.turnOf_stopped {s : State} {p : Nat} (h : (s.core p).stopped = true) : s.turnOf p = s.moveFirst p := by
  simp [State.turnOf, h]

theorem State.turnOf_none {s : State} {p : Nat} (hs : (s.core p).stopped = false) (hf : (s.core p).finishing = none)
    (hm : (s.core p).migrate = none) (hq : (s.core p).choose = none) : s.turnOf p = s.moveFirst p := by
  simp [State.turnOf, State.migrationDue, hs, hf, hm, hq]

theorem State.turnOf_some {s : State} {p : Nat} {q : Pick} (hs : (s.core p).stopped = false)
    (hf : (s.core p).finishing = none) (hm : (s.core p).migrate = none) (hq : (s.core p).choose = some q)
    (hr : (s.core p).ready q.k = true) : s.turnOf p = (s.setCore p ((s.core p).issued q)).giveTurn p q.k := by
  simp [State.turnOf, State.migrationDue, hs, hf, hm, hq, hr]

theorem Core.choose_idle {c : Core} (h : ∀ j, c.inTurn j = false) : c.choose = none := by
  have hnone : (rotation c.rot).find? c.inTurn = none := by simp [List.find?_eq_none, h]
  have hrot : c.rotate = none := by simp only [Core.rotate, hnone]
  have hready : c.ready 0 = false := by simp [Core.ready, h]
  simp [Core.choose, hrot, hready]

/-- The first context in turn, in the order that begins behind the last one chosen. -/
theorem find?_rotation {c : Core} {i : Nat} (hi : i < 16) (h : c.inTurn ((c.rot + 1 + i) % 16) = true)
    (hlt : ∀ j, j < i → c.inTurn ((c.rot + 1 + j) % 16) = false) :
    (rotation c.rot).find? c.inTurn = some ((c.rot + 1 + i) % 16) := by
  have hfind : (List.range 16).find? (c.inTurn ∘ fun j => (c.rot + 1 + j) % 16) = some i :=
    List.find?_range_eq_some.mpr ⟨h, List.mem_range.mpr hi, fun j hj => by simpa using hlt j hj⟩
  rw [rotation, List.find?_map, hfind]
  rfl

/-- The next context in the rotation is chosen, unless the floor of context 0 speaks (R28). -/
theorem Core.choose_next {c : Core} {i k : Nat} (hi : i < 16) (hk : k = (c.rot + 1 + i) % 16) (hr : c.ready k = true)
    (hlt : ∀ j, j < i → c.inTurn ((c.rot + 1 + j) % 16) = false) (hfloor : c.floor = none)
    (hlast : k = 0 ∨ c.cyc ≤ c.last0 + 16) : c.choose = some ⟨k, k, none⟩ := by
  have hturn : c.inTurn k = true := by
    simp only [Core.ready, Bool.and_eq_true] at hr
    exact hr.1.1
  have hfind := find?_rotation hi (hk ▸ hturn) hlt
  rw [← hk] at hfind
  have hrot : c.rotate = some ⟨k, k, none⟩ := by
    simp only [Core.rotate, hfind, hfloor]
    cases k with
    | zero => rfl
    | succ n => rfl
  have hno : (c.ready 0 && decide (c.last0 + 16 < c.cyc) && (c.rotate.map (·.k)) != some 0) = false := by
    obtain rfl | hl := hlast
    · simp [hrot]
    · simp [Nat.not_lt.mpr hl]
  simp only [Core.choose, hno, Bool.false_eq_true, if_false]
  exact hrot

/-- Context 0 is chosen in front of the rotation when it has not issued for 16 cycles. -/
theorem Core.choose_overdue {c : Core} (hr : c.ready 0 = true) (hnext : c.inTurn (c.rot + 1) = true) (hpos : 0 < c.rot)
    (hlt : c.rot < 15) (hlast : c.last0 + 16 < c.cyc) : c.choose = some ⟨0, c.rot, some c.cyc⟩ := by
  have hmod : (c.rot + 1 + 0) % 16 = c.rot + 1 := by omega
  have hfind := find?_rotation (i := 0) (by decide) (by rw [hmod]; exact hnext) fun j hj => absurd hj (by omega)
  rw [hmod] at hfind
  have hrot : c.rotate = some ⟨c.rot + 1, c.rot + 1, c.floor⟩ := by
    simp only [Core.rotate, hfind]
  have hyes : (c.ready 0 && decide (c.last0 + 16 < c.cyc) && (c.rotate.map (·.k)) != some 0) = true := by
    simp [hr, hrot, hlast]
  simp only [Core.choose, hyes, if_true]

theorem find?_mapKeys {α : Type} (m : KMap α) (g : Nat → α → α) (k : Nat) :
    KMap.find? (m.map fun e => (e.1, g e.1 e.2)) k = (m.find? k).map (g k) := by
  induction m with
  | nil => rfl
  | cons e m ih =>
    obtain ⟨j, x⟩ := e
    rw [List.map_cons, KMap.find?, KMap.find?]
    by_cases hj : j = k
    · subst hj
      simp
    · simp [hj, ih]

/-- The context of an issue is as it was, but for the turn that it had yielded. -/
theorem Core.ctx_issued_self (c : Core) (q : Pick) : (c.issued q).ctx q.k = { c.ctx q.k with yielded := none } := by
  have hfind := find?_mapKeys c.ctxs (fun k x => if k = q.k then { x with yielded := none }
    else { x with yielded := x.yielded.map fun y => (y.1, y.2.filter (· != q.k)) }) q.k
  simp only [Core.ctx, Core.issued, KMap.get, hfind]
  cases KMap.find? c.ctxs q.k with
  | none => rfl
  | some x => simp

/-- A ready context without a trap or a check in its way issues. -/
theorem issueSelection_issues {s : State} {p : Nat} {q : Pick} (hc : isCore p = true) (hg : (s.core p).gated = false)
    (hs : (s.core p).stopped = false) (hf : (s.core p).finishing = none) (hm : (s.core p).migrate = none)
    (hq : (s.core p).choose = some q) (hr : (s.core p).ready q.k = true) (hheld : (s.ctx p q.k).held = [])
    (hentry : (s.ctx p q.k).entryCheck = false) :
    exec (.issueSelection p) s = .next ((s.setCore p ((s.core p).issued q)).issueGroup p q.k) := by
  have hctx : (s.setCore p ((s.core p).issued q)).ctx p q.k = { s.ctx p q.k with yielded := none } := by
    rw [State.ctx, State.core_setCore_self, Core.ctx_issued_self]
    rfl
  have hturn : s.turnOf p = (s.setCore p ((s.core p).issued q)).issueGroup p q.k := by
    rw [State.turnOf_some hs hf hm hq hr]
    simp [State.giveTurn, hctx, hheld, hentry]
  show Host.Outcome.next (s.select p) = _
  rw [State.select_eq hc hg, hturn]
  rfl

/-! ### Held traps (R442, R470) -/

theorem firstTrap_mem {l : List Trap} {u : Trap} (h : firstTrap l = some u) : u ∈ l := by
  induction l generalizing u with
  | nil => cases h
  | cons t ts ih =>
    rw [firstTrap] at h
    cases hf : firstTrap ts with
    | none =>
      rw [hf] at h
      cases h
      simp
    | some v =>
      rw [hf] at h
      dsimp only at h
      split at h
      · cases h
        exact List.mem_cons_of_mem _ (ih hf)
      · cases h
        simp

/-- The held trap of the one lowest cause comes first. -/
theorem firstTrap_lowest {l : List Trap} {d : Trap} (hd : d ∈ l) (hlow : ∀ e ∈ l, e ≠ d → d.cause < e.cause) :
    firstTrap l = some d := by
  induction l with
  | nil => cases hd
  | cons t ts ih =>
    rw [firstTrap]
    by_cases hin : d ∈ ts
    · rw [ih hin fun e he => hlow e (List.mem_cons_of_mem _ he)]
      by_cases ht : t = d
      · subst ht
        simp
      · have hlt := hlow t (by simp) ht
        simp [hlt]
    · have ht : t = d := ((List.mem_cons.mp hd).resolve_right hin).symm
      subst ht
      cases hf : firstTrap ts with
      | none => rfl
      | some u =>
        have hu : u ∈ ts := firstTrap_mem hf
        have hlt := hlow u (List.mem_cons_of_mem _ hu) fun e => hin (e ▸ hu)
        simp [show ¬ u.cause < t.cause by omega, show ¬ u.cause = t.cause by omega]

theorem State.unpark_ctx (s : State) (p k : Nat) : (s.unpark p k).ctx p k = s.ctx p k ∨
    (s.unpark p k).ctx p k = { s.ctx p k with wait := none } := by
  rw [State.unpark]
  split
  · refine .inr ?_
    have hctx : ((s.cancelWatches p k).core p).ctx k = s.ctx p k := s.ctx_cancelWatches p k p k
    simp only [State.cancelWait, hctx, State.ctx, State.core_setCore_self]
    exact Core.ctx_setCtx_self _ _ _
  · exact .inl rfl

theorem State.unpark_tvec (s : State) (p k : Nat) : ((s.unpark p k).core p).tvec = (s.core p).tvec := by
  rw [State.unpark]
  split
  · have htvec : ((s.cancelWatches p k).core p).tvec = (s.core p).tvec := by
      rw [State.cancelWatches, State.core_removeWatches]
    rw [State.cancelWait, State.core_setCore_self]
    exact htvec
  · rfl

theorem exec_trapDelivery {s : State} {p k : Nat} {d : Trap} (hlive : (s.ctx p k).live = true)
    (hmode : (s.ctx p k).mode = false) (hs : (s.core p).stopped = false) (hd : firstTrap (s.ctx p k).held = some d)
    (hc : d.cause ≠ 0x0C) (hd' : d.cause ≠ 0x0D) : let u := s.unpark p k
    exec (.trapDelivery p k) s = .next ((u.setCtx p k { u.ctx p k with held := (s.ctx p k).held.erase d }).deliver p k d
      (d.tip.getD (s.ctx p k).ip)) := by
  intro u
  have hne : (s.ctx p k).held.isEmpty = false := by
    rw [List.isEmpty_eq_false_iff]
    intro h
    rw [h] at hd
    cases hd
  show execTrapDelivery p k s = _
  simp only [execTrapDelivery, hlive, hmode, hs, hne, Bool.not_false, Bool.and_true, if_true, State.deliverHeld, hd, hc, hd']
  rfl

/-- A held trap enters the handler once its context no longer waits. -/
theorem trapDelivery_entered {s : State} {p k : Nat} {d : Trap} (hlive : (s.ctx p k).live = true)
    (hmode : (s.ctx p k).mode = false) (hs : (s.core p).stopped = false) (hd : firstTrap (s.ctx p k).held = some d)
    (hc : d.cause ≠ 0x0C) (hd' : d.cause ≠ 0x0D) (hv : (s.core p).tvec ≠ 0) (hroom : (s.ctx p k).entryRoom) :
    let u := s.unpark p k
    ∃ t, exec (.trapDelivery p k) s = .next t ∧
      Entered (u.setCtx p k { u.ctx p k with held := (s.ctx p k).held.erase d }) t p k d (d.tip.getD (s.ctx p k).ip) := by
  intro u
  refine ⟨_, exec_trapDelivery hlive hmode hs hd hc hd', State.deliver_entered d _ ?_ ?_⟩
  · rw [State.core_setCtx_self]
    exact (s.unpark_tvec p k).symm ▸ hv
  · rw [State.ctx_setCtx_self]
    obtain h | h := s.unpark_ctx p k
    · rw [h]
      exact hroom
    · rw [h]
      exact hroom

/-- Settles O42: the selector chooses in its rotation, a spill and a fill keep the registers, and a held trap is delivered as
any other. -/
theorem selectorEvents : Obligations.SelectorEvents := by
  intro p k s hk c c1 x word
  refine ⟨fun h => ?_, fun hc hg hs hi hdue => ?_, fun hc hg hs hf hm => ⟨fun hi hturn hdue => ?_, fun hr hheld hentry =>
    ⟨fun hk0 hnext hpos hlt hlast => ?_, fun i hi16 hki hlt hfloor hlast => ?_⟩⟩, windowSpill_spills, windowFill_fills,
    fun h => ?_, fun h => ?_, fun h => ?_, fun d hd hlow hc hd' hlive hmode hs hv hroom =>
      trapDelivery_entered hlive hmode hs (firstTrap_lowest hd hlow) hc hd' hv hroom⟩
  · show Host.Outcome.next (s.select p) = _
    have hno : ((s.core p).gated || !isCore p) = true := by
      obtain h | h := h
      · rw [show (s.core p).gated = true from h]
        rfl
      · simp [h]
    rw [State.select, if_pos hno]
  · show Host.Outcome.next (s.select p) = _
    have ht : s.turnOf p = s := (State.turnOf_stopped hs).trans (State.moveFirst_none hdue)
    rw [State.select_eq hc hg, ht, if_neg (by simp [hi])]
    rfl
  · show Host.Outcome.next (s.select p) = _
    have ht : s.turnOf p = s := (State.turnOf_none hs hf hm (Core.choose_idle hturn)).trans (State.moveFirst_none hdue)
    rw [State.select_eq hc hg, ht, if_neg (by simp [hi])]
    rfl
  · subst hk0
    refine ⟨_, issueSelection_issues hc hg hs hf hm (Core.choose_overdue hr hnext hpos hlt hlast) hr hheld hentry,
      rfl, rfl, rfl, ?_⟩
    show (State.core (State.setCore _ _ _) _).rot = _ ∧ (State.core (State.setCore _ _ _) _).last0 = _ ∧
      (State.core (State.setCore _ _ _) _).floor = _
    rw [State.core_setCore_self]
    exact ⟨rfl, rfl, rfl⟩
  · refine ⟨_, issueSelection_issues hc hg hs hf hm (Core.choose_next hi16 hki hr hlt hfloor hlast) hr hheld hentry,
      rfl, rfl, rfl, ?_⟩
    show (State.core (State.setCore _ _ _) _).rot = _ ∧ (State.core (State.setCore _ _ _) _).cyc = _ ∧
      (∀ r, (Core.ctx (State.core (State.setCore _ _ _) _) _).reg r = _) ∧
      (Core.ctx (State.core (State.setCore _ _ _) _) _).ip = _
    rw [State.core_setCore_self, Core.ctx_issued_self]
    exact ⟨rfl, rfl, fun _ => rfl, rfl⟩
  · show execWindowSpill p k s = _
    simp [execWindowSpill, show (s.ctx p k).spillDue = false from h]
  · show execWindowFill p k s = _
    simp [execWindowFill, show (s.ctx p k).fillDue = false from h]
  · show execTrapDelivery p k s = _
    have hno : ((s.ctx p k).live && !(s.ctx p k).mode && !(s.ctx p k).held.isEmpty && !(s.core p).stopped) = false := by
      obtain h | h := h
      · simp [show (s.ctx p k).mode = true from h]
      · simp [show (s.ctx p k).held = [] from h]
    simp only [execTrapDelivery, hno]
    rfl

end Sys2Proof.Machine
end

section
/-! Handlers, returned messages and the phases of barriers (R27, R37, R293, R295, R297, R451–R453). -/

namespace Sys2Proof.Machine
open Sys2Proof

/-! ### The teams of the machine outlast what homes note and what wakes -/

theorem Stirred.teams {s t : State} (h : Stirred s t) : t.teams = s.teams := by
  have e := congrArg State.teams h.machine
  exact e

theorem Stirred.msgs {s t : State} (h : Stirred s t) : t.msgs = s.msgs := by
  have e := congrArg State.msgs h.machine
  exact e

theorem Bookkept.teams {s t : State} (h : Bookkept s t) : t.teams = s.teams := by rw [h]
theorem Bookkept.msgs {s t : State} (h : Bookkept s t) : t.msgs = s.msgs := by rw [h]

theorem State.revoke_teams (s : State) (wk : Nat) : (s.revoke wk).teams = s.teams := by
  simp only [State.revoke]
  split
  · rfl
  · rfl

theorem State.ownWrite_teams (s : State) (va : Word) (v : Nat) : (s.ownWrite va v).teams = s.teams :=
  (State.wakeLine_stirred _ _).teams.trans ((State.revoke_teams _ _).trans (s.rawPut_bookkept va v 255).teams)

theorem State.queueFault_teams (s : State) (q code pkt cause pid team : Nat) (tip info src srcx : Word) (st : Nat) :
    (s.queueFault q code pkt cause pid team tip info src srcx st).teams = s.teams := by
  simp only [State.queueFault, State.setQState, State.msi, State.ownWrite_teams]

theorem State.gridDone_teams (s : State) (g : Nat) : (s.gridDone g).teams = s.teams := by
  simp only [State.gridDone]
  split
  · rfl
  · split
    · rfl
    · rfl

/-- A team that has ended is gone. -/
theorem State.endTeam_gone (s : State) (tid : Nat) : (s.endTeam tid).teams.find? tid = none := by
  simp only [State.endTeam]
  split
  · assumption
  · split
    · exact KMap.find?_del_self _ _
    · rw [State.gridDone_teams]
      exact KMap.find?_del_self _ _

theorem State.failTeam1_gone (s : State) (tid pid cause : Nat) (t : Trap) (tip : Word) :
    (s.failTeam1 tid pid cause t tip).teams.find? tid = none := by
  simp only [State.failTeam1]
  split
  · assumption
  · split
    · rw [State.queueFault_teams]
      exact State.endTeam_gone _ _
    · exact State.endTeam_gone _ _

/-- Without partitions none is reset. -/
theorem State.resetWith_none {s : State} (h : s.root.parts = []) (n : Nat) : s.resetWith [] n = [] := by
  have hnone : ∀ tm, s.teamParts tm = [] := fun tm => by simp [State.teamParts, h]
  induction n with
  | zero => rfl
  | succ n ih => simpa [State.resetWith, hnone] using ih

theorem State.failTeam_gone {s : State} (h : s.root.parts = []) (tid pid cause : Nat) (t : Trap) (tip : Word) (b : Bool) :
    (s.failTeam tid pid cause t tip b).teams.find? tid = none := by
  simp only [State.failTeam]
  split
  · assumption
  · next tm _ =>
    have hparts : s.teamParts tm = [] := by simp [State.teamParts, h]
    rw [hparts, List.filter_nil, s.resetWith_none h]
    exact s.failTeam1_gone tid pid cause t tip

/-! ### Wakes of the sender of a message -/

/-- The outcomes that wait for a place in the outbound queue, or for the answers to what was sent. -/
noncomputable def WaitOn.sends (w : WaitOn) : Bool := w == .busy 9 || w == .busy 11

theorem WaitOn.sends_plain (w : WaitOn) (h : w.sends = true) : w.plain = true := by
  simp only [WaitOn.sends, Bool.or_eq_true, beq_iff_eq] at h
  obtain rfl | rfl := h
  · rfl
  · rfl

theorem Core.ctxs_received (c : Core) (m : Msg) : (c.received m).ctxs = c.ctxs := by
  simp only [Core.received]
  split
  · rfl
  · split
    · rfl
    · rfl

/-- A message taken leaves the list, and wakes its sender. -/
theorem State.taken_same (s : State) (m : Msg) (p : Nat) :
    (s.taken m p).mem = s.mem ∧ (s.taken m p).msgs = s.msgs.erase m ∧ ∀ q j, (s.taken m p).ctx q j =
      if q = m.pid ∧ j < 16 then (s.ctx q j).roused WaitOn.sends else s.ctx q j := by
  obtain ⟨honly, hctx⟩ := State.ctx_wakeIf WaitOn.sends_plain { s.setCore p ((s.core p).received m) with
    msgs := s.msgs.erase m } m.pid
  have hmsgs := congrArg State.msgs honly.machine
  refine ⟨honly.mem, hmsgs, fun q j => (hctx q j).trans ?_⟩
  have hsame : ({ s.setCore p ((s.core p).received m) with msgs := s.msgs.erase m } : State).ctx q j = s.ctx q j :=
    s.ctx_setCore_same (Core.ctxs_received _ _) q j
  rw [hsame]

/-! ### The start of a handler -/

theorem Ctx.reg_handle (x : Ctx) (entry : Word) (m : Msg) (r : Spec) : (x.handle entry m).reg r = x.reg r := by
  by_cases hw : 16 ≤ r.toNat ∧ r.toNat < 32
  · obtain ⟨h16, h32⟩ := hw
    have hkey : x.wbase ≤ (8 * x.wbase + (r.toNat - 16)) / 8 := by omega
    simp only [Ctx.reg, show r.toNat ≠ 0 by omega, show ¬ r.toNat < 16 by omega, h32, if_true, if_false, Ctx.handle, KMap.get]
    rw [find?_filter_key x.win (fun k => decide (x.wbase ≤ k / 8)) (by simpa using hkey)]
  · by_cases hlow : r.toNat < 16
    · simp only [Ctx.reg, hlow, if_true]
      rfl
    · simp only [Ctx.reg, hlow, show ¬ r.toNat < 32 by omega, if_false]
      rfl

theorem exec_messageHandlingStart {s : State} {p k : Nat} {m : Msg} (h : s.queued p k = some m) :
    exec (.messageHandlingStart p k) s = .next (
      if (s.core p).finishing.isSome then s.sendBack m p 0x0F 0
      else if (s.ctx p k).live || (s.core p).stopped then s
      else if (s.core p).mhent.get (k - 11) 0 = 0 then s.sendBack m p 0x10 6
      else ((s.taken m p).setCtx p k (((s.taken m p).ctx p k).handle ((s.core p).mhent.get (k - 11) 0) m)).wakeIf p
        (· == .message)) := by
  show execMessageHandlingStart p k s = _
  simp only [execMessageHandlingStart, h]
  rfl

/-- A free context begins at its entry with the message, and keeps its registers. -/
theorem State.handled {s : State} {p k : Nat} (m : Msg) (entry : Word) (hk : k < 16) (hw : (s.ctx p k).wait = none) :
    let x := s.ctx p k
    let t := ((s.taken m p).setCtx p k (((s.taken m p).ctx p k).handle entry m)).wakeIf p (· == .message)
    t.msgs = s.msgs.erase m ∧ t.mem = s.mem ∧ (t.ctx p k).live = true ∧ (t.ctx p k).ip = entry ∧
      (t.ctx p k).msg = some m ∧ (t.ctx p k).gen = x.gen + 1 ∧ (t.ctx p k).depth = 0 ∧ (t.ctx p k).wsp = x.wsb ∧
      (t.ctx p k).mode = x.mode ∧ ∀ r, (t.ctx p k).reg r = x.reg r := by
  intro x t
  obtain ⟨hmem, hmsgs, hctx⟩ := s.taken_same m p
  have hme : (s.taken m p).ctx p k = x := by
    rw [hctx, Ctx.roused_of_not fun w h => by rw [hw] at h; cases h]
    exact ite_self _
  obtain ⟨honly, hwoken⟩ := ((s.taken m p).setCtx p k (((s.taken m p).ctx p k).handle entry m)).ctx_wakeIf
    (f := (· == .message)) (by simp +contextual [WaitOn.plain]) p
  have ht : t.ctx p k = x.handle entry m := by
    rw [hwoken, if_pos ⟨rfl, hk⟩, State.ctx_setCtx_self, hme]
    exact Ctx.roused_of_not fun w h => nomatch h
  have htm : t.msgs = s.msgs.erase m := (congrArg State.msgs honly.machine).trans hmsgs
  refine ⟨htm, honly.mem.trans hmem, ?_⟩
  rw [ht]
  exact ⟨rfl, rfl, rfl, rfl, rfl, rfl, rfl, Ctx.reg_handle x entry m⟩

/-! ### A returned message (R451–R453) -/

/-- The message has left the list, and its sender has been told of the place. -/
noncomputable def State.withdrawn (s : State) (m : Msg) : State := State.wakeIf { s with msgs := s.msgs.erase m } m.pid WaitOn.sends

/-- What a returned message answers. -/
noncomputable def Msg.bounced (m : Msg) (off : Nat) (park : Bool) (cause reason : Nat) : ReplyMsg :=
  { id := m.id, pid := m.pid, ctx := m.ctx, gen := m.gen, addr := m.va off, park := park, ans := .trap cause (m.info reason) }

/-- The trap of a returned message. -/
noncomputable def Msg.trap (m : Msg) (cause reason : Nat) : Trap :=
  { cause := cause, info := m.info reason, src := m.ip, srcx := m.cls }

theorem exec_messageReturn {s : State} {m : Msg} {cause reason : Nat} (h : s.msgs.find? (fun n => n.id == m.id) = some m)
    (hr : m.returned = some (cause, reason)) : exec (.messageReturn m.id) s = .next (
      if ((s.withdrawn m).core m.pid).finishing.isSome then
        (s.withdrawn m).holdTrap m.pid m.ctx m.gen (m.trap cause reason)
      else match m.kind with
        | .access _ off _ => (s.withdrawn m).slotAnswer (m.bounced off false cause reason)
        | .parkCheck off _ => (s.withdrawn m).parkAnswer (m.bounced off true cause reason)
        | _ => (s.withdrawn m).holdTrap m.pid m.ctx m.gen (m.trap cause reason)) := by
  show execMessageReturn m.id s = _
  simp only [execMessageReturn, h, hr]
  rfl

theorem State.withdrawn_same (s : State) (m : Msg) : CtxsOnly { s with msgs := s.msgs.erase m } (s.withdrawn m) ∧
    ∀ q j, (s.withdrawn m).ctx q j = if q = m.pid ∧ j < 16 then (s.ctx q j).roused WaitOn.sends else s.ctx q j :=
  State.ctx_wakeIf WaitOn.sends_plain _ m.pid

theorem CtxsOnly.core_finishing {s t : State} (h : CtxsOnly s t) (p : Nat) : (t.core p).finishing = (s.core p).finishing := by
  have e := congrArg Core.finishing (h.cores p)
  exact e

theorem CtxsOnly.core_team {s t : State} (h : CtxsOnly s t) (p : Nat) : (t.core p).team = (s.core p).team := by
  have e := congrArg Core.team (h.cores p)
  exact e

theorem CtxsOnly.core_ph {s t : State} (h : CtxsOnly s t) (p : Nat) : (t.core p).ph = (s.core p).ph := by
  have e := congrArg Core.ph (h.cores p)
  exact e

theorem State.withdrawn_finishing (s : State) (m : Msg) (p : Nat) :
    ((s.withdrawn m).core p).finishing = (s.core p).finishing := (s.withdrawn_same m).1.core_finishing p

/-- A context is as it was behind the withdrawal of a message, but for its wait. -/
theorem State.withdrawn_ctx (s : State) (m : Msg) (p k : Nat) : (s.withdrawn m).ctx p k = s.ctx p k ∨
    (s.withdrawn m).ctx p k = (s.ctx p k).awake := by
  rw [(s.withdrawn_same m).2]
  split
  · rw [Ctx.roused]
    split
    · exact .inr rfl
    · exact .inl rfl
  · exact .inl rfl

/-- The slot that waits for the message takes its trap. -/
theorem State.slotAnswer_takes {s : State} {m : ReplyMsg} {sl : Slot} (h : (s.ctx m.pid m.ctx).slot = some sl)
    (hid : sl.id = m.id) (hgen : sl.gen = m.gen) (hans : sl.ans = none) : let t := s.slotAnswer m
    t.mem = s.mem ∧ t.msgs = s.msgs ∧ (t.ctx m.pid m.ctx).slot = some { sl with ans := some m.ans } := by
  intro t
  have hslot : ((s.core m.pid).ctx m.ctx).slot = some sl := h
  have ht : ∃ c : Core, let u := s.setCore m.pid (c.setCtx m.ctx { (s.core m.pid).ctx m.ctx with
      slot := some { sl with ans := some m.ans } })
      t = u ∨ t = u.wake m.pid m.ctx := by
    simp only [t, State.slotAnswer, hslot, hid, hgen, hans, decide_true, Option.isNone_none, Bool.and_self, if_true]
    cases ((s.core m.pid).ctx m.ctx).wait with
    | none => exact ⟨_, .inl rfl⟩
    | some w =>
      dsimp only
      split
      · exact ⟨_, .inr rfl⟩
      · exact ⟨_, .inl rfl⟩
  obtain ⟨c, ht⟩ := ht
  have hset : ((s.setCore m.pid (c.setCtx m.ctx { (s.core m.pid).ctx m.ctx with
      slot := some { sl with ans := some m.ans } })).ctx m.pid m.ctx).slot = some { sl with ans := some m.ans } := by
    rw [State.ctx, State.core_setCore_self, Core.ctx_setCtx_self]
  obtain ht | ht := ht
  · rw [ht]
    exact ⟨rfl, rfl, hset⟩
  · have hst := (s.setCore m.pid (c.setCtx m.ctx { (s.core m.pid).ctx m.ctx with
      slot := some { sl with ans := some m.ans } })).wake_stirred m.pid m.ctx
    have hslot' := congrArg Ctx.slot (hst.contexts m.pid m.ctx)
    rw [ht]
    exact ⟨State.wake_mem _ _ _, hst.msgs, Eq.trans hslot' hset⟩

theorem State.unpark_msgs (s : State) (p k : Nat) : (s.unpark p k).msgs = s.msgs := by
  rw [State.unpark]
  split
  · have hhome : ∀ f : Watch → Bool, (s.removeHomeWatches f).msgs = s.msgs := fun f =>
      (Bookkept.foldl (fun s key => s.setWatches_bookkept key _ _) _ s).msgs
    exact hhome _
  · rfl

/-- A live context holds the trap that its work brings. -/
theorem State.holdTrap_live {s : State} {p k gen : Nat} (t : Trap) (hl : (s.ctx p k).live = true)
    (hg : (s.ctx p k).gen.toNat = gen) (hf : (s.core p).finishing = none) : s.holdTrap p k gen t =
      (s.unpark p k).setCtx p k { (s.unpark p k).ctx p k with held := ((s.unpark p k).ctx p k).held ++ [t] } := by
  have hl' : ((s.core p).ctx k).live = true := hl
  have hg' : ((s.core p).ctx k).gen.toNat = gen := hg
  have hholder : (s.core p).holder k gen = some k := by simp [Core.holder, hl', hg', hf]
  simp [State.holdTrap, hholder]

/-- The sender of a message holds its trap. -/
theorem State.holdTrap_holds {s : State} {p k gen : Nat} (t : Trap) (hl : (s.ctx p k).live = true)
    (hg : (s.ctx p k).gen.toNat = gen) (hf : (s.core p).finishing = none) :
    (s.holdTrap p k gen t).msgs = s.msgs ∧ ((s.holdTrap p k gen t).ctx p k).held = (s.ctx p k).held ++ [t] := by
  rw [State.holdTrap_live t hl hg hf, State.ctx_setCtx_self]
  refine ⟨s.unpark_msgs p k, ?_⟩
  obtain h | h := s.unpark_ctx p k
  · rw [h]
  · rw [h]

/-- A check of a PARK that a trap answers raises the trap at the PARK. -/
theorem State.parkAnswer_trap {s : State} {m : ReplyMsg} {T a b cause : Nat} {info : Word}
    (hw : (s.ctx m.pid m.ctx).wait = some ⟨.parkAsk T, a, b⟩) (hask : s.asks m.pid m.ctx m.gen m.id = true)
    (hans : m.ans = .trap cause info) : ∃ u : State,
      s.parkAnswer m = u.raise m.pid m.ctx { cause := cause, info := info } (s.ctx m.pid m.ctx).ip ∧ u.mem = s.mem ∧
      u.msgs = s.msgs ∧ (u.ctx m.pid m.ctx).wait = none := by
  refine ⟨(s.setCtx m.pid m.ctx { s.ctx m.pid m.ctx with asked := none }).setCtx m.pid m.ctx { s.ctx m.pid m.ctx with
    asked := none, wait := none }, ?_, rfl, rfl, by rw [State.ctx_setCtx_self]⟩
  simp [State.parkAnswer, hw, hask, hans]

theorem messageReturn_access {s : State} {m : Msg} {cause reason off : Nat} {op : HomeOp} {park : Bool} {sl : Slot}
    (h : s.msgs.find? (fun n => n.id == m.id) = some m) (hr : m.returned = some (cause, reason))
    (hk : m.kind = .access op off park) (hf : (s.core m.pid).finishing = none) (hs : (s.ctx m.pid m.ctx).slot = some sl)
    (hid : sl.id = m.id) (hgen : sl.gen = m.gen) (hans : sl.ans = none) : ∃ t, exec (.messageReturn m.id) s = .next t ∧
      t.mem = s.mem ∧ t.msgs = s.msgs.erase m ∧
      (t.ctx m.pid m.ctx).slot = some { sl with ans := some (.trap cause (m.info reason)) } := by
  obtain ⟨honly, -⟩ := s.withdrawn_same m
  have hslot : ((s.withdrawn m).ctx m.pid m.ctx).slot = some sl := by
    obtain hc | hc := s.withdrawn_ctx m m.pid m.ctx
    · rw [hc, hs]
    · rw [hc]
      exact hs
  obtain ⟨hm, hmsgs, hans'⟩ := State.slotAnswer_takes (m := m.bounced off false cause reason) hslot hid hgen hans
  have hmsgs' := congrArg State.msgs honly.machine
  refine ⟨_, exec_messageReturn h hr, ?_⟩
  rw [s.withdrawn_finishing, hf, hk, if_neg (by simp)]
  exact ⟨hm.trans honly.mem, hmsgs.trans hmsgs', hans'⟩

theorem messageReturn_held {s : State} {m : Msg} {cause reason : Nat}
    (h : s.msgs.find? (fun n => n.id == m.id) = some m) (hr : m.returned = some (cause, reason))
    (hk : ∀ op off park, m.kind ≠ .access op off park) (hk' : ∀ off v, m.kind ≠ .parkCheck off v)
    (hl : (s.ctx m.pid m.ctx).live = true) (hg : (s.ctx m.pid m.ctx).gen.toNat = m.gen)
    (hf : (s.core m.pid).finishing = none) : ∃ t, exec (.messageReturn m.id) s = .next t ∧
      t.msgs = s.msgs.erase m ∧ (t.ctx m.pid m.ctx).held = (s.ctx m.pid m.ctx).held ++ [m.trap cause reason] := by
  obtain ⟨honly, -⟩ := s.withdrawn_same m
  have hctx : ((s.withdrawn m).ctx m.pid m.ctx).live = true ∧ ((s.withdrawn m).ctx m.pid m.ctx).gen.toNat = m.gen ∧
      ((s.withdrawn m).ctx m.pid m.ctx).held = (s.ctx m.pid m.ctx).held := by
    obtain hc | hc := s.withdrawn_ctx m m.pid m.ctx
    · rw [hc]
      exact ⟨hl, hg, rfl⟩
    · rw [hc]
      exact ⟨hl, hg, rfl⟩
  obtain ⟨hl', hg', hheld⟩ := hctx
  obtain ⟨hm, hh⟩ := State.holdTrap_holds (m.trap cause reason) hl' hg' ((s.withdrawn_finishing m _).trans hf)
  have hmsgs := congrArg State.msgs honly.machine
  refine ⟨(s.withdrawn m).holdTrap m.pid m.ctx m.gen (m.trap cause reason), ?_, hm.trans hmsgs, hh.trans (by rw [hheld])⟩
  rw [exec_messageReturn h hr, s.withdrawn_finishing, hf, if_neg (by simp)]
  cases hkind : m.kind with
  | access op off park => exact absurd hkind (hk _ _ _)
  | parkCheck off v => exact absurd hkind (hk' _ _)
  | signal | decrement | arrival | software => rfl

theorem messageReturn_park {s : State} {m : Msg} {cause reason off T a b : Nat} {v : Word}
    (h : s.msgs.find? (fun n => n.id == m.id) = some m) (hr : m.returned = some (cause, reason))
    (hk : m.kind = .parkCheck off v) (hf : (s.core m.pid).finishing = none) (hl : (s.ctx m.pid m.ctx).live = true)
    (hg : (s.ctx m.pid m.ctx).gen.toNat = m.gen) (hask : (s.ctx m.pid m.ctx).asked = some m.id)
    (hw : (s.ctx m.pid m.ctx).wait = some ⟨.parkAsk T, a, b⟩) : ∃ t u : State, exec (.messageReturn m.id) s = .next t ∧
      t = u.raise m.pid m.ctx { cause := cause, info := m.info reason } (s.ctx m.pid m.ctx).ip ∧ u.mem = s.mem ∧
      u.msgs = s.msgs.erase m ∧ (u.ctx m.pid m.ctx).wait = none := by
  obtain ⟨honly, hctx⟩ := s.withdrawn_same m
  have hme : (s.withdrawn m).ctx m.pid m.ctx = s.ctx m.pid m.ctx := by
    rw [hctx, Ctx.roused_of_not fun w h => by rw [hw] at h; cases h; rfl]
    exact ite_self _
  have hasks : (s.withdrawn m).asks m.pid m.ctx m.gen m.id = true := by
    simp [State.asks, State.sender, hme, hl, hg, hask]
  obtain ⟨u, hu, hum, humsgs, huw⟩ := State.parkAnswer_trap (m := m.bounced off true cause reason) (cause := cause)
    (info := m.info reason) ((congrArg Ctx.wait hme).trans hw) hasks rfl
  have hmsgs := congrArg State.msgs honly.machine
  refine ⟨_, u, exec_messageReturn h hr, ?_, hum.trans honly.mem, humsgs.trans hmsgs, huw⟩
  rw [s.withdrawn_finishing, hf, hk, if_neg (by simp), ← hme]
  exact hu

/-- A sender whose contexts have all ended fails its team (R37). -/
theorem messageReturn_ended {s : State} {m : Msg} {cause reason tid : Nat}
    (h : s.msgs.find? (fun n => n.id == m.id) = some m) (hr : m.returned = some (cause, reason))
    (hf : (s.core m.pid).finishing ≠ none) (ht : (s.core m.pid).team = some tid) (hp : s.root.parts = []) :
    ∃ t, exec (.messageReturn m.id) s = .next t ∧ t.teams.find? tid = none := by
  obtain ⟨honly, -⟩ := s.withdrawn_same m
  have hf' : ((s.withdrawn m).core m.pid).finishing.isSome = true := by
    rw [s.withdrawn_finishing]
    exact Option.isSome_iff_ne_none.mpr hf
  have hnone : ((s.withdrawn m).core m.pid).finishing.isNone = false := by simpa using hf'
  have hholder : ((s.withdrawn m).core m.pid).holder m.ctx m.gen = none := by simp [Core.holder, hnone]
  have hteam : ((s.withdrawn m).core m.pid).team = some tid := (honly.core_team m.pid).trans ht
  have hparts : (s.withdrawn m).root.parts = [] := (congrArg (fun t : State => t.root.parts) honly.machine).trans hp
  refine ⟨_, exec_messageReturn h hr, ?_⟩
  rw [if_pos hf', State.holdTrap, hholder]
  simp only [State.failCore, hteam]
  exact State.failTeam_gone hparts _ _ _ _ _ _

/-! ### Phases (R297) -/

/-- A new phase reaches a core, and wakes those who wait for it. -/
theorem barrierPhaseArrival_wakes {s : State} {p k : Nat} {tm : Team} (hk : k < 16) (ht : s.teamOf p = some tm)
    (hs : tm.swapped = false) (hph : tm.ph ≠ (s.core p).ph) : ∃ t, exec (.barrierPhaseArrival p) s = .next t ∧
      (t.core p).ph = tm.ph ∧ t.mem = s.mem ∧
      (∀ a b, (s.ctx p k).wait = some ⟨.barrier, a, b⟩ ∨ (s.ctx p k).wait = some ⟨.busy 14, a, b⟩ → (t.ctx p k).wait = none) ∧
      ∀ r, (t.ctx p k).reg r = (s.ctx p k).reg r := by
  obtain ⟨honly, hctx⟩ := (s.setCore p { s.core p with ph := tm.ph }).ctx_wakeIf
    (f := fun w => w == .barrier || w == .busy 14) (fun w h => by
      rw [Bool.or_eq_true, beq_iff_eq, beq_iff_eq] at h
      obtain rfl | rfl := h
      · rfl
      · rfl) p
  have hsame : (s.setCore p { s.core p with ph := tm.ph }).ctx p k = s.ctx p k :=
    s.ctx_setCore_same (c := { s.core p with ph := tm.ph }) rfl p k
  have hphase := honly.core_ph p
  rw [State.core_setCore_self] at hphase
  refine ⟨_, ?_, hphase, honly.mem, fun a b hw => ?_, fun r => ?_⟩
  · show execBarrierPhaseArrival p s = _
    simp only [execBarrierPhaseArrival, ht, hs, hph, decide_false, Bool.or_self, Bool.false_eq_true, if_false]
  · rw [hctx, if_pos ⟨rfl, hk⟩, hsame]
    obtain hw | hw := hw
    · rw [Ctx.roused_of_some hw rfl]
      rfl
    · rw [Ctx.roused_of_some hw rfl]
      rfl
  · rw [hctx, if_pos ⟨rfl, hk⟩, hsame, Ctx.roused]
    split
    · rfl
    · rfl

/-- Settles O47: a handler starts on its message or returns it, a returned message finds its sender or fails the team, and a
phase reaches its cores. -/
theorem handlersAndReturns : Obligations.HandlersAndReturns := by
  intro p k s hk c x
  have hback : ∀ {m : Msg} (a b : Nat), (s.sendBack m p a b).mem = s.mem ∧ (s.sendBack m p a b).msgs =
      s.msgs.map fun n => if n = m then { n with returned := some (a, b) } else n := fun a b => ⟨rfl, rfl⟩
  refine ⟨fun m hm => ⟨fun hf => ?_, fun hf hbusy => ?_, fun hf hl hs => ⟨fun he => ?_, fun he hw => ?_⟩⟩,
    fun m cause reason h hr => ?_, fun tm ht hs => ⟨fun hph => ?_, fun hph => barrierPhaseArrival_wakes hk ht hs hph⟩⟩
  · exact ⟨_, (exec_messageHandlingStart hm).trans (congrArg _ (if_pos (Option.isSome_iff_ne_none.mpr hf))), hback _ _⟩
  · have hf' : (s.core p).finishing.isSome = false := by rw [show (s.core p).finishing = none from hf]; rfl
    rw [exec_messageHandlingStart hm, if_neg (by rw [hf']; decide), if_pos]
    rw [Bool.or_eq_true]
    exact hbusy
  · have hf' : (s.core p).finishing.isSome = false := by rw [show (s.core p).finishing = none from hf]; rfl
    have hno : ((s.ctx p k).live || (s.core p).stopped) = false := by
      rw [show (s.ctx p k).live = false from hl, show (s.core p).stopped = false from hs]
      rfl
    rw [exec_messageHandlingStart hm, if_neg (by rw [hf']; decide), if_neg (by rw [hno]; decide), if_pos he]
    exact ⟨_, rfl, hback _ _⟩
  · have hf' : (s.core p).finishing.isSome = false := by rw [show (s.core p).finishing = none from hf]; rfl
    have hno : ((s.ctx p k).live || (s.core p).stopped) = false := by
      rw [show (s.ctx p k).live = false from hl, show (s.core p).stopped = false from hs]
      rfl
    rw [exec_messageHandlingStart hm, if_neg (by rw [hf']; decide), if_neg (by rw [hno]; decide), if_neg he]
    exact ⟨_, rfl, State.handled m _ hk hw⟩
  · refine ⟨_, exec_messageReturn h hr, fun op off park sl hkind hf hsl hid hgen hans => ?_,
      fun hk1 hk2 hl hg hf => ?_, fun off v T a b hkind hf hl hg hask hw => ?_, fun tid tm hf _ hteam _ hp => ?_⟩
    · obtain ⟨t, ht, hres⟩ := messageReturn_access h hr hkind hf hsl hid hgen hans
      cases (exec_messageReturn h hr).symm.trans ht
      exact hres
    · obtain ⟨t, ht, hres⟩ := messageReturn_held h hr hk1 hk2 hl hg hf
      cases (exec_messageReturn h hr).symm.trans ht
      exact hres
    · obtain ⟨t, u, ht, hres⟩ := messageReturn_park h hr hkind hf hl hg hask hw
      cases (exec_messageReturn h hr).symm.trans ht
      exact ⟨u, hres⟩
    · obtain ⟨t, ht, hres⟩ := messageReturn_ended h hr hf hteam hp
      cases (exec_messageReturn h hr).symm.trans ht
      exact hres
  · show execBarrierPhaseArrival p s = _
    have hph' : tm.ph = (s.core p).ph := hph
    simp only [execBarrierPhaseArrival, ht, hph', decide_true, Bool.true_or, if_true]

end Sys2Proof.Machine
end

section

/-!
# Messages that leave, and messages that are read

What MSEND, SSIG, RDEC and BARA post (R286, R292, R298, R304), and what a handler reads of its message (R291, R294).
-/

namespace Sys2Proof.Machine
open Sys2Proof

/-! ### Posting (R290) -/

theorem post_full {i : Instr} {o : EOp} {s : State} {r : Nat} {kind : MsgKind} {k : State → State}
    (h : exec i s = .next (s.post o r kind k)) (hf : s.conf.outDepth ≤ (s.posted s.cur.1).length) (hn : o.nra = .set) :
    Unready i s 4 9 :=
  unready_of_busy hn (h.trans (congrArg _ (if_pos (decide_eq_true hf))))

/-- A message that finds room is the last one sent, and leaves the executing core as `c`. -/
theorem post_sends {i : Instr} {o : EOp} {s : State} {r : Nat} {kind : MsgKind} {k : State → State} {c : Core}
    (h : exec i s = .next (s.post o r kind k)) (hf : (s.posted s.cur.1).length < s.conf.outDepth)
    (hk : k { s.sendMsg r kind with nextId := s.nextId + 1 } =
      { s.setMyCore c with msgs := s.msgs ++ [s.message r kind], nextId := s.nextId + 1 })
    (hc : c.ctxs = s.myCore.ctxs) :
    ∃ t, exec i s = .next t ∧ Writes s t s.me (.ok false) 0 0 ∧ t.msgs = s.msgs ++ [s.message r kind] ∧ t.mem = s.mem ∧
      (∀ p k, (p, k) ≠ s.cur → t.ctx p k = s.ctx p k) ∧ { t.myCore with ctxs := [] } = { c with ctxs := [] } := by
  set u : State := { s.setMyCore c with msgs := s.msgs ++ [s.message r kind], nextId := s.nextId + 1 } with hu
  have hexec : exec i s = .next (s.okay u) :=
    (h.trans (congrArg _ (if_neg (by rw [State.outFull, decide_eq_true_eq]; omega)))).trans (congrArg (fun v => Host.Outcome.next (s.okay v)) hk)
  have hme : u.me = s.me := (State.me_setMyCore s c).trans (congrArg (fun l => l.get s.cur.2 {}) hc)
  have hme' : HasMe u u s.me := hme ▸ HasMe.refl u
  obtain ⟨hwr, hal⟩ := writes_okay (s := s) (x := s.me) false hme' rfl (.refl _)
  have hmsgs := congrArg State.msgs hal.machine
  have hmem := congrArg State.mem hal.machine
  refine ⟨_, hexec, hwr, hmsgs, hmem, fun p k hpk => ?_, ?_⟩
  · exact (hal.contexts p k hpk).trans (s.ctx_setCore_same hc p k)
  · have e := hal.myCore
    rw [show u.myCore = c from State.myCore_setMyCore s c] at e
    exact e

/-- The messages sent that a software answer is not among (R457). -/
noncomputable def State.sentWith (s : State) (kind : MsgKind) : Nat :=
  match kind with
  | .software true _ _ _ _ => s.myCore.msent
  | _ => (s.myCore.msent + 1) % 2 ^ 32

theorem State.withRank_ok {s : State} {o : EOp} (mk tag off : Nat) (k : Nat → State) (h1 : (s.G o.a).toNat < 256)
    (h2 : (s.G o.a).toNat < s.teamSize s.cur.1) : s.withRank o mk tag off k = k (s.G o.a).toNat :=
  if_pos (by rw [decide_eq_true h1, decide_eq_true h2]; rfl)

theorem State.withRank_bad {s : State} {o : EOp} (mk tag off : Nat) (k : Nat → State)
    (h : 256 ≤ (s.G o.a).toNat ∨ s.teamSize s.cur.1 ≤ (s.G o.a).toNat) :
    s.withRank o mk tag off k = s.found s 0x10 (msgInfo 1 mk s.me.gen.toNat tag s.cur.2 (s.G o.a).toNat off) :=
  if_neg (by rw [Bool.and_eq_true, decide_eq_true_eq, decide_eq_true_eq]; omega)

theorem State.notLate {s : State} {o : EOp} (h : o.ord ≠ .rel ∨ s.relMet s.cur.1 s.cur.2 = true) :
    (o.ord == .rel && !s.relMet s.cur.1 s.cur.2) = false := by
  obtain h | h := h
  · rw [beq_false_of_ne h, Bool.false_and]
  · rw [h, Bool.not_true, Bool.and_false]

theorem exec_ssig_posts {o : EOp} {s : State} (hg : s.guard o.grd = true) (hv : o.v0 = true)
    (hl : o.ord ≠ .rel ∨ s.relMet s.cur.1 s.cur.2 = true) (h1 : (s.G o.a).toNat < 256)
    (h2 : (s.G o.a).toNat < s.teamSize s.cur.1) (hr : (s.G o.a).toNat ≠ s.myCore.rank) :
    exec (.ssig o) s = .next (s.post o (s.G o.a).toNat (.signal (s.sidx o) o.imm.toNat) id) := by
  show execSsig o s = _
  rw [execSsig, guarded_true hg]
  dsimp only
  rw [hv, s.notLate hl, Bool.not_true, if_neg Bool.false_ne_true, State.withRank_ok _ _ _ _ h1 h2, if_neg hr,
    if_neg Bool.false_ne_true]

theorem exec_msend_posts {o : EOp} {s : State} (hg : s.guard o.grd = true) (h15 : s.cur.2 ≠ 15)
    (hk : s.cur.2 ≤ 10 ∨ o.v0 = true) (h1 : (s.G o.a).toNat < 256) (h2 : (s.G o.a).toNat < s.teamSize s.cur.1) :
    exec (.msend o) s = .next (s.post o (s.G o.a).toNat
      (.software o.v0 (o.sem.toNat % 4) o.imm.toNat (s.G o.d) (s.G o.b)) id) := by
  have hden : ¬ (decide (s.cur.2 = 15) || decide (10 < s.cur.2) && !o.v0) = true := by
    rw [decide_eq_false h15, Bool.false_or, Bool.and_eq_true, decide_eq_true_eq, Bool.not_eq_true']
    rintro ⟨h10, hv⟩
    obtain hk | hk := hk
    · omega
    · exact Bool.false_ne_true (hv.symm.trans hk)
  show execMsend o s = _
  rw [execMsend, guarded_true hg]
  dsimp only
  rw [if_neg hden, State.withRank_ok _ _ _ _ h1 h2]

theorem exec_rdec_posts {o : EOp} {s : State} (hg : s.guard o.grd = true) (ha : (s.G o.b).toNat % 32 = 0)
    (hb : (s.G o.b).toNat < 2 ^ 20) (h1 : (s.G o.a).toNat < 256) (h2 : (s.G o.a).toNat < s.teamSize s.cur.1)
    (hr : (s.G o.a).toNat ≠ s.myCore.rank) :
    exec (.rdec o) s = .next (s.post o (s.G o.a).toNat (.decrement (s.G o.b).toNat) id) := by
  show execRdec o s = _
  rw [execRdec, guarded_true hg]
  dsimp only
  rw [if_neg (by omega), if_neg (by omega), State.withRank_ok _ _ _ _ h1 h2, if_neg hr]

theorem exec_bara_posts {o : EOp} {s : State} (hg : s.guard o.grd = true) (hk : s.cur.2 ≤ 10)
    (hl : o.ord ≠ .rel ∨ s.relMet s.cur.1 s.cur.2 = true)
    (hb : (s.myCore.barq + 65536 - s.myCore.ph) % 65536 ≠ 2) :
    exec (.bara o) s = .next (s.post o 0 (.arrival s.myCore.barq) fun s1 =>
      s1.setMyCore { s1.myCore with barq := (s.myCore.barq + 1) % 65536 }) := by
  show execBara o s = _
  rw [execBara, guarded_true hg]
  dsimp only
  rw [if_neg (by omega), s.notLate hl, if_neg Bool.false_ne_true, if_neg hb]

theorem exec_msend_badRank {o : EOp} {s : State} (hg : s.guard o.grd = true) (hk : s.cur.2 ≤ 10)
    (h : 256 ≤ (s.G o.a).toNat ∨ s.teamSize s.cur.1 ≤ (s.G o.a).toNat) :
    exec (.msend o) s = .next (s.found s 0x10
      (msgInfo 1 (if o.v0 then 8 else 7) s.me.gen.toNat o.imm.toNat s.cur.2 (s.G o.a).toNat 0)) := by
  have hden : ¬ (decide (s.cur.2 = 15) || decide (10 < s.cur.2) && !o.v0) = true := by
    rw [decide_eq_false (by omega), decide_eq_false (by omega)]
    exact Bool.false_ne_true
  show execMsend o s = _
  rw [execMsend, guarded_true hg]
  dsimp only
  rw [if_neg hden, State.withRank_bad _ _ _ _ h]

theorem exec_ssig_badRank {o : EOp} {s : State} (hg : s.guard o.grd = true) (hv : o.v0 = true)
    (h : 256 ≤ (s.G o.a).toNat ∨ s.teamSize s.cur.1 ≤ (s.G o.a).toNat) :
    exec (.ssig o) s = .next (s.found s 0x10
      (msgInfo 1 4 s.me.gen.toNat 0 s.cur.2 (s.G o.a).toNat (s.sidx o))) := by
  show execSsig o s = _
  rw [execSsig, guarded_true hg]
  dsimp only
  rw [hv, Bool.not_true, if_neg Bool.false_ne_true, State.withRank_bad _ _ _ _ h]

/-- What a message posted without a change of BARQ does. -/
theorem post_outcomes {i : Instr} {o : EOp} {s : State} {r : Nat} {kind : MsgKind} (hi : i ≠ .bara o)
    (h : exec i s = .next (s.post o r kind id)) :
    (s.conf.outDepth ≤ (s.posted s.cur.1).length → o.nra = .set → Unready i s 4 9) ∧
    ((s.posted s.cur.1).length < s.conf.outDepth → ∃ t m, exec i s = .next t ∧
      Writes s t s.me (.ok false) 0 0 ∧ t.msgs = s.msgs ++ [m] ∧ m.kind = kind ∧ m.rank = r ∧
      m.pid = s.cur.1 ∧ m.ctx = s.cur.2 ∧ m.gen = s.me.gen.toNat ∧ m.srank = s.myCore.rank ∧
      t.mem = s.mem ∧ (∀ p k, (p, k) ≠ s.cur → t.ctx p k = s.ctx p k) ∧
      { t.myCore with ctxs := [] } = { s.myCore with
        ctxs := [], msent := t.myCore.msent
        barq := if i = .bara o then (s.myCore.barq + 1) % 65536 else s.myCore.barq }) := by
  refine ⟨fun hf hn => post_full h hf hn, fun hf => ?_⟩
  obtain ⟨t, ht, hwr, hmsgs, hmem, hctx, hcore⟩ :=
    post_sends (c := { s.myCore with msent := s.sentWith kind }) h hf rfl rfl
  refine ⟨t, s.message r kind, ht, hwr, hmsgs, rfl, rfl, rfl, rfl, rfl, rfl, hmem, hctx, ?_⟩
  have hm : t.myCore.msent = s.sentWith kind := by
    have e := congrArg Core.msent hcore
    exact e
  rw [hcore, hm, if_neg hi]

theorem State.posted_arrival (s : State) (a b : Nat) :
    State.setMyCore { s.sendMsg 0 (.arrival a) with nextId := s.nextId + 1 }
      { State.myCore { s.sendMsg 0 (.arrival a) with nextId := s.nextId + 1 } with barq := b } =
    { s.setMyCore { s.myCore with msent := s.sentWith (.arrival a), barq := b } with
      msgs := s.msgs ++ [s.message 0 (.arrival a)], nextId := s.nextId + 1 } := by
  have e : (s.setMyCore { s.myCore with msent := s.sentWith (.arrival a) }).setMyCore
      { (s.setMyCore { s.myCore with msent := s.sentWith (.arrival a) }).myCore with barq := b } =
      s.setMyCore { s.myCore with msent := s.sentWith (.arrival a), barq := b } := by
    rw [State.myCore_setMyCore]
    exact s.setCore_setCore _ _ _
  exact congrArg (fun v : State => { v with msgs := s.msgs ++ [s.message 0 (.arrival a)], nextId := s.nextId + 1 }) e

/-- Settles O30: a message to another rank is posted with its operands, or waits for room. -/
theorem messagesArePosted : Obligations.MessagesArePosted := by
  refine ⟨fun o s i kind r hg hi => ?_, fun o s hg hr => ⟨fun hk => ?_, fun hv => ?_⟩⟩
  · obtain ⟨rfl, hv, hl, rfl, rfl, h1, h2, hne⟩ | ⟨rfl, h15, hk, rfl, rfl, h1, h2⟩ | ⟨rfl, ha, hb, rfl, rfl, h1, h2, hne⟩ |
      ⟨rfl, hk, hl, hb, rfl, rfl⟩ := hi
    · exact post_outcomes (fun h => nomatch h) (exec_ssig_posts hg hv hl h1 h2 hne)
    · exact post_outcomes (fun h => nomatch h) (exec_msend_posts hg h15 hk h1 h2)
    · exact post_outcomes (fun h => nomatch h) (exec_rdec_posts hg ha hb h1 h2 hne)
    · have h := exec_bara_posts hg hk hl hb
      refine ⟨fun hf hn => post_full h hf hn, fun hf => ?_⟩
      obtain ⟨t, ht, hwr, hmsgs, hmem, hctx, hcore⟩ := post_sends (c := { s.myCore with
        msent := s.sentWith (.arrival s.myCore.barq), barq := (s.myCore.barq + 1) % 65536 }) h hf (s.posted_arrival _ _) rfl
      refine ⟨t, s.message 0 (.arrival s.myCore.barq), ht, hwr, hmsgs, rfl, rfl, rfl, rfl, rfl, rfl, hmem, hctx, ?_⟩
      have hm : t.myCore.msent = s.sentWith (.arrival s.myCore.barq) := by
        have e := congrArg Core.msent hcore
        exact e
      rw [hcore, hm, if_pos rfl]
  · exact State.found_traps (exec_msend_badRank hg hk hr)
  · exact State.found_traps (exec_ssig_badRank hg hv hr)

/-! ### MRD and MRET (R291, R294, R295) -/

theorem exec_mrd_none {o : EOp} {s : State} (hg : s.guard o.grd = true) (hm : s.me.msg = none) :
    exec (.mrd o) s = .next (s.refuse s 2 4 o.nra o.tgt .message) := by
  show execMrd o s = _
  rw [execMrd, guarded_true hg, hm]

theorem exec_mrd_some {o : EOp} {s : State} {m : Msg} (hg : s.guard o.grd = true) (hm : s.me.msg = some m) :
    exec (.mrd o) s = .next (s.okay (s.setG o.d (m.word o.imm.toNat))) := by
  show execMrd o s = _
  rw [execMrd, guarded_true hg, hm]

/-- An instruction that ends with OK and one register written. -/
theorem setG_okay (s : State) (d : Spec) (v : Word) :
    Writes s (s.okay (s.setG d v)) s.me (.ok false) d v ∧ Alone s (s.okay (s.setG d v)) :=
  writes_ok false (HasMe.setReg s d v) rfl (.refl _) (m := s.me.mon) (by rw [← Ctx.setReg_mon s.me d v])

theorem Msg.toNat_header {m : Msg} {rep : Bool} {cls tag : Nat} {w1 w2 : Word} (hk : m.kind = .software rep cls tag w1 w2)
    (ht : tag < 65536) (hr : m.srank < 65536) (hc : m.ctx < 16) (hcls : cls < 4) : m.header.toNat =
    tag * 2 ^ 48 + m.srank * 2 ^ 32 + m.ctx * 2 ^ 28 + (if rep then 0 else cls) * 2 ^ 26 + (if rep then 2 ^ 25 else 0) := by
  rw [Msg.header, hk]
  cases rep
  · simp only [Bool.false_eq_true, if_false, BitVec.toNat_ofNat]
    omega
  · simp only [if_true, BitVec.toNat_ofNat]
    omega

/-- The core once the handler in context `k` has left it. -/
noncomputable def Core.handled (c : Core) (k : Nat) : Core :=
  { (c.setCtx k { c.ctx k with live := false, wait := none, slot := none, stop := none, held := [], yielded := none
                               msg := none }).forget k with
    locks := c.locks.filter fun e => !(e.2.kind == 3 && e.2.ctx == k) }

theorem State.endHandler_stirred {s : State} {p k : Nat} (h : (s.ctx p k).held = []) :
    Stirred (s.setCore p ((s.core p).handled k).reap) (s.endHandler p k) ∧ (s.endHandler p k).mem = s.mem := by
  have h' : ((s.core p).ctx k).held = [] := h
  have hbare : s.endHandler p k = (s.setCore p ((s.core p).handled k)).locksFreed p := by
    unfold State.endHandler
    simp only [h', List.foldl_nil]
    rfl
  have hcore : (s.setCore p ((s.core p).handled k)).core p = (s.core p).handled k := State.core_setCore_self _ _ _
  rw [hbare, State.locksFreed_eq, hcore, State.setCore_setCore]
  exact ⟨State.wakeIf_stirred _ _ _, State.wakeIf_mem _ _ _⟩

theorem exec_mret_handler {o : ROp} {s : State} (hg : s.guard o.grd = true) (hk : 11 ≤ s.cur.2)
    (hr : s.me.replyDue = false) : exec (.mret o) s = .next (s.endHandler s.cur.1 s.cur.2) := by
  show execMret o s = _
  rw [execMret, guarded_true hg]
  dsimp only
  rw [if_neg (by omega), hr, if_neg Bool.false_ne_true]

theorem exec_mret_denied {o : ROp} {s : State} (hg : s.guard o.grd = true) (hk : s.cur.2 < 11) :
    exec (.mret o) s = .next (s.check 5 (slotBits (.mret o))) := by
  show execMret o s = _
  rw [execMret, guarded_true hg]
  dsimp only
  rw [if_pos hk]
  rfl

/-- Settles O31: MRD reads the current message; MRET ends the handling, and leaves the other contexts. -/
theorem handlersReadMessages : Obligations.HandlersReadMessages := by
  refine fun o q s => ⟨fun hg => ⟨fun hm hn => ?_, fun m rep cls tag w1 w2 hm hkind => ⟨fun hi => ?_, fun hi => ?_,
    fun hi ht hr hc hcls => ?_⟩⟩, fun hg => ⟨fun hk => State.check_traps (exec_mret_denied hg hk), fun hk hr hh => ?_⟩⟩
  · exact unready_of_refuse (by rw [hn]; decide) rfl rfl rfl (fun _ => rfl) (exec_mrd_none hg hm)
  · have hw : m.word o.imm.toNat = w1 := by rw [hi, Msg.word, hkind]; rfl
    obtain ⟨hwr, hal⟩ := setG_okay s o.d w1
    exact ⟨_, hw ▸ exec_mrd_some hg hm, hwr, hal⟩
  · have hw : m.word o.imm.toNat = w2 := by rw [hi, Msg.word, hkind]; rfl
    obtain ⟨hwr, hal⟩ := setG_okay s o.d w2
    exact ⟨_, hw ▸ exec_mrd_some hg hm, hwr, hal⟩
  · have hw : m.word o.imm.toNat = m.header := by rw [hi, Msg.word, hkind]; rfl
    obtain ⟨hwr, hal⟩ := setG_okay s o.d m.header
    have hv := Msg.toNat_header hkind ht hr hc hcls
    refine ⟨_, m.header, hw ▸ exec_mrd_some hg hm, hwr, hal, ?_⟩
    rw [hv]
    clear hv
    unfold fld
    cases rep
    · simp only [Bool.false_eq_true, if_false, iff_false]
      exact ⟨by omega, by omega, by omega, fun _ => by omega, by omega⟩
    · simp only [if_true, iff_true]
      exact ⟨by omega, by omega, by omega, (fun h => nomatch h), by omega⟩
  · obtain ⟨hst, hmem⟩ := State.endHandler_stirred (s := s) (p := s.cur.1) (k := s.cur.2) hh
    have hcur : (s.endHandler s.cur.1 s.cur.2).cur = s.cur := hst.cur
    have hself := hst.contexts s.cur.1 s.cur.2
    rw [State.ctx, State.ctx, State.core_setCore_self, show (((s.core s.cur.1).handled s.cur.2).reap).ctx s.cur.2 = _ from
      Core.ctx_setCtx_self _ _ _] at hself
    refine ⟨_, exec_mret_handler hg hk hr, ?_, ?_, ?_, hmem, fun j hj => ?_⟩
    · rw [State.me, hcur]
      exact (congrArg Ctx.live hself :)
    · rw [State.me, hcur]
      exact (congrArg Ctx.msg hself :)
    · rw [State.me, hcur]
      exact (congrArg Ctx.slot hself :)
    · rw [hst.contexts, State.ctx, State.core_setCore_self]
      exact congrArg Ctx.still (Core.ctx_setCtx_ne _ _ hj)

end Sys2Proof.Machine
end

section

/-!
# Sweeps are accepted

The checks of a sweep, the outcomes of R313, and what its acceptance records (R310–R315, R463, R503).
-/

namespace Sys2Proof

/-! ### A key that nothing holds -/

namespace KMap

variable {α : Type} {m : KMap α} {k : Nat}

theorem mem_keys_of_find? (h : (find? m k).isSome) : k ∈ m.map Prod.fst := by
  induction m with
  | nil => exact absurd h Bool.false_ne_true
  | cons e m ih =>
    obtain ⟨j, x⟩ := e
    rw [find?] at h
    split at h
    · next hj => exact List.mem_map.mpr ⟨(j, x), List.mem_cons_self, hj⟩
    · exact List.mem_cons_of_mem _ (ih h)

theorem length_put_of_free (x : α) (h : find? m k = none) : (put m k x).length = m.length + 1 := by
  induction m with
  | nil => rfl
  | cons e m ih =>
    obtain ⟨j, y⟩ := e
    rw [find?] at h
    split at h
    · exact nomatch h
    · next hj =>
      rw [put]
      split
      · rfl
      · rw [if_neg (Ne.symm hj), List.length_cons, ih h, List.length_cons]

theorem mem_put_of_free (x : α) (h : find? m k = none) {e : Nat × α} (he : e ∈ m) : e ∈ put m k x := by
  induction m with
  | nil => exact nomatch he
  | cons f m ih =>
    obtain ⟨j, y⟩ := f
    rw [find?] at h
    split at h
    · exact nomatch h
    · next hj =>
      rw [put]
      split
      · exact List.mem_cons_of_mem _ he
      · rw [if_neg (Ne.symm hj)]
        obtain rfl | he := List.mem_cons.mp he
        · exact List.mem_cons_self
        · exact List.mem_cons_of_mem _ (ih h he)

theorem put_mem (m : KMap α) (k : Nat) (x : α) : (k, x) ∈ put m k x := by
  induction m with
  | nil => exact List.mem_cons_self
  | cons f m ih =>
    obtain ⟨j, y⟩ := f
    rw [put]
    split
    · exact List.mem_cons_self
    · split
      · exact List.mem_cons_self
      · exact List.mem_cons_of_mem _ ih

end KMap

namespace Machine

/-! ### Range locks (R158) -/

theorem length_of_all_found {m : KMap Lock} {i : Nat} (h : ∀ j, j < i → (m.find? j).isSome) : i ≤ m.length := by
  have hsub : List.range i ⊆ m.map Prod.fst := fun j hj => KMap.mem_keys_of_find? (h j (List.mem_range.mp hj))
  have hle := (List.nodup_range.subperm hsub).length_le
  rwa [List.length_range, List.length_map] at hle

theorem firstFree_free {m : KMap Lock} {n : Nat} : ∀ {i : Nat}, (∀ j, j < i → (m.find? j).isSome) → m.length < i + n →
    m.find? (firstFree m n i) = none := by
  induction n with
  | zero =>
    intro i hall hlen
    have := length_of_all_found hall
    omega
  | succ n ih =>
    intro i hall hlen
    rw [firstFree]
    split
    · next hi =>
      refine ih (fun j hj => ?_) (by omega)
      obtain hj | rfl := Nat.lt_succ_iff_lt_or_eq.mp hj
      · exact hall j hj
      · exact hi
    · next hi => exact Option.not_isSome_iff_eq_none.mp hi

/-- Locks that find room are entered, and the locks that stood there stay. -/
theorem Core.addLocks_entered {c : Core} {ls : List Lock} (h : ls.length ≤ 16 - c.locks.length) :
    (∀ e ∈ c.locks, e ∈ (c.addLocks ls).locks) ∧ (c.addLocks ls).locks.length = c.locks.length + ls.length ∧
      ∀ l ∈ ls, ∃ e ∈ (c.addLocks ls).locks, e.2 = l := by
  induction ls generalizing c with
  | nil => exact ⟨fun _ he => he, rfl, fun _ hl => nomatch hl⟩
  | cons l ls ih =>
    rw [List.length_cons] at h
    have hfree : c.locks.find? (firstFree c.locks 16 0) = none := firstFree_free (fun _ hj => by omega) (by omega)
    have hlen : (c.addLock l).1.locks.length = c.locks.length + 1 := KMap.length_put_of_free l hfree
    obtain ⟨hold, hcount, hnew⟩ := ih (c := (c.addLock l).1) (by omega)
    refine ⟨fun e he => hold e (KMap.mem_put_of_free l hfree he), ?_, fun x hx => ?_⟩
    · rw [List.length_cons]
      exact hcount.trans (by omega)
    · obtain rfl | hx := List.mem_cons.mp hx
      · exact ⟨_, hold _ (KMap.put_mem _ _ _), rfl⟩
      · exact hnew x hx

theorem Core.addLocks_eq (c : Core) (ls : List Lock) : c.addLocks ls = { c with locks := (c.addLocks ls).locks } := by
  induction ls generalizing c with
  | nil => rfl
  | cons l ls ih => exact (ih (c.addLock l).1)

theorem Core.lockWork_eq (c : Core) (kind k owner : Nat) (ls : List (Bool × Nat × Nat)) :
    c.lockWork kind k owner ls = { c with locks := (c.lockWork kind k owner ls).locks } := c.addLocks_eq _

theorem Core.locksTaken (c : Core) (kind k owner : Nat) {ls : List (Bool × Nat × Nat)}
    (h : ls.length ≤ 16 - c.locks.length) : LocksTaken c (c.lockWork kind k owner ls) kind k owner ls := by
  obtain ⟨hold, hcount, hnew⟩ := Core.addLocks_entered (c := c) (ls := ls.map fun e =>
    { kind := kind, ctx := k, ls := e.1, base := e.2.1, len := e.2.2, owner := owner }) (by rwa [List.length_map])
  refine ⟨hold, by rwa [List.length_map] at hcount, fun l hl => ?_⟩
  exact hnew _ (List.mem_map_of_mem hl)

/-! ### The forms and the common path -/

theorem State.span_eq (s : State) (sp : Spec) (sc : Bool) (st : BitVec 10) (n bytes : Nat) (t : Ty) :
    s.span sp sc st n bytes t = if isV sp || sc then [] else
      [{ x0 := s.G sp, step := sextInt st.toNat 10, cnt := n, bytes := bytes, align := elemBytes t : Span }] := rfl

theorem State.span_one (s : State) (sp : Spec) (sc : Bool) (st : BitVec 10) (n bytes : Nat) (t : Ty) :
    (s.span sp sc st n bytes t).map (fun (q : Span) => { q with cnt := 1 }) = s.span sp sc st 1 bytes t := by
  rw [State.span_eq, State.span_eq]
  split
  · rfl
  · rfl

/-- The sweep that a form names is the one its instruction runs. -/
noncomputable def SweepForm.Runs (f : SweepForm) (o : VOp) (s : State) : Prop := exec f.i s = .next (s.sweep f.i o f.plan f.a2)

theorem runs_bin {o : VOp} {s : State} (hg : s.guard o.grd = true) {i : Instr}
    (hi : i ∈ ([.vadd o, .vsub o, .vmul o, .vmin o, .vmax o, .vsel o, .vand o, .vor o, .vxor o, .vshl o, .vshr o,
      .vperm o] : List Instr)) : exec i s = .next (s.sweep i o (s.planBin o none o.ty.tag)) := by
  have h : ∀ j, binSweep o s j = .next (s.sweep j o (s.planBin o none o.ty.tag)) := fun j => guarded_true hg _
  simp only [List.mem_cons, List.not_mem_nil, or_false] at hi
  rcases hi with rfl | rfl | rfl | rfl | rfl | rfl | rfl | rfl | rfl | rfl | rfl | rfl <;> exact h _

theorem runs_un {o : VOp} {s : State} (hg : s.guard o.grd = true) {i : Instr}
    (hi : i ∈ ([.vabs o, .vexp2 o, .vlog2 o, .vrcp o, .vrsq o, .vscan o] : List Instr)) :
    exec i s = .next (s.sweep i o (s.planUn o o.cnt.toNat o.ty.tag)) := by
  have h : ∀ j, unSweep o s j = .next (s.sweep j o (s.planUn o o.cnt.toNat o.ty.tag)) := fun j => guarded_true hg _
  simp only [List.mem_cons, List.not_mem_nil, or_false] at hi
  rcases hi with rfl | rfl | rfl | rfl | rfl | rfl <;> exact h _

theorem sweepForms_run {o : VOp} {s : State} {f : SweepForm} (hf : f ∈ sweepForms o s) (hg : s.guard o.grd = true) :
    f.Runs o s := by
  simp only [sweepForms, List.mem_append] at hf
  rcases hf with (hf | hf) | hf
  · obtain ⟨i, hi, rfl⟩ := List.mem_map.mp hf
    exact runs_bin hg hi
  · obtain ⟨i, hi, rfl⟩ := List.mem_map.mp hf
    exact runs_un hg hi
  · simp only [List.mem_cons, List.not_mem_nil, or_false] at hf
    rcases hf with rfl | rfl | rfl | rfl | rfl | rfl | rfl | rfl | rfl | rfl | rfl | rfl | rfl
    · exact (guarded_true hg _ : execVfma o s = _)
    · exact (guarded_true hg _ : execVcmp o s = _)
    · exact (guarded_true hg _ : execVcvt o s = _)
    · refine (guarded_true hg _ : execVred o s = _).trans (congrArg (fun l => Host.Outcome.next (s.sweep _ o
        { regs := _, spans := l ++ _, dtag := _ } 0)) ?_)
      exact (s.span_one o.d false o.sd o.cnt.toNat 64 o.ty).symm
    · exact (guarded_true hg _ : execVgath o s = _)
    · exact (guarded_true hg _ : execVscat o s = _)
    · exact (guarded_true hg _ : execVqnt o s = _)
    · exact (guarded_true hg _ : execVdq o s = _)
    · exact (guarded_true hg _ : execVmov o s = _)
    · exact (guarded_true hg _ : execVld o s = _)
    · exact (guarded_true hg _ : execVst o s = _)
    · refine (guarded_true hg _ : execVmrg o s = _).trans (congrArg (fun n => Host.Outcome.next (s.sweep _ o
        { regs := _, spans := _ ++ [s.block o.a (n + _) _, s.block o.b (n + _) _], dtag := _ } 0)) ?_)
      exact Nat.mul_comm _ _
    · exact (guarded_true hg _ : execVbsr o s = _)

/-! ### The checks of R503, and the outcomes of R313 -/

/-- The segments and blocks whose alignment a sweep checks. -/
noncomputable def VPlan.all (p : VPlan) : List Span := p.spans ++ (p.mem.map (·.1)).toList

/-- The vector registers of a sweep. -/
noncomputable def State.named (s : State) (p : VPlan) : List Nat := (p.regs.filter fun r => isV r.1).filterMap fun r => s.me.pool r.1

/-- The context's own buffered stores into the memory of a sweep. -/
noncomputable def State.storesInto (s : State) (m : Option (Span × Nat)) : Bool :=
  match m with
  | some (m, _) => s.myCore.sbuf.any fun e => e.ctx == s.cur.2 && e.gen == s.me.gen.toNat &&
      overlap (wordAddr e.va).toNat 8 m.lo.toNat m.len
  | none => false

/-- The work that an accepted sweep leaves. -/
noncomputable def State.sweepWork (s : State) (i : Instr) (o : VOp) (p : VPlan) (a2 : Word) : Work :=
  { id := s.nextId, instr := i, ctx := s.cur.2, gen := s.me.gen.toNat, ip := s.ip, cls := s.me.top2, seq := s.myCore.seq
    d := s.G o.d, a := s.G o.a, b := s.G o.b, e := 0, a2 := a2, b2 := 0, vbase := s.me.vbase, tbase := s.me.tbase
    dom := s.myCore.dom, vregs := s.named p, tregs := [], dreg := s.me.pool o.d, dtag := p.dtag }

/-- The state once a sweep is accepted, before the instruction ends. -/
noncomputable def State.takeSweep (s : State) (i : Instr) (o : VOp) (p : VPlan) (a2 : Word) : State :=
  { s.setMyCore { s.myCore.lockWork 0 s.cur.2 s.nextId p.locks with
      sweeps := s.myCore.sweeps ++ [s.sweepWork i o p a2] } with nextId := s.nextId + 1 }

section Checks

variable {s : State} {i : Instr} {o : VOp} {p : VPlan} {a2 : Word}

theorem State.sweep_badTag {info : Word} (h : s.badTag p.regs = some info) : s.sweep i o p a2 = s.check 8 info := by
  simp only [State.sweep, h]

theorem State.sweep_unaligned {q : Span} (h : s.badTag p.regs = none) (hq : p.all.find? (fun q => !q.aligned) = some q) :
    s.sweep i o p a2 = s.check 7 q.x0 := by
  have hq' : (p.spans ++ (p.mem.map (·.1)).toList).find? (fun q => !q.aligned) = some q := hq
  simp only [State.sweep, h, hq']

theorem find?_not_none {α : Type} {l : List α} {f : α → Bool} (h : ∀ q ∈ l, f q = true) : l.find? (fun q => !f q) = none :=
  List.find?_eq_none.mpr fun q hq => by rw [h q hq]; exact Bool.false_ne_true

theorem State.sweep_outside {q : Span} (h : s.badTag p.regs = none) (ha : ∀ q ∈ p.all, q.aligned = true)
    (hq : p.spans.find? (fun q => !q.inside) = some q) : s.sweep i o p a2 = s.check 6 q.x0 := by
  have ha' : (p.spans ++ (p.mem.map (·.1)).toList).find? (fun q => !q.aligned) = none := find?_not_none ha
  simp only [State.sweep, h, ha', hq]

/-- The memory of a sweep that fails its check. -/
theorem State.sweep_faults {m : Span × Nat} {a : Word} (h : s.badTag p.regs = none) (ha : ∀ q ∈ p.all, q.aligned = true)
    (hi : ∀ q ∈ p.spans, q.inside = true) (hm : p.mem = some m) (hf : s.memFault m.1 m.2 = some a) :
    (m.2 = rW → (∃ d n, windowOf s.myCore.rank a = .weight d n) → s.sweep i o p a2 = s.check 0x11 a) ∧
    (m.2 ≠ rW ∨ (∀ d n, windowOf s.myCore.rank a ≠ .weight d n) → s.sweep i o p a2 = s.check 6 a) := by
  have ha' : (p.spans ++ (p.mem.map (·.1)).toList).find? (fun q => !q.aligned) = none := find?_not_none ha
  have hi' := find?_not_none hi
  have hbind : (p.mem.bind fun m => s.memFault m.1 m.2) = some a := by rw [hm]; exact hf
  have hany : p.mem.any (·.2 == rW) = (m.2 == rW) := by rw [hm]; rfl
  refine ⟨fun hw hwin => ?_, fun hor => ?_⟩
  · obtain ⟨d, n, hdn⟩ := hwin
    simp only [State.sweep, h, ha', hi', hbind, hany, hdn, hw, beq_self_eq_true, if_true]
  · simp only [State.sweep, h, ha', hi', hbind, hany]
    split
    · next d n hdn =>
      obtain hor | hor := hor
      · rw [beq_false_of_ne hor, if_neg Bool.false_ne_true]
      · exact absurd hdn (hor d n)
    · rw [if_neg Bool.false_ne_true]

/-- A sweep whose checks pass: the first condition of R313 that holds, else its acceptance. -/
theorem State.sweep_checked (h : s.badTag p.regs = none) (ha : ∀ q ∈ p.all, q.aligned = true)
    (hi : ∀ q ∈ p.spans, q.inside = true) (hm : ∀ m, p.mem = some m → s.memFault m.1 m.2 = none) :
    s.sweep i o p a2 =
      if s.storesInto p.mem then s.busyV 11
      else if (s.named p).any fun r => s.myCore.mats.any fun w => w.vregs.contains r then s.busyV 2
      else if p.locks.any fun l => s.myCore.lockedFor s.cur.2 l.1 l.2.1 l.2.2 then s.busyV 4
      else if s.myCore.freeLocks < p.locks.length then s.busyV 10
      else if 4 ≤ s.myCore.sweeps.length then s.busyV 3
      else s.okay (s.takeSweep i o p a2) := by
  have ha' : (p.spans ++ (p.mem.map (·.1)).toList).find? (fun q => !q.aligned) = none := find?_not_none ha
  have hi' := find?_not_none hi
  have hm' : (p.mem.bind fun m => s.memFault m.1 m.2) = none := by
    cases hmem : p.mem with
    | none => rfl
    | some m => exact hm m hmem
  simp only [State.sweep, h, ha', hi', hm']
  have hlock : ∀ c : Core, { c.lockWork 0 s.cur.2 s.nextId p.locks with
      sweeps := (c.lockWork 0 s.cur.2 s.nextId p.locks).sweeps ++ [s.sweepWork i o p a2] } =
      { c.lockWork 0 s.cur.2 s.nextId p.locks with sweeps := c.sweeps ++ [s.sweepWork i o p a2] } := fun c => by
    rw [Core.lockWork_eq]
  exact congrArg (fun c => if s.storesInto p.mem then s.busyV 11
      else if (s.named p).any fun r => s.myCore.mats.any fun w => w.vregs.contains r then s.busyV 2
      else if p.locks.any fun l => s.myCore.lockedFor s.cur.2 l.1 l.2.1 l.2.2 then s.busyV 4
      else if s.myCore.freeLocks < p.locks.length then s.busyV 10
      else if 4 ≤ s.myCore.sweeps.length then s.busyV 3
      else s.okay { s.setMyCore c with nextId := s.nextId + 1 }) (hlock s.myCore)

end Checks

theorem State.storesInto_iff {s : State} {m : Option (Span × Nat)} : s.storesInto m = true ↔
    ∃ q e, m = some q ∧ e ∈ s.myCore.sbuf ∧ e.ctx = s.cur.2 ∧ e.gen = s.me.gen.toNat ∧
      overlap (wordAddr e.va).toNat 8 q.1.lo.toNat q.1.len = true := by
  cases m with
  | none => simp [State.storesInto]
  | some q => simp [State.storesInto, and_assoc]

/-- An instruction that ends with OK and changes no register. -/
theorem accepted {s u : State} (hme : u.me = s.me) (hp : u.pair = s.pair) :
    Writes s (s.okay u) s.me (.ok false) 0 0 ∧ Alone u (s.okay u) := by
  have h : HasMe u u s.me := hme ▸ HasMe.refl u
  exact writes_okay false h hp (.refl _)

/-- What an accepted sweep leaves. -/
theorem takeSweep_okay {s : State} {i : Instr} {o : VOp} {p : VPlan} {a2 : Word}
    (hl : p.locks.length ≤ 16 - s.myCore.locks.length) :
    ∃ t w, s.okay (s.takeSweep i o p a2) = t ∧ Writes s t s.me (.ok false) 0 0 ∧ t.nextId = s.nextId + 1 ∧
      t.myCore.sweeps = s.myCore.sweeps ++ [w] ∧ TakenUp s w i ∧ w.d = s.G o.d ∧ w.a = s.G o.a ∧
      w.b = s.G o.b ∧ w.a2 = a2 ∧ w.vregs = s.named p ∧ w.dreg = s.me.pool o.d ∧ w.dtag = p.dtag ∧
      LocksTaken s.myCore t.myCore 0 s.cur.2 s.nextId p.locks ∧
      Alone ({ s.setMyCore { s.myCore with sweeps := t.myCore.sweeps, locks := t.myCore.locks } with
        nextId := s.nextId + 1 }) t := by
  set d : Core := { s.myCore.lockWork 0 s.cur.2 s.nextId p.locks with
    sweeps := s.myCore.sweeps ++ [s.sweepWork i o p a2] } with hd
  have hdc : d = { s.myCore with sweeps := d.sweeps, locks := d.locks } := by
    rw [hd, Core.lockWork_eq]
  have hcore : (s.takeSweep i o p a2).myCore = d := State.myCore_setMyCore s d
  have hme : (s.takeSweep i o p a2).me = s.me := by
    refine (State.me_setMyCore s d).trans ?_
    rw [hdc]
    rfl
  obtain ⟨hwr, hal⟩ := accepted hme (s := s) rfl
  have hc := hal.myCore
  rw [hcore] at hc
  have hsweeps : (s.okay (s.takeSweep i o p a2)).myCore.sweeps = d.sweeps := by
    have e := congrArg Core.sweeps hc
    exact e
  have hlocks : (s.okay (s.takeSweep i o p a2)).myCore.locks = d.locks := by
    have e := congrArg Core.locks hc
    exact e
  have hnext := congrArg State.nextId hal.machine
  refine ⟨_, s.sweepWork i o p a2, rfl, hwr, hnext, hsweeps, ⟨rfl, rfl, ⟨rfl, rfl, rfl, rfl⟩, ⟨rfl, rfl, rfl⟩, ⟨rfl, rfl⟩⟩,
    rfl, rfl, rfl, rfl, rfl, rfl, rfl, ?_, ?_⟩
  · obtain ⟨hold, hcount, hnew⟩ := s.myCore.locksTaken 0 s.cur.2 s.nextId hl
    rw [LocksTaken, hlocks]
    exact ⟨hold, hcount, hnew⟩
  · rw [hsweeps, hlocks, ← hdc]
    exact hal

/-- Settles O35: each check of a sweep, then each outcome, then its acceptance. -/
theorem sweepsAreAccepted : Obligations.SweepsAreAccepted := by
  intro o s f hf hg c p all regs
  have hexec : exec f.i s = .next (s.sweep f.i o f.plan f.a2) := sweepForms_run hf hg
  refine ⟨fun info h => State.check_traps (hexec.trans (congrArg _ (State.sweep_badTag h))), fun hb =>
    ⟨fun q hq => State.check_traps (hexec.trans (congrArg _ (State.sweep_unaligned hb hq))), fun ha =>
    ⟨fun q hq => State.check_traps (hexec.trans (congrArg _ (State.sweep_outside hb ha hq))), fun hi =>
    ⟨fun m a hm hfault => ?_, fun hm => ?_⟩⟩⟩⟩
  · obtain ⟨hweight, helse⟩ := State.sweep_faults (i := f.i) (o := o) (a2 := f.a2) hb ha hi hm hfault
    exact ⟨fun hw hwin => State.check_traps (hexec.trans (congrArg _ (hweight hw hwin))),
      fun h => State.check_traps (hexec.trans (congrArg _ (helse h)))⟩
  · rw [State.sweep_checked hb ha hi hm] at hexec
    intro stores named locked
    have hstores : s.storesInto f.plan.mem = true ↔ stores := State.storesInto_iff
    have hnamed : ((s.named f.plan).any fun r => s.myCore.mats.any fun w => w.vregs.contains r) = true ↔ named := by
      simp only [List.any_eq_true, List.contains_iff_mem]
      rfl
    have hlocked : (f.plan.locks.any fun l => s.myCore.lockedFor s.cur.2 l.1 l.2.1 l.2.2) = true ↔ locked :=
      List.any_eq_true
    have hfree : s.myCore.freeLocks < f.plan.locks.length ↔ 16 - c.locks.length < p.locks.length := Iff.rfl
    refine ⟨fun h1 => ?_, fun h1 h2 => ?_, fun h1 h2 h3 => ?_, fun h1 h2 h3 => ⟨fun h4 => ?_, fun h4 =>
      ⟨fun h5 => ?_, fun h5 => ?_⟩⟩⟩
    · rw [if_pos (hstores.mpr h1)] at hexec
      exact unready_of_busy rfl hexec
    · rw [if_neg (mt hstores.mp h1), if_pos (hnamed.mpr h2)] at hexec
      exact unready_of_busy rfl hexec
    · rw [if_neg (mt hstores.mp h1), if_neg (mt hnamed.mp h2), if_pos (hlocked.mpr h3)] at hexec
      exact unready_of_busy rfl hexec
    · rw [if_neg (mt hstores.mp h1), if_neg (mt hnamed.mp h2), if_neg (mt hlocked.mp h3), if_pos (hfree.mpr h4)] at hexec
      exact unready_of_busy rfl hexec
    · rw [if_neg (mt hstores.mp h1), if_neg (mt hnamed.mp h2), if_neg (mt hlocked.mp h3),
        if_neg (mt hfree.mp (Nat.not_lt.mpr h4)), if_pos h5] at hexec
      exact unready_of_busy rfl hexec
    · rw [if_neg (mt hstores.mp h1), if_neg (mt hnamed.mp h2), if_neg (mt hlocked.mp h3),
        if_neg (mt hfree.mp (Nat.not_lt.mpr h4)), if_neg (Nat.not_le.mpr h5)] at hexec
      obtain ⟨t, w, rfl, hres⟩ := takeSweep_okay (s := s) (i := f.i) (o := o) (a2 := f.a2) h4
      exact ⟨_, w, hexec, hres⟩

end Machine
end Sys2Proof
end

section

/-!
# Matrix work is accepted

The checks of a matrix instruction, the outcomes of R339, the ramp limiter of R384, and what acceptance records.
-/

namespace Sys2Proof.Machine
open Sys2Proof

/-! ### Zones -/

theorem State.zone_setZone_self (s : State) (z : Nat) (x : Zone) : (s.setZone z x).zone z = x := KMap.get_put_self _ _ _ _

theorem State.zone_setZone_ne (s : State) {z y : Nat} (x : Zone) (h : y ≠ z) : (s.setZone z x).zone y = s.zone y :=
  KMap.get_put_ne _ _ _ h

/-! ### The ramp limiter (R384) -/

/-- What a zone's window holds for others than `pid`. -/
noncomputable def Zone.asked (z : Zone) (pid : Nat) : Nat :=
  z.r + ((z.refused.filter fun r => r.reserved && r.pid != pid).map (·.units)).sum

theorem sum_filter_split {α : Type} (f g : α → Bool) (u : α → Nat) (l : List α) :
    ((l.filter fun x => g x && f x).map u).sum + ((l.filter fun x => f x && !g x).map u).sum = ((l.filter f).map u).sum := by
  induction l with
  | nil => rfl
  | cons x l ih =>
    rw [List.filter_cons, List.filter_cons, List.filter_cons]
    cases f x
    · rw [Bool.and_false, Bool.false_and, if_neg Bool.false_ne_true, if_neg Bool.false_ne_true, if_neg Bool.false_ne_true]
      exact ih
    · cases g x
      · simp only [Bool.false_and, Bool.not_false, Bool.and_self, Bool.false_eq_true, if_false, if_true, List.map_cons,
          List.sum_cons]
        omega
      · simp only [Bool.true_and, Bool.not_true, Bool.and_false, Bool.false_eq_true, if_false, if_true, List.map_cons,
          List.sum_cons]
        omega

theorem Zone.asked_eq (z : Zone) (pid : Nat) :
    z.r + z.reserved - ((z.refused.filter fun r => r.pid == pid && r.reserved).map (·.units)).sum = z.asked pid := by
  have h := sum_filter_split (fun r : Ramp => r.reserved) (fun r => r.pid == pid) (fun r => r.units) z.refused
  rw [Zone.reserved, Zone.asked, ← h]
  show _ = z.r + (List.map _ (List.filter (fun r : Ramp => r.reserved && !(r.pid == pid)) _)).sum
  omega

theorem Zone.grant_withheld {z : Zone} {pid dom u op : Nat} (h : 0 < z.asked pid ∧ z.act + z.rup.toNat < z.asked pid + u) :
    (z.grant pid dom u op).2 = false := by
  unfold Zone.grant
  dsimp only
  rw [Zone.asked_eq, if_pos (by rw [Bool.and_eq_true, decide_eq_true_eq, decide_eq_true_eq]; exact h)]

theorem Zone.grant_ok {z : Zone} {pid dom u op : Nat} (h : ¬ (0 < z.asked pid ∧ z.act + z.rup.toNat < z.asked pid + u)) :
    (z.grant pid dom u op).2 = true ∧ (z.grant pid dom u op).1.r = z.r + u := by
  unfold Zone.grant
  dsimp only
  rw [Zone.asked_eq, if_neg (by rw [Bool.and_eq_true, decide_eq_true_eq, decide_eq_true_eq]; exact h)]
  exact ⟨rfl, rfl⟩

/-- The zone after the limiter was asked for `u` units, and whether it grants them. -/
noncomputable def Zone.ask (z : Zone) (pid dom u op : Nat) : Zone × Bool := if u = 0 then (z, true) else z.grant pid dom u op

theorem Zone.ask_withheld {z : Zone} {pid dom u op : Nat} (hu : 0 < u) (hq : 0 < z.asked pid)
    (h : z.act + z.rup.toNat < z.asked pid + u) : (z.ask pid dom u op).2 = false := by
  rw [Zone.ask, if_neg (Nat.ne_of_gt hu)]
  exact Zone.grant_withheld ⟨hq, h⟩

theorem Zone.ask_ok {z : Zone} {pid dom u op : Nat}
    (h : ¬ (0 < u ∧ 0 < z.asked pid ∧ z.act + z.rup.toNat < z.asked pid + u)) :
    (z.ask pid dom u op).2 = true ∧ (z.ask pid dom u op).1.r = z.r + u := by
  rw [Zone.ask]
  split
  · next hu => exact ⟨rfl, by rw [hu]; rfl⟩
  · next hu => exact Zone.grant_ok fun hq => h ⟨Nat.pos_of_ne_zero hu, hq⟩

/-! ### The forms and the common path -/

theorem matrixForms_run {x : XOp} {s : State} {i : Instr} {p : XPlan} (hf : (i, p) ∈ matrixForms x s)
    (hg : s.guard x.grd = true) : exec i s = .next (s.matrix i x p) := by
  simp only [matrixForms, List.mem_cons, List.not_mem_nil, or_false, Prod.mk.injEq] at hf
  rcases hf with ⟨rfl, rfl⟩ | ⟨rfl, rfl⟩ | ⟨rfl, rfl⟩ | ⟨rfl, rfl⟩ | ⟨rfl, rfl⟩ | ⟨rfl, rfl⟩ | ⟨rfl, rfl⟩ | ⟨rfl, rfl⟩
  · exact (guarded_true hg _ : execMma x s = _)
  · exact (guarded_true hg _ : execMld x s = _)
  · exact (guarded_true hg _ : execMst x s = _)
  · exact (guarded_true hg _ : execMzero x s = _)
  · refine (guarded_true hg _ : execMtrn x s = _).trans (congrArg (fun l => Host.Outcome.next (s.matrix _ x
      { tiles := [(x.d, none), (x.a, some l)], dreg := some x.d, dtag := _ })) ?_)
    show _ = (List.range 15).filter (fun t => t != 0 && t != 7 && signOk x.sa t)
    rw [show (List.range 15).filter (fun t => t != 0 && t != 7 && signOk x.sa t) =
      ((List.range 15).filter fun t => t != 0 && t != 7).filter (signOk x.sa) by
        rw [List.filter_filter]; exact List.filter_congr fun t _ => Bool.and_comm _ _]
    rfl
  · exact (guarded_true hg _ : execMcvt x s = _)
  · exact (guarded_true hg _ : execMscl x s = _)
  · exact (guarded_true hg _ : execMacc x s = _)

/-- The matrix operation that an instruction asks for. -/
noncomputable def State.matWork (s : State) (i : Instr) (x : XOp) (p : XPlan) : Work :=
  workOf s i x p s.G s.cur.2 s.me.gen.toNat s.ip s.me.top2 s.me s.myCore.dom

/-- The range locks that a matrix operation takes. -/
noncomputable def XPlan.held (p : XPlan) : List MRange := p.ranges.filter fun r => r.lock

/-- The zone of the executing core after the limiter was asked, and whether it grants. -/
noncomputable def State.askZone (s : State) (i : Instr) (x : XOp) (p : XPlan) : Zone × Bool :=
  (s.zone (zoneOf s.cur.1)).ask s.cur.1 s.myCore.dom (mmaUnits i) (s.matWork i x p).op

/-- The core with a matrix operation taken up. -/
noncomputable def State.matCore (s : State) (i : Instr) (x : XOp) (p : XPlan) : Core :=
  { s.myCore.lockWork 1 s.cur.2 s.nextId (p.held.map fun l => (true, l.lo, l.len)) with
    mats := s.myCore.mats ++ [s.matWork i x p] }

/-- The state once a matrix operation is accepted, before the instruction ends. -/
noncomputable def State.takeMatrix (s : State) (i : Instr) (x : XOp) (p : XPlan) : State :=
  { (s.setZone (zoneOf s.cur.1) (s.askZone i x p).1).setCore s.cur.1 (s.matCore i x p) with nextId := s.nextId + 1 }

theorem Core.lockWork_mats (c : Core) (k owner : Nat) (ls : List (Bool × Nat × Nat)) (w : Work) :
    { c.lockWork 1 k owner ls with mats := (c.lockWork 1 k owner ls).mats ++ [w] } =
      { c.lockWork 1 k owner ls with mats := c.mats ++ [w] } := by
  rw [Core.lockWork_eq]

/-- What the array answers to an operation that an instruction offers (R339, R384). -/
theorem State.offerWork_eq (s : State) (i : Instr) (x : XOp) (p : XPlan) :
    s.offerWork s.cur.1 (s.matWork i x p) p (some s.cur.2) [] =
      if s.myCore.sweeps.any fun v => (s.matWork i x p).tregs.any v.tregs.contains then .busy 3
      else if p.held.any fun l => s.myCore.matLocked (some s.cur.2) [] l.lo l.len then .busy 4
      else if s.myCore.freeLocks < p.held.length then .busy 10
      else if 4 ≤ s.myCore.mats.length then .busy 2
      else if (s.askZone i x p).2 then .ok (s.takeMatrix i x p)
      else .withheld (s.setZone (zoneOf s.cur.1) (s.askZone i x p).1) := by
  have hlast : (if !(s.askZone i x p).2 then Accept.withheld (s.setZone (zoneOf s.cur.1) (s.askZone i x p).1)
      else .ok { (s.setZone (zoneOf s.cur.1) (s.askZone i x p).1).setCore s.cur.1
        { s.myCore.lockWork 1 s.cur.2 s.nextId (p.held.map fun l => (true, l.lo, l.len)) with
          mats := (s.myCore.lockWork 1 s.cur.2 s.nextId (p.held.map fun l => (true, l.lo, l.len))).mats ++
            [s.matWork i x p] } with nextId := s.nextId + 1 }) =
      if (s.askZone i x p).2 then .ok (s.takeMatrix i x p)
      else .withheld (s.setZone (zoneOf s.cur.1) (s.askZone i x p).1) := by
    rw [Core.lockWork_mats]
    cases (s.askZone i x p).2
    · rfl
    · rfl
  rw [← hlast]
  rfl

section Checks

variable {s : State} {i : Instr} {x : XOp} {p : XPlan}

theorem State.matrix_bad (h : p.bad = true) : s.matrix i x p = s.check 1 (slotBits i) := by
  rw [State.matrix, if_pos h]

theorem State.matrix_badTile {info : Word} (h : p.bad = false) (ht : s.badTile p.tiles = some info) :
    s.matrix i x p = s.check 8 info := by
  simp only [State.matrix, h, Bool.false_eq_true, if_false, ht]

theorem State.matrix_unaligned {a : Word × Nat} (h : p.bad = false) (ht : s.badTile p.tiles = none)
    (ha : p.aligns.find? (fun a => a.1.toNat % a.2 != 0) = some a) : s.matrix i x p = s.check 7 a.1 := by
  simp only [State.matrix, h, Bool.false_eq_true, if_false, ht, ha]

theorem aligned_none {l : List (Word × Nat)} (h : ∀ a ∈ l, a.1.toNat % a.2 = 0) :
    l.find? (fun a => a.1.toNat % a.2 != 0) = none :=
  List.find?_eq_none.mpr fun a ha => by rw [h a ha]; exact Bool.false_ne_true

theorem State.matrix_outside {r : MRange} (h : p.bad = false) (ht : s.badTile p.tiles = none)
    (ha : ∀ a ∈ p.aligns, a.1.toNat % a.2 = 0) (hr : p.ranges.find? MRange.outside = some r) :
    s.matrix i x p = s.check 6 r.off := by
  simp only [State.matrix, h, Bool.false_eq_true, if_false, ht, aligned_none ha, hr]

theorem inside_none {l : List MRange} (h : ∀ r ∈ l, r.off.toNat < 2 ^ 20 ∧ r.lo + r.len ≤ 2 ^ 20) :
    l.find? MRange.outside = none :=
  List.find?_eq_none.mpr fun r hr => by
    obtain ⟨h1, h2⟩ := h r hr
    rw [MRange.outside, decide_eq_false (by omega), decide_eq_false (by omega)]
    exact Bool.false_ne_true

/-- A matrix instruction whose checks pass: the first condition of R339 that holds, else its acceptance. -/
theorem State.matrix_checked (h : p.bad = false) (ht : s.badTile p.tiles = none)
    (ha : ∀ a ∈ p.aligns, a.1.toNat % a.2 = 0) (hr : ∀ r ∈ p.ranges, r.off.toNat < 2 ^ 20 ∧ r.lo + r.len ≤ 2 ^ 20) :
    s.matrix i x p =
      if s.myCore.sweeps.any fun v => (s.matWork i x p).tregs.any v.tregs.contains then s.busyV 3
      else if p.held.any fun l => s.myCore.matLocked (some s.cur.2) [] l.lo l.len then s.busyV 4
      else if s.myCore.freeLocks < p.held.length then s.busyV 10
      else if 4 ≤ s.myCore.mats.length then s.busyV 2
      else if (s.askZone i x p).2 then s.okay (s.takeMatrix i x p)
      else s.refuse (s.setZone (zoneOf s.cur.1) (s.askZone i x p).1) 7 0 .set 0 (.withheld 0) := by
  simp only [State.matrix, h, Bool.false_eq_true, if_false, ht, aligned_none ha, inside_none hr]
  have hoffer := s.offerWork_eq i x p
  split_ifs at hoffer ⊢
  all_goals exact congrArg (fun a => match a with
    | Accept.ok s1 => s.okay s1
    | Accept.busy r => s.busyV r
    | Accept.withheld s1 => s.refuse s1 7 0 .set 0 (.withheld 0)) hoffer

end Checks

/-! ### The conditions of R339 -/

theorem State.swept_iff {s : State} {i : Instr} {x : XOp} {p : XPlan} :
    (s.myCore.sweeps.any fun v => (s.matWork i x p).tregs.any v.tregs.contains) = true ↔
      ∃ v ∈ s.myCore.sweeps, ∃ r ∈ p.tiles.filterMap (fun t => s.me.pool t.1), r ∈ v.tregs := by
  simp only [List.any_eq_true, List.contains_iff_mem]
  rfl

theorem Core.matLocked_iff {c : Core} {k a n : Nat} : c.matLocked (some k) [] a n = true ↔
    ∃ e ∈ c.locks, e.2.kind ≠ 1 ∧ e.2.ls = true ∧ overlap e.2.base e.2.len a n = true ∧
      ¬ (e.2.kind = 3 ∧ e.2.ctx = k) := by
  simp [Core.matLocked, and_assoc, imp_iff_not_or]

theorem mmaUnits_of_mem {x : XOp} {s : State} {i : Instr} {p : XPlan} (hf : (i, p) ∈ matrixForms x s) :
    mmaUnits i = if i = .mma x then x.kcnt.toNat else 0 := by
  simp only [matrixForms, List.mem_cons, List.not_mem_nil, or_false, Prod.mk.injEq] at hf
  rcases hf with ⟨rfl, _⟩ | ⟨rfl, _⟩ | ⟨rfl, _⟩ | ⟨rfl, _⟩ | ⟨rfl, _⟩ | ⟨rfl, _⟩ | ⟨rfl, _⟩ | ⟨rfl, _⟩
  · rw [if_pos rfl]
    rfl
  all_goals rw [if_neg (fun h => nomatch h)]; rfl

/-- What an accepted matrix operation leaves. -/
theorem takeMatrix_okay {s : State} {i : Instr} {x : XOp} {p : XPlan}
    (hl : p.held.length ≤ 16 - s.myCore.locks.length) :
    ∃ t w, s.okay (s.takeMatrix i x p) = t ∧ Writes s t s.me (.ok false) 0 0 ∧ t.nextId = s.nextId + 1 ∧
      t.myCore.mats = s.myCore.mats ++ [w] ∧ TakenUp s w i ∧ w.d = s.G x.d ∧ w.a = s.G x.a ∧ w.b = s.G x.b ∧
      w.e = s.G x.e ∧ w.a2 = s.G (x.a + 1) ∧ w.b2 = s.G (x.b + 1) ∧
      w.tregs = p.tiles.filterMap (fun t => s.me.pool t.1) ∧ w.dreg = p.dreg.bind s.me.pool ∧ w.dtag = p.dtag ∧
      LocksTaken s.myCore t.myCore 1 s.cur.2 s.nextId (p.held.map fun l => (true, l.lo, l.len)) ∧
      t.zones = s.zones.put (zoneOf s.cur.1) (s.askZone i x p).1 ∧
      Alone ({ s.setMyCore { s.myCore with mats := t.myCore.mats, locks := t.myCore.locks } with
        nextId := s.nextId + 1, zones := t.zones }) t := by
  have hdc : s.matCore i x p =
      { s.myCore with mats := (s.matCore i x p).mats, locks := (s.matCore i x p).locks } := by
    rw [State.matCore, Core.lockWork_eq]
  have hcore : (s.takeMatrix i x p).myCore = s.matCore i x p := State.core_setCore_self _ _ _
  have hme : (s.takeMatrix i x p).me = s.me := by
    rw [State.me, State.ctx]
    refine (congrArg (fun c => c.ctx s.cur.2) hcore).trans ?_
    rw [hdc]
    rfl
  obtain ⟨hwr, hal⟩ := accepted hme (s := s) rfl
  have hc := hal.myCore
  rw [hcore] at hc
  have hmats : (s.okay (s.takeMatrix i x p)).myCore.mats = (s.matCore i x p).mats := by
    have e := congrArg Core.mats hc
    exact e
  have hlocks : (s.okay (s.takeMatrix i x p)).myCore.locks = (s.matCore i x p).locks := by
    have e := congrArg Core.locks hc
    exact e
  have hnext := congrArg State.nextId hal.machine
  have hzones := congrArg State.zones hal.machine
  refine ⟨_, s.matWork i x p, rfl, hwr, hnext, hmats, ⟨rfl, rfl, ⟨rfl, rfl, rfl, rfl⟩, ⟨rfl, rfl, rfl⟩, ⟨rfl, rfl⟩⟩,
    rfl, rfl, rfl, rfl, rfl, rfl, rfl, rfl, rfl, ?_, hzones, ?_⟩
  · obtain ⟨hold, hcount, hnew⟩ := s.myCore.locksTaken 1 s.cur.2 s.nextId
      (ls := p.held.map fun l => (true, l.lo, l.len)) (by rwa [List.length_map])
    rw [LocksTaken, hlocks]
    exact ⟨hold, hcount, hnew⟩
  · rw [hmats, hlocks, ← hdc, hzones]
    exact hal

theorem State.refuse_withheld {s : State} {i : Instr} {z : Zone}
    (h : exec i s = .next (s.refuse (s.setZone (zoneOf s.cur.1) z) 7 0 .set 0 (.withheld 0))) : Unready i s 7 0 :=
  unready_of_refuse (u := s.setZone (zoneOf s.cur.1) z) (nra := .set) (by decide) rfl rfl rfl (fun _ => rfl) h

theorem exec_mstat {x : XOp} {s : State} (hg : s.guard x.grd = true) : ∃ t, exec (.mstat x) s = .next t ∧ Alone s t ∧
    Writes s t s.me (.ok false) x.d
      (BitVec.ofNat 64 (s.myCore.mats.length + if (s.zone (zoneOf s.cur.1)).held then 8 else 0)) := by
  obtain ⟨hwr, hal⟩ := setG_okay s x.d
    (BitVec.ofNat 64 (s.myCore.mats.length + if (s.zone (zoneOf s.cur.1)).held then 8 else 0))
  exact ⟨_, (guarded_true hg _ : execMstat x s = _), hal, hwr⟩

/-- Settles O36: each check of a matrix instruction, then each outcome, then its acceptance. -/
theorem matrixWorkIsAccepted : Obligations.MatrixWorkIsAccepted := by
  intro x s hg c
  refine ⟨exec_mstat hg, fun i p hf => ?_⟩
  have hexec := matrixForms_run hf hg
  refine ⟨fun h => State.check_traps (hexec.trans (congrArg _ (State.matrix_bad h))), fun hb =>
    ⟨fun info h => State.check_traps (hexec.trans (congrArg _ (State.matrix_badTile hb h))), fun ht =>
    ⟨fun a h => State.check_traps (hexec.trans (congrArg _ (State.matrix_unaligned hb ht h))), fun ha =>
    ⟨fun r h => State.check_traps (hexec.trans (congrArg _ (State.matrix_outside hb ht ha h))), fun hr => ?_⟩⟩⟩⟩
  rw [State.matrix_checked hb ht ha hr] at hexec
  intro regs locks swept locked z u q withheld
  have hswept : (s.myCore.sweeps.any fun v => (s.matWork i x p).tregs.any v.tregs.contains) = true ↔ swept :=
    State.swept_iff
  have hlocked : (p.held.any fun l => s.myCore.matLocked (some s.cur.2) [] l.lo l.len) = true ↔ locked := by
    simp only [List.any_eq_true, Core.matLocked_iff]
    rfl
  have hfree : s.myCore.freeLocks < p.held.length ↔ 16 - c.locks.length < locks.length := Iff.rfl
  have hu : mmaUnits i = u := mmaUnits_of_mem hf
  refine ⟨fun h1 => ?_, fun h1 h2 => ?_, fun h1 h2 h3 => ?_, fun h1 h2 h3 => ⟨fun h4 => ?_, fun h4 =>
    ⟨fun h5 => ?_, fun h5 => ?_⟩⟩⟩
  · rw [if_pos (hswept.mpr h1)] at hexec
    exact unready_of_busy rfl hexec
  · rw [if_neg (mt hswept.mp h1), if_pos (hlocked.mpr h2)] at hexec
    exact unready_of_busy rfl hexec
  · rw [if_neg (mt hswept.mp h1), if_neg (mt hlocked.mp h2), if_pos (hfree.mpr h3)] at hexec
    exact unready_of_busy rfl hexec
  · rw [if_neg (mt hswept.mp h1), if_neg (mt hlocked.mp h2), if_neg (mt hfree.mp (Nat.not_lt.mpr h3)), if_pos h4] at hexec
    exact unready_of_busy rfl hexec
  · obtain ⟨hpos, hq, hact⟩ := h5
    have hask : (s.askZone i x p).2 = false := Zone.ask_withheld (hu ▸ hpos) hq (hu ▸ hact)
    rw [if_neg (mt hswept.mp h1), if_neg (mt hlocked.mp h2), if_neg (mt hfree.mp (Nat.not_lt.mpr h3)),
      if_neg (Nat.not_le.mpr h4), if_neg (by rw [hask]; exact Bool.false_ne_true)] at hexec
    exact State.refuse_withheld hexec
  · obtain ⟨hask, hzr⟩ : (s.askZone i x p).2 = true ∧ (s.askZone i x p).1.r = z.r + mmaUnits i :=
      Zone.ask_ok (by rw [hu]; exact h5)
    rw [if_neg (mt hswept.mp h1), if_neg (mt hlocked.mp h2), if_neg (mt hfree.mp (Nat.not_lt.mpr h3)),
      if_neg (Nat.not_le.mpr h4), if_pos hask] at hexec
    obtain ⟨t, w, rfl, hwr, hn, hm, htake, hd, ha1, hb1, he, ha2, hb2, hregs, hdr, hdt, hlk, hz, hal⟩ :=
      takeMatrix_okay (s := s) (i := i) (x := x) (p := p) h3
    refine ⟨_, w, hexec, hwr, hn, hm, htake, hd, ha1, hb1, he, ha2, hb2, hregs, hdr, hdt, hlk, ?_, fun y hy => ?_, hal⟩
    · rw [State.zone, hz, KMap.get_put_self, hzr, hu]
    · rw [State.zone, hz, KMap.get_put_ne _ _ _ hy]
      rfl

/-- A matrix instruction whose checks pass completes at once when nothing keeps its operation out. -/
theorem matrix_completes {x : XOp} {s : State} {i : Instr} {p : XPlan} (hg : s.guard x.grd = true)
    (hfree : s.myCore.sweeps = [] ∧ s.myCore.locks = [] ∧ s.myCore.mats.length < 4) (hf : (i, p) ∈ matrixForms x s)
    (hb : p.bad = false) (ht : s.badTile p.tiles = none) (ha : ∀ a ∈ p.aligns, a.1.toNat % a.2 = 0)
    (hr : ∀ r ∈ p.ranges, r.off.toNat < 2 ^ 20 ∧ r.lo + r.len ≤ 2 ^ 20) (hlen : p.held.length ≤ 16)
    (hq : mmaUnits i = 0 ∨ (s.zone (zoneOf s.cur.1)).asked s.cur.1 = 0) :
    ∃ (t : State) (w : Work), exec i s = .next t ∧ Writes s t s.me (.ok false) 0 0 ∧ t.myCore.mats = s.myCore.mats ++ [w] ∧
      TakenUp s w i ∧ t.mem = s.mem ∧ t.empties = s.empties ∧ t.poison = s.poison ∧ t.lines = s.lines := by
  obtain ⟨hsw, hlk, hmats⟩ := hfree
  have hexec := matrixForms_run hf hg
  have hask : (s.askZone i x p).2 = true := (Zone.ask_ok (by rintro ⟨h1, h2, -⟩; omega)).1
  have hnone : ∀ l : MRange, s.myCore.matLocked (some s.cur.2) [] l.lo l.len = false := fun l => by
    rw [Core.matLocked, hlk]
    rfl
  rw [State.matrix_checked hb ht ha hr, hsw, List.any_nil, if_neg Bool.false_ne_true,
    if_neg (by simp only [hnone, List.any_eq_true, Bool.false_eq_true, and_false, exists_false, not_false_eq_true]),
    if_neg (by rw [Core.freeLocks, hlk, List.length_nil]; omega), if_neg (Nat.not_le.mpr hmats), if_pos hask] at hexec
  obtain ⟨t, w, rfl, hwr, -, hm, htake, -, -, -, -, -, -, -, -, -, -, -, hal⟩ :=
    takeMatrix_okay (s := s) (i := i) (x := x) (p := p) (by rw [hlk, List.length_nil]; exact hlen)
  have hmem := congrArg State.mem hal.machine
  have hemp := congrArg State.empties hal.machine
  have hpo := congrArg State.poison hal.machine
  have hli := congrArg State.lines hal.machine
  exact ⟨_, w, hexec, hwr, hm, htake, hmem, hemp, hpo, hli⟩

/-! ### The plain completion -/

theorem accPlan_ranges (G : Spec → Word) (x : XOp) (any : Bool) : (accPlan G x any).ranges.length ≤ 1 := by
  rw [accPlan]
  split
  · exact Nat.zero_le _
  · exact Nat.le_refl _

theorem scPlan_ranges (G : Spec → Word) (x : XOp) (n : Nat) : (scPlan G x n).ranges.length ≤ 1 := by
  rw [scPlan]
  split
  · exact Nat.zero_le _
  · exact Nat.le_refl _

theorem XPlan.ranges_and (p q : XPlan) : (p.and q).ranges.length = p.ranges.length + q.ranges.length :=
  List.length_append

/-- An operand in a tile or in a scratchpad pair has at most one range. -/
theorem ite_ranges {c : Prop} [Decidable c] {p q : XPlan} {n : Nat} (hp : p.ranges.length ≤ n) (hq : q.ranges.length ≤ n) :
    (if c then p else q).ranges.length ≤ n := by
  split
  · exact hp
  · exact hq

theorem ranges_of_mem {x : XOp} {s : State} {i : Instr} {p : XPlan} (hf : (i, p) ∈ matrixForms x s) :
    p.ranges.length ≤ 3 := by
  have hacc := accPlan_ranges s.G x false
  simp only [matrixForms, List.mem_cons, List.not_mem_nil, or_false, Prod.mk.injEq] at hf
  rcases hf with ⟨-, rfl⟩ | ⟨-, rfl⟩ | ⟨-, rfl⟩ | ⟨-, rfl⟩ | ⟨-, rfl⟩ | ⟨-, rfl⟩ | ⟨-, rfl⟩ | ⟨-, rfl⟩
  · rw [XPlan.ranges_and, XPlan.ranges_and]
    exact Nat.add_le_add hacc (Nat.add_le_add (ite_ranges (n := 1) (Nat.le_refl _) (Nat.zero_le _))
      (ite_ranges (n := 1) (Nat.le_refl _) (Nat.zero_le _)))
  · rw [XPlan.ranges_and, XPlan.ranges_and]
    have hsc := scPlan_ranges s.G x (mldSteps x)
    have hpad : (padPlan s.G x.a (mldSteps x) 2).ranges.length = 1 := rfl
    simp only [List.length_nil]
    omega
  · rw [XPlan.ranges_and, XPlan.ranges_and]
    have hsc := scPlan_ranges s.G x x.kcnt.toNat
    have hpad : (padPlan s.G x.b x.kcnt.toNat 2).ranges.length = 1 := rfl
    have htile : (tilePlan x.a x.kcnt.toNat ([x.fmt.toNat].filter fun t => x.sa == (t == 8 || t == 10))).ranges.length = 0 := rfl
    omega
  · exact Nat.le_trans (accPlan_ranges s.G x true) (by decide)
  · exact Nat.zero_le _
  · rw [XPlan.ranges_and]
    simp only [List.length_nil]
    omega
  · rw [XPlan.ranges_and]
    exact Nat.le_trans (Nat.add_le_add hacc (ite_ranges (n := 1) (Nat.le_refl _) (Nat.zero_le _))) (by decide)
  · rw [XPlan.ranges_and]
    exact Nat.le_trans (Nat.add_le_add hacc (ite_ranges (n := 1) (Nat.le_refl _) (Nat.zero_le _))) (by decide)

/-- Settles O37, from the acceptance of R339 with nothing in the way. -/
theorem matrixInstructionsComplete : Obligations.MatrixInstructionsComplete := by
  intro x s hg c z free ready completes
  have hcomp : ∀ i : Instr, (mmaUnits i = 0 ∨ (s.zone (zoneOf s.cur.1)).asked s.cur.1 = 0) → free → ready i →
      completes i := by
    intro i hq hfree ⟨p, hf, hb, ht, ha, hr⟩
    have hlen := Nat.le_trans (List.length_filter_le (fun r : MRange => r.lock) p.ranges) (ranges_of_mem hf)
    exact matrix_completes hg hfree hf hb ht ha hr (Nat.le_trans hlen (by decide)) hq
  have hnone : ∀ i : Instr, mmaUnits i = 0 → free → ready i → completes i := fun i h => hcomp i (.inl h)
  refine ⟨hnone _ rfl, hnone _ rfl, fun hfree hready hr hq => hcomp _ (.inr ?_) hfree hready, hnone _ rfl, hnone _ rfl,
    hnone _ rfl, hnone _ rfl, hnone _ rfl, exec_mstat hg⟩
  rw [Zone.asked, show (s.zone (zoneOf s.cur.1)).r = 0 from hr, show (s.zone (zoneOf s.cur.1)).refused = [] from hq]
  rfl

end Sys2Proof.Machine
end

section

/-!
# Chains, locks and events

What CAPP, CADV and CSEQ do with a chain, what CLCK and CULK do with a lock, and what EVPOP takes (R364–R368, R501).
-/

namespace Sys2Proof.Machine
open Sys2Proof

/-! ### The chain of an instruction (R491) -/

section Chains

variable {o : EOp} {s : State} {i : Instr} {f : Nat → Chain → State}

theorem bound_iff : (s.myCore.chn.any fun e => e.2 == 2 ^ 13 + fld (s.G o.b).toNat 0 13) = true ↔
    ∃ e ∈ s.myCore.chn, e.2 = 2 ^ 13 + (s.G o.b).toNat % 2 ^ 13 := by
  simp [fld, List.any_eq_true]

theorem State.withChain_bound (h : ∃ e ∈ s.myCore.chn, e.2 = 2 ^ 13 + (s.G o.b).toNat % 2 ^ 13) :
    s.withChain o i f = f ((s.G o.b).toNat % 2 ^ 13) (s.chain ((s.G o.b).toNat % 2 ^ 13)) := by
  have hfld : fld (s.G o.b).toNat 0 13 = (s.G o.b).toNat % 2 ^ 13 := by simp [fld]
  rw [State.withChain, if_pos (bound_iff.mpr h), hfld]

theorem State.withChain_unbound (h : ¬ ∃ e ∈ s.myCore.chn, e.2 = 2 ^ 13 + (s.G o.b).toNat % 2 ^ 13) :
    s.withChain o i f = s.check 5 (slotBits i) := if_neg (mt bound_iff.mp h)

end Chains

/-! ### CAPP (R364, R365) -/

/-- The eight words that CAPP reads. -/
noncomputable def State.recWords (s : State) (off : Nat) : List Word := (List.range 8).map fun i => BitVec.ofNat 64 (s.recWord off i)

/-- The record that CAPP appends. -/
noncomputable def State.cappRec (s : State) (ch : Chain) (off : Nat) : CRec :=
  { va := ch.pend, advanced := false, dom := s.myCore.dom, ctx := s.cur.2, gen := 0, ip := s.ip, cls := 0
    ws := s.recWords off, seqs := (List.range 8).map fun i => (s.myCore.seq + i) % 2 ^ 32 }

/-- The chain once CAPP has appended its record. -/
noncomputable def State.cappChain (s : State) (ch : Chain) (off : Nat) : Chain :=
  { ch with recs := ch.recs ++ [s.cappRec ch off], pend := BitVec.ofNat 64 (recW (s.recWords off) 0 / 64 * 64) }

/-- The core once CAPP has buffered the record's words. -/
noncomputable def State.cappCore (s : State) (ch : Chain) (off : Nat) : Core :=
  s.myCore.capp s.cur.2 s.ip s.me.top2 s.me.gen.toNat ch.pend (s.recWords off) s.ticks

theorem exec_capp {o : EOp} {s : State} (hg : s.guard o.grd = true)
    (hb : ∃ e ∈ s.myCore.chn, e.2 = 2 ^ 13 + (s.G o.b).toNat % 2 ^ 13) :
    let h := (s.G o.b).toNat % 2 ^ 13
    let ch := s.chain h
    let a := s.G o.a
    exec (.capp o) s = .next (
      if a.toNat % 64 ≠ 0 then s.check 7 a
      else if 2 ^ 20 ≤ a.toNat then s.check 6 a
      else if !((isHost ch.pend || isDevice ch.pend) && s.myCore.allowed ch.pend rW) then s.check 6 ch.pend
      else if 64 ≤ ch.recs.length then s.busyE o 1
      else if s.lsLocked a.toNat 64 then s.busyE o 4
      else if 64 < s.myCore.sbuf.length + 8 then s.busyE o 6
      else s.okay ((s.setMyCore (s.cappCore ch a.toNat)).setChain h (s.cappChain ch a.toNat))) := by
  intro h ch a
  show execCapp o s = _
  rw [execCapp, guarded_true hg, State.withChain_bound hb]
  rfl

/-- CAPP once its checks pass. -/
theorem exec_capp_passed {o : EOp} {s : State} (hg : s.guard o.grd = true)
    (hb : ∃ e ∈ s.myCore.chn, e.2 = 2 ^ 13 + (s.G o.b).toNat % 2 ^ 13) (h1 : (s.G o.a).toNat % 64 = 0)
    (h2 : (s.G o.a).toNat < 2 ^ 20) (hd : isDevice (s.chain ((s.G o.b).toNat % 2 ^ 13)).pend = true)
    (h3 : s.myCore.allowed (s.chain ((s.G o.b).toNat % 2 ^ 13)).pend rW = true) :
    let h := (s.G o.b).toNat % 2 ^ 13
    let ch := s.chain h
    let a := s.G o.a
    exec (.capp o) s = .next (
      if 64 ≤ ch.recs.length then s.busyE o 1
      else if s.lsLocked a.toNat 64 then s.busyE o 4
      else if 64 < s.myCore.sbuf.length + 8 then s.busyE o 6
      else s.okay ((s.setMyCore (s.cappCore ch a.toNat)).setChain h (s.cappChain ch a.toNat))) := by
  intro h ch a
  have hgood : ¬ (!((isHost ch.pend || isDevice ch.pend) && s.myCore.allowed ch.pend rW)) = true := by
    rw [hd, h3, Bool.or_true, Bool.and_self, Bool.not_true]
    exact Bool.false_ne_true
  exact (exec_capp hg hb).trans (congrArg _ ((if_neg (not_not.mpr h1)).trans
    ((if_neg (Nat.not_le.mpr h2)).trans (if_neg hgood))))

theorem exec_capp_unbound {o : EOp} {s : State} (hg : s.guard o.grd = true)
    (hb : ¬ ∃ e ∈ s.myCore.chn, e.2 = 2 ^ 13 + (s.G o.b).toNat % 2 ^ 13) :
    exec (.capp o) s = .next (s.check 5 (slotBits (.capp o))) := by
  show execCapp o s = _
  rw [execCapp, guarded_true hg, State.withChain_unbound hb]

theorem exec_cadv_unbound {o : EOp} {s : State} (hg : s.guard o.grd = true)
    (hb : ¬ ∃ e ∈ s.myCore.chn, e.2 = 2 ^ 13 + (s.G o.b).toNat % 2 ^ 13) :
    exec (.cadv o) s = .next (s.check 5 (slotBits (.cadv o))) := by
  show execCadv o s = _
  rw [execCadv, guarded_true hg, State.withChain_unbound hb]

theorem exec_cseq_unbound {o : EOp} {s : State} (hg : s.guard o.grd = true)
    (hb : ¬ ∃ e ∈ s.myCore.chn, e.2 = 2 ^ 13 + (s.G o.b).toNat % 2 ^ 13) :
    exec (.cseq o) s = .next (s.check 5 (slotBits (.cseq o))) := by
  show execCseq o s = _
  rw [execCseq, guarded_true hg, State.withChain_unbound hb]

theorem State.chain_setChain_self (s : State) (h : Nat) (x : Chain) : (s.setChain h x).chain h = x := KMap.get_put_self _ _ _ _

theorem State.chain_setChain_ne (s : State) {h g : Nat} (x : Chain) (hg : g ≠ h) : (s.setChain h x).chain g = s.chain g :=
  KMap.get_put_ne _ _ _ hg

/-- The entry of the store buffer for word `j` of the record. -/
theorem State.cappCore_sbuf (s : State) (ch : Chain) (off : Nat) : ∃ es : List SEntry,
    (s.cappCore ch off).sbuf = s.myCore.sbuf ++ es ∧ es.length = 8 ∧ ∀ j, j < 8 → ∃ e, es[j]? = some e ∧
      e.va = ch.pend + BitVec.ofNat 64 (8 * j) ∧ e.data = BitVec.ofNat 64 (s.recWord off j) ∧ e.bmask = 255 ∧ e.fe = 0 ∧
      e.state = 1 ∧ e.seq = (s.myCore.seq + j) % 2 ^ 32 ∧ e.ctx = s.cur.2 := by
  refine ⟨_, rfl, by simp [State.recWords], fun j hj => ?_⟩
  have hw : (s.recWords off)[j]? = some (BitVec.ofNat 64 (s.recWord off j)) := by
    simp [State.recWords, hj]
  refine ⟨_, by rw [List.getElem?_map, List.getElem?_zipIdx, hw]; rfl, ?_⟩
  simp

/-- CAPP once nothing keeps it out. -/
theorem capp_okay (s : State) (h off : Nat) : ∃ t es r,
    s.okay ((s.setMyCore (s.cappCore (s.chain h) off)).setChain h (s.cappChain (s.chain h) off)) = t ∧
    Writes s t s.me (.ok false) 0 0 ∧ t.mem = s.mem ∧
    t.myCore.sbuf = s.myCore.sbuf ++ es ∧ es.length = 8 ∧ (t.chain h).recs = (s.chain h).recs ++ [r] ∧
    r.va = (s.chain h).pend ∧ r.advanced = false ∧ (t.chain h).pend.toNat = (BitVec.ofNat 64 (s.recWord off 0)).toNat / 64 * 64 ∧
    (∀ j, j < 8 → r.ws[j]? = some (BitVec.ofNat 64 (s.recWord off j)) ∧ ∃ e, es[j]? = some e ∧
      e.va = (s.chain h).pend + BitVec.ofNat 64 (8 * j) ∧ e.data = BitVec.ofNat 64 (s.recWord off j) ∧ e.bmask = 255 ∧
      e.fe = 0 ∧ e.state = 1 ∧ e.seq = (s.myCore.seq + j) % 2 ^ 32 ∧ e.ctx = s.cur.2) ∧
    (∀ g, g ≠ h → t.chain g = s.chain g) ∧
    Alone ({ s.setMyCore { s.myCore with sbuf := t.myCore.sbuf, seq := t.myCore.seq } with chains := t.chains }) t := by
  set u := (s.setMyCore (s.cappCore (s.chain h) off)).setChain h (s.cappChain (s.chain h) off) with hu
  have hme : u.me = s.me := State.me_setMyCore s _
  have hcore : u.myCore = s.cappCore (s.chain h) off := State.myCore_setMyCore s _
  obtain ⟨hwr, hal⟩ := accepted hme (s := s) rfl
  have hc := hal.myCore
  rw [hcore] at hc
  have hsbuf : (s.okay u).myCore.sbuf = (s.cappCore (s.chain h) off).sbuf := by
    have e := congrArg Core.sbuf hc
    exact e
  have hseq : (s.okay u).myCore.seq = (s.cappCore (s.chain h) off).seq := by
    have e := congrArg Core.seq hc
    exact e
  have hchains := congrArg State.chains hal.machine
  have hmem := congrArg State.mem hal.machine
  have hself : (s.okay u).chain h = s.cappChain (s.chain h) off := by
    rw [State.chain, hchains]
    exact State.chain_setChain_self _ _ _
  obtain ⟨es, hes, hlen, hentry⟩ := s.cappCore_sbuf (s.chain h) off
  refine ⟨_, es, s.cappRec (s.chain h) off, rfl, hwr, hmem, hsbuf.trans hes, hlen, by rw [hself]; rfl, rfl, rfl, ?_,
    fun j hj => ⟨by simp [State.cappRec, State.recWords, hj], hentry j hj⟩, fun g hg => ?_, ?_⟩
  · rw [hself]
    have hw : recW (s.recWords off) 0 = (BitVec.ofNat 64 (s.recWord off 0)).toNat := by
      simp [recW, State.recWords]
    rw [State.cappChain, hw, BitVec.toNat_ofNat]
    have := (BitVec.ofNat 64 (s.recWord off 0)).isLt
    omega
  · rw [State.chain, hchains]
    exact State.chain_setChain_ne _ _ hg
  · rw [hsbuf, hseq, hchains]
    exact hal

/-! ### CADV (R366, R159) -/

section Advance

variable {k gen at_ : Nat} {ip cls : Word} {l : List CRec} {n : Nat}

theorem advanceRecs_count : (advanceRecs k gen at_ ip cls l n).2 = n + (l.filter fun r => !r.advanced).length := by
  induction l generalizing n with
  | nil => rfl
  | cons r l ih =>
    rw [advanceRecs, List.filter_cons]
    cases r.advanced
    · rw [if_neg Bool.false_ne_true, if_pos Bool.not_false, List.length_cons]
      exact ih.trans (by omega)
    · exact ih

/-- CADV changes no address and no word of a record. -/
theorem advanceRecs_words :
    (advanceRecs k gen at_ ip cls l n).1.map (fun r => (r.va, r.ws)) = l.map fun r => (r.va, r.ws) := by
  induction l generalizing n with
  | nil => rfl
  | cons r l ih =>
    rw [advanceRecs]
    cases r.advanced
    · exact congrArg (List.cons (r.va, r.ws)) ih
    · exact congrArg (List.cons (r.va, r.ws)) ih

theorem advanceRecs_advanced : ∀ r ∈ (advanceRecs k gen at_ ip cls l n).1, r.advanced = true := by
  induction l generalizing n with
  | nil => exact fun _ h => nomatch h
  | cons r l ih =>
    rw [advanceRecs]
    cases hr : r.advanced
    · intro x hx
      obtain rfl | hx := List.mem_cons.mp hx
      · rfl
      · exact ih x hx
    · intro x hx
      obtain rfl | hx := List.mem_cons.mp hx
      · exact hr
      · exact ih x hx

/-- The records that CADV numbers, beside what they were. -/
noncomputable def numbered (rs l : List CRec) : List (CRec × CRec) := (rs.zip l).filter fun e => !e.2.advanced

theorem numbered_words : (numbered (advanceRecs k gen at_ ip cls l n).1 l).map (fun e => e.1.ws) =
    (l.filter fun r => !r.advanced).map fun r => r.ws := by
  induction l generalizing n with
  | nil => rfl
  | cons r l ih =>
    rw [advanceRecs, numbered, List.filter_cons]
    cases hr : r.advanced
    · rw [if_neg Bool.false_ne_true, List.zip_cons_cons, List.filter_cons, hr]
      exact congrArg (List.cons r.ws) ih
    · rw [if_pos rfl, List.zip_cons_cons, List.filter_cons, hr]
      exact ih

end Advance

/-- The lock of a range of record `num` of chain `h`. -/
noncomputable def recLock (k h num : Nat) (l : Bool × Nat × Nat) : Lock :=
  { kind := 2, ctx := k, ls := l.1, base := l.2.1, len := l.2.2, owner := recKey h num }

/-- The core once the records `es` have their locks. -/
noncomputable def Core.lockRecs (c : Core) (k h : Nat) (es : List (CRec × CRec)) : Core :=
  es.foldl (fun c e => c.lockWork 2 k (recKey h e.1.num) (recLocks c.rank e.1.ws)) c

theorem Core.addLocks_append (c : Core) (l m : List Lock) : c.addLocks (l ++ m) = (c.addLocks l).addLocks m :=
  List.foldl_append

theorem Core.lockRecs_eq (c : Core) (k h : Nat) (es : List (CRec × CRec)) :
    c.lockRecs k h es = c.addLocks (es.flatMap fun e => (recLocks c.rank e.1.ws).map (recLock k h e.1.num)) := by
  induction es generalizing c with
  | nil => rfl
  | cons e es ih =>
    have hrank : (c.lockWork 2 k (recKey h e.1.num) (recLocks c.rank e.1.ws)).rank = c.rank := by
      rw [Core.lockWork_eq]
    have hstep := ih (c.lockWork 2 k (recKey h e.1.num) (recLocks c.rank e.1.ws))
    rw [hrank] at hstep
    rw [List.flatMap_cons, Core.addLocks_append]
    exact hstep

/-- The locks of records with the words of `new` are entered when they find room. -/
theorem Core.lockRecs_entered {c : Core} {k h : Nat} {es : List (CRec × CRec)} {new : List CRec}
    (hws : es.map (fun e => e.1.ws) = new.map fun r => r.ws)
    (hroom : (new.flatMap fun r => recLocks c.rank r.ws).length ≤ 16 - c.locks.length) :
    (∀ e ∈ c.locks, e ∈ (c.lockRecs k h es).locks) ∧
    (c.lockRecs k h es).locks.length = c.locks.length + (new.flatMap fun r => recLocks c.rank r.ws).length ∧
    ∀ l ∈ new.flatMap fun r => recLocks c.rank r.ws, ∃ e ∈ (c.lockRecs k h es).locks,
      e.2.kind = 2 ∧ e.2.ctx = k ∧ e.2.ls = l.1 ∧ e.2.base = l.2.1 ∧ e.2.len = l.2.2 := by
  have hlen : (es.flatMap fun e => (recLocks c.rank e.1.ws).map (recLock k h e.1.num)).length =
      (new.flatMap fun r => recLocks c.rank r.ws).length := by
    have hsum := congrArg (fun m => (m.map fun w => (recLocks c.rank w).length).sum) hws
    simp only [List.map_map] at hsum
    simpa [List.length_flatMap, Function.comp_def] using hsum
  rw [Core.lockRecs_eq]
  obtain ⟨hold, hcount, hnew⟩ := Core.addLocks_entered (c := c) (ls := es.flatMap fun e =>
    (recLocks c.rank e.1.ws).map (recLock k h e.1.num)) (by omega)
  refine ⟨hold, by omega, fun l hl => ?_⟩
  obtain ⟨r, hr, hl⟩ := List.mem_flatMap.mp hl
  have hw : r.ws ∈ es.map (fun e => e.1.ws) := by
    rw [hws]
    exact List.mem_map.mpr ⟨r, hr, rfl⟩
  obtain ⟨e, he, hwe⟩ := List.mem_map.mp hw
  obtain ⟨x, hx, hxe⟩ := hnew (recLock k h e.1.num l)
    (List.mem_flatMap.mpr ⟨e, he, List.mem_map.mpr ⟨l, by rw [hwe]; exact hl, rfl⟩⟩)
  exact ⟨x, hx, by rw [hxe]; exact ⟨rfl, rfl, rfl, rfl, rfl⟩⟩

theorem Core.lockRecs_locks (c : Core) (k h : Nat) (es : List (CRec × CRec)) :
    c.lockRecs k h es = { c with locks := (c.lockRecs k h es).locks } := by
  rw [Core.lockRecs_eq]
  exact c.addLocks_eq _

/-- The records and the number after a CADV on a chain. -/
noncomputable def State.advanced (s : State) (ch : Chain) : List CRec × Nat :=
  advanceRecs s.cur.2 s.me.gen.toNat s.nextId s.ip s.me.top2 ch.recs ch.seq

/-- The state once CADV has advanced its chain, before the instruction ends. -/
noncomputable def State.advance (s : State) (h : Nat) : State :=
  State.setChain (State.setMyCore { s with nextId := s.nextId + 1 }
    (s.myCore.lockRecs s.cur.2 h (numbered (s.advanced (s.chain h)).1 (s.chain h).recs))) h
    { s.chain h with recs := (s.advanced (s.chain h)).1, seq := (s.advanced (s.chain h)).2, tail := (s.chain h).pend
                     stopped := false }

theorem exec_cadv {o : EOp} {s : State} (hg : s.guard o.grd = true)
    (hb : ∃ e ∈ s.myCore.chn, e.2 = 2 ^ 13 + (s.G o.b).toNat % 2 ^ 13) :
    let h := (s.G o.b).toNat % 2 ^ 13
    let new := (s.chain h).recs.filter fun r => !r.advanced
    exec (.cadv o) s = .next (
      if (s.myCore.sbuf.any fun e => new.any fun r => r.seqs.contains e.seq) || !s.relMet s.cur.1 s.cur.2 then s.busyE o 11
      else if s.myCore.freeLocks < (new.flatMap fun r => recLocks s.myCore.rank r.ws).length then s.busyE o 10
      else s.okay (s.advance h)) := by
  intro h new
  show execCadv o s = _
  rw [execCadv, guarded_true hg, State.withChain_bound hb]
  rfl

/-- CADV once its stores are acknowledged and its locks find room. -/
theorem cadv_okay {s : State} {h : Nat}
    (hroom : (((s.chain h).recs.filter fun r => !r.advanced).flatMap fun r => recLocks s.myCore.rank r.ws).length ≤
      16 - s.myCore.locks.length) :
    let ch := s.chain h
    let c := s.myCore
    let new := ch.recs.filter fun r => !r.advanced
    let ranges := new.flatMap fun r => recLocks c.rank r.ws
    ∃ t, s.okay (s.advance h) = t ∧
      Writes s t s.me (.ok false) 0 0 ∧ (t.chain h).tail = ch.pend ∧ (t.chain h).stopped = false ∧
      (t.chain h).seq = ch.seq + new.length ∧ (t.chain h).recs.length = ch.recs.length ∧
      (∀ r ∈ (t.chain h).recs, r.advanced = true) ∧
      (∀ j : Nat, ((t.chain h).recs[j]?).map (fun (r : CRec) => (r.va, r.ws)) = (ch.recs[j]?).map fun r => (r.va, r.ws)) ∧
      (∀ e ∈ c.locks, e ∈ t.myCore.locks) ∧ t.myCore.locks.length = c.locks.length + ranges.length ∧
      (∀ l ∈ ranges, ∃ e ∈ t.myCore.locks, e.2.kind = 2 ∧ e.2.ctx = s.cur.2 ∧ e.2.ls = l.1 ∧
        e.2.base = l.2.1 ∧ e.2.len = l.2.2) ∧
      (∀ g, g ≠ h → t.chain g = s.chain g) ∧
      Alone ({ s.setMyCore { c with locks := t.myCore.locks } with chains := t.chains, nextId := t.nextId }) t := by
  intro ch c new ranges
  have hws := numbered_words (k := s.cur.2) (gen := s.me.gen.toNat) (at_ := s.nextId) (ip := s.ip) (cls := s.me.top2)
    (l := ch.recs) (n := ch.seq)
  have hlockeq := c.lockRecs_locks s.cur.2 h (numbered (s.advanced ch).1 ch.recs)
  have hme : (s.advance h).me = s.me := by
    refine (State.me_setMyCore { s with nextId := s.nextId + 1 } _).trans ?_
    rw [hlockeq]
    rfl
  have hcore : (s.advance h).myCore = c.lockRecs s.cur.2 h (numbered (s.advanced ch).1 ch.recs) :=
    State.myCore_setMyCore { s with nextId := s.nextId + 1 } _
  obtain ⟨hwr, hal⟩ := accepted hme (s := s) rfl
  have hc := hal.myCore
  rw [hcore] at hc
  have hlocks : (s.okay (s.advance h)).myCore.locks =
      (c.lockRecs s.cur.2 h (numbered (s.advanced ch).1 ch.recs)).locks := by
    have e := congrArg Core.locks hc
    exact e
  have hchains := congrArg State.chains hal.machine
  have hnext := congrArg State.nextId hal.machine
  have hself : (s.okay (s.advance h)).chain h =
      { ch with recs := (s.advanced ch).1, seq := (s.advanced ch).2, tail := ch.pend, stopped := false } := by
    rw [State.chain, hchains]
    exact State.chain_setChain_self _ _ _
  have hwords : (s.advanced ch).1.map (fun r => (r.va, r.ws)) = ch.recs.map fun r => (r.va, r.ws) := advanceRecs_words
  obtain ⟨hold, hcount, hnew⟩ := Core.lockRecs_entered (k := s.cur.2) (h := h) hws hroom
  refine ⟨_, rfl, hwr, by rw [hself], by rw [hself], ?_, ?_, ?_, fun j => ?_, ?_, ?_, ?_, fun g hg => ?_, ?_⟩
  · rw [hself]
    exact advanceRecs_count
  · rw [hself]
    have e := congrArg List.length hwords
    rwa [List.length_map, List.length_map] at e
  · rw [hself]
    exact advanceRecs_advanced
  · rw [hself, ← List.getElem?_map, ← List.getElem?_map]
    exact congrArg (fun l => l[j]?) hwords
  · rw [hlocks]
    exact hold
  · rw [hlocks]
    exact hcount
  · rw [hlocks]
    exact hnew
  · rw [State.chain, hchains]
    exact State.chain_setChain_ne _ _ hg
  · rw [hlocks, ← hlockeq, hchains, hnext]
    exact hal

/-! ### CSEQ (R367) -/

theorem exec_cseq {o : EOp} {s : State} (hg : s.guard o.grd = true)
    (hb : ∃ e ∈ s.myCore.chn, e.2 = 2 ^ 13 + (s.G o.b).toNat % 2 ^ 13) :
    exec (.cseq o) s = .next (
      if (s.G o.a).toNat ≤ (s.chain ((s.G o.b).toNat % 2 ^ 13)).delivered then
        s.okay (if o.ord == .acq then s.acquire else s)
      else s.refuse s 6 2 o.nra o.tgt (.seq ((s.G o.b).toNat % 2 ^ 13))) := by
  show execCseq o s = _
  rw [execCseq, guarded_true hg, State.withChain_bound hb]

theorem State.after_ord (s : State) {r : Ord} (h : r = .none ∨ r = .acq) :
    (if r == .acq then s.acquire else s) = s.after r := by
  obtain rfl | rfl := h
  · rfl
  · rfl

theorem cseq_ord {o : EOp} (h : (Instr.cseq o).WellFormed) : o.ord = .none ∨ o.ord = .acq := by
  have h' : (o.base && (o.ord == .none || o.ord == .acq) && !o.v0 && o.d == 0 && isG o.a && isG o.b && o.sem == 0 &&
    o.imm == 0) = true := h
  simp only [Bool.and_eq_true, Bool.or_eq_true, beq_iff_eq] at h'
  obtain ⟨⟨⟨⟨⟨⟨⟨-, ho⟩, -⟩, -⟩, -⟩, -⟩, -⟩, -⟩ := h'
  exact ho

theorem after_okay (s : State) (r : Ord) :
    Writes s (s.okay (s.after r)) s.me (.ok false) 0 0 ∧ Alone (s.after r) (s.okay (s.after r)) := by
  refine accepted ?_ (s.pair_after r)
  unfold State.after
  split
  · rw [State.acquire_eq, State.me_setMyCore, State.ctx_acquired]
    rfl
  · rfl

/-! ### CLCK and CULK (R501, R159) -/

theorem firstFree_lt {m : KMap Lock} {n : Nat} : ∀ {i : Nat}, (∀ j, j < i → (m.find? j).isSome) → m.length < i + n →
    firstFree m n i < i + n := by
  induction n with
  | zero =>
    intro i hall hlen
    have := length_of_all_found hall
    omega
  | succ n ih =>
    intro i hall hlen
    rw [firstFree]
    split
    · next hi =>
      have := ih (i := i + 1) (fun j hj => ?_) (by omega)
      · omega
      · obtain hj | rfl := Nat.lt_succ_iff_lt_or_eq.mp hj
        · exact hall j hj
        · exact hi
    · omega

/-- The lock that CLCK enters. -/
noncomputable def State.clock (s : State) (off n : Nat) : Lock := { kind := 3, ctx := s.cur.2, ls := true, base := off, len := n, owner := 0 }

theorem exec_clck {o : EOp} {s : State} (hg : s.guard o.grd = true) :
    let a := s.G o.a
    let n := 64 * o.imm.toNat
    exec (.clck o) s = .next (
      if a.toNat % 64 ≠ 0 then s.check 7 a
      else if 2 ^ 20 < a.toNat + n then s.check 6 a
      else if s.lsLocked a.toNat n then s.busyE o 4
      else if s.myCore.freeLocks = 0 then s.busyE o 10
      else s.okay ((s.setMyCore (s.myCore.addLock (s.clock a.toNat n)).1).setG o.d
        (u64 (firstFree s.myCore.locks 16 0)))) := by
  intro a n
  show execClck o s = _
  rw [execClck, guarded_true hg]
  rfl

/-- CLCK once its checks pass. -/
theorem exec_clck_passed {o : EOp} {s : State} (hg : s.guard o.grd = true) (h1 : (s.G o.a).toNat % 64 = 0)
    (h2 : (s.G o.a).toNat + 64 * o.imm.toNat ≤ 2 ^ 20) :
    let a := s.G o.a
    let n := 64 * o.imm.toNat
    exec (.clck o) s = .next (
      if s.lsLocked a.toNat n then s.busyE o 4
      else if s.myCore.freeLocks = 0 then s.busyE o 10
      else s.okay ((s.setMyCore (s.myCore.addLock (s.clock a.toNat n)).1).setG o.d
        (u64 (firstFree s.myCore.locks 16 0)))) :=
  (exec_clck hg).trans (congrArg _ ((if_neg (not_not.mpr h1)).trans (if_neg (Nat.not_lt.mpr h2))))

/-- An instruction that ends with OK and one register written, beside what it did to its core. -/
theorem accepted_setG {s w : State} (hme : w.me = s.me) (hp : w.pair = s.pair) (d : Spec) (v : Word) :
    Writes s (s.okay (w.setG d v)) s.me (.ok false) d v ∧ Alone w (s.okay (w.setG d v)) := by
  have h := HasMe.setReg w d v
  rw [hme] at h
  exact writes_ok false h hp (.refl _) (m := s.me.mon) (by rw [← Ctx.setReg_mon s.me d v])

theorem clck_okay {s : State} (d : Spec) (off n : Nat) (hroom : s.myCore.locks.length < 16) : ∃ t v,
    s.okay ((s.setMyCore (s.myCore.addLock (s.clock off n)).1).setG d (u64 (firstFree s.myCore.locks 16 0))) = t ∧
    Writes s t s.me (.ok false) d v ∧ v.toNat < 16 ∧ s.myCore.locks.find? v.toNat = none ∧
    t.myCore.locks.find? v.toNat = some ⟨3, s.cur.2, true, off, n, 0⟩ ∧
    (∀ j, j ≠ v.toNat → t.myCore.locks.find? j = s.myCore.locks.find? j) ∧
    Alone (s.setMyCore { s.myCore with locks := t.myCore.locks }) t := by
  have hfree : s.myCore.locks.find? (firstFree s.myCore.locks 16 0) = none :=
    firstFree_free (fun _ hj => by omega) (by omega)
  have hlt : firstFree s.myCore.locks 16 0 < 0 + 16 := firstFree_lt (fun _ hj => by omega) (by omega)
  have hv : (u64 (firstFree s.myCore.locks 16 0)).toNat = firstFree s.myCore.locks 16 0 := by
    rw [u64, BitVec.toNat_ofNat]
    omega
  obtain ⟨hwr, hal⟩ := accepted_setG (s := s) (w := s.setMyCore (s.myCore.addLock (s.clock off n)).1)
    (State.me_setMyCore s _) rfl d (u64 (firstFree s.myCore.locks 16 0))
  have hc := hal.myCore
  rw [State.myCore_setMyCore] at hc
  have hlocks := congrArg Core.locks hc
  dsimp only at hlocks
  refine ⟨_, _, rfl, hwr, by omega, by rw [hv]; exact hfree, ?_, fun j hj => ?_, ?_⟩
  · rw [hlocks, hv]
    exact KMap.find?_put_self _ _ _
  · rw [hlocks]
    exact KMap.find?_put_ne _ _ (by rwa [hv] at hj)
  · rw [hlocks]
    exact hal

/-- The core after CULK has given up lock `i`. -/
noncomputable def Core.unlocked (c : Core) (i : Nat) : Core := { c with locks := c.locks.del i }.reap

theorem exec_culk_own {o : EOp} {s : State} {l : Lock} (hg : s.guard o.grd = true)
    (hl : s.myCore.locks.find? (s.G o.a).toNat = some l) (hk : l.kind = 3) (hc : l.ctx = s.cur.2) :
    exec (.culk o) s = .next (s.retire ((s.setMyCore { s.myCore with locks := s.myCore.locks.del (s.G o.a).toNat }).dirty.locksFreed
      s.cur.1)) := by
  show execCulk o s = _
  rw [execCulk, guarded_true hg]
  dsimp only
  rw [hl]
  dsimp only
  rw [if_pos (by rw [decide_eq_true hk, decide_eq_true hc]; rfl)]

theorem exec_culk_other {o : EOp} {s : State} (hg : s.guard o.grd = true)
    (h : ¬ ∃ l, s.myCore.locks.find? (s.G o.a).toNat = some l ∧ l.kind = 3 ∧ l.ctx = s.cur.2) :
    exec (.culk o) s = .next (s.retire s.dirty) := by
  show execCulk o s = _
  rw [execCulk, guarded_true hg]
  dsimp only
  cases hl : s.myCore.locks.find? (s.G o.a).toNat with
  | none => rfl
  | some l =>
    dsimp only
    rw [if_neg]
    rw [Bool.and_eq_true, decide_eq_true_eq, decide_eq_true_eq]
    exact fun hkc => h ⟨l, hl, hkc⟩

theorem Core.still_of_same {c d : Core} (h : { c with ctxs := [] } = { d with ctxs := [] }) : c.still = d.still := by
  have e := congrArg Core.still h
  exact e

/-- What an instruction spares that changed the locks and the allotments of its core, and woke contexts. -/
theorem spared_of_unlocked {s u t : State} (hal : Alone u t) (hu : u = { s with cores := u.cores })
    (hctx : ∀ p k, (p, k) ≠ s.cur → (u.ctx p k).still = (s.ctx p k).still)
    (hother : ∀ p, p ≠ s.cur.1 → { u.core p with ctxs := [] } = { s.core p with ctxs := [] })
    (hown : (u.core s.cur.1).still =
      { s.myCore with locks := (u.core s.cur.1).locks, allots := (u.core s.cur.1).allots }.still) :
    Spared (s.setMyCore { s.myCore with locks := t.myCore.locks, allots := t.myCore.allots }) t := by
  have hcur : u.cur = s.cur := by rw [hu]
  have hmachine := hal.machine
  rw [hu] at hmachine
  have hchains := congrArg State.chains hmachine
  have hmem := congrArg State.mem hmachine
  have hemp := congrArg State.empties hmachine
  have hpo := congrArg State.poison hmachine
  dsimp only at hchains hmem hemp hpo
  have hlocks := congrArg Core.locks hal.myCore
  have hallots := congrArg Core.allots hal.myCore
  dsimp only at hlocks hallots
  rw [State.myCore.eq_def u, hcur] at hlocks hallots
  rw [hlocks, hallots]
  set b : Core := { s.myCore with locks := (u.core s.cur.1).locks, allots := (u.core s.cur.1).allots } with hb
  constructor
  case contexts =>
    intro p k hpk
    rw [hal.contexts p k (by rw [hcur]; exact hpk), hctx p k hpk]
    exact congrArg Ctx.still (s.ctx_setCore_same (c := b) rfl p k).symm
  case cores =>
    intro p
    refine (Core.still_of_same (hal.cores p)).trans ?_
    by_cases hp : p = s.cur.1
    · rw [hp, hown]
      exact congrArg Core.still (State.core_setCore_self s s.cur.1 b).symm
    · refine (Core.still_of_same (hother p hp)).trans ?_
      exact congrArg Core.still (State.core_setCore_ne s b hp).symm
  case chains =>
    intro h
    rw [State.chain, hchains]
    rfl
  case machine =>
    rw [hchains, hmem, hemp, hpo]
    exact hmachine

/-- CULK of the context's own lock: the lock goes, and those who waited for it wake. -/
theorem culk_own {o : EOp} {s : State} {l : Lock} (hg : s.guard o.grd = true) (hw : s.me.wait = none)
    (hl : s.myCore.locks.find? (s.G o.a).toNat = some l) (hk : l.kind = 3) (hc : l.ctx = s.cur.2) :
    ∃ t, exec (.culk o) s = .next t ∧ Writes s t s.me .next 0 0 ∧ t.mem = s.mem ∧
      t.myCore.locks = s.myCore.locks.del (s.G o.a).toNat ∧
      Spared (s.setMyCore { s.myCore with locks := t.myCore.locks, allots := t.myCore.allots }) t := by
  set c : Core := { s.myCore with locks := s.myCore.locks.del (s.G o.a).toNat } with hcdef
  set y : Ctx := { s.me with mon := { s.me.mon with dirty := true } } with hy
  set d : Core := (c.setCtx s.cur.2 y).reap with hd
  have hdirty : (s.setMyCore c).dirty = s.setMyCore (c.setCtx s.cur.2 y) := by
    rw [State.dirty, State.me_setMyCore]
    exact s.setMe_setMyCore _ _
  have hfreed : (s.setMyCore c).dirty.locksFreed s.cur.1 = (s.setMyCore d).wakeIf s.cur.1 fun w =>
      w == .busy 4 || w == .parkLock || w == .busy 10 || w == .busy 7 || w == .busy 8 := by
    rw [hdirty, State.locksFreed_eq, show (s.setMyCore (c.setCtx s.cur.2 y)).core s.cur.1 = _ from
      State.core_setCore_self _ _ _]
    exact congrArg (fun v : State => v.wakeIf _ _) (s.setCore_setCore _ _ _)
  obtain ⟨honly, hctx⟩ := State.ctx_wakeIf (f := fun w =>
      w == .busy 4 || w == .parkLock || w == .busy 10 || w == .busy 7 || w == .busy 8) (fun w h => by
    simp only [Bool.or_eq_true, beq_iff_eq] at h
    obtain (((rfl | rfl) | rfl) | rfl) | rfl := h
    all_goals rfl) (s.setMyCore d) s.cur.1
  rw [← hfreed] at honly hctx
  set u := (s.setMyCore c).dirty.locksFreed s.cur.1 with hu
  have hstill : ∀ (x : Ctx) (f : WaitOn → Bool), (x.roused f).still = x.still := fun x f => by
    rw [Ctx.roused]
    split
    · rfl
    · rfl
  have hself : (s.setMyCore d).ctx s.cur.1 s.cur.2 = y := by
    rw [State.ctx, show (s.setMyCore d).core s.cur.1 = d from State.core_setCore_self _ _ _]
    exact Core.ctx_setCtx_self _ _ _
  have hcur : u.cur = s.cur := by rw [honly.machine]; rfl
  have hume : u.me = y := by
    rw [State.me, hcur, hctx, hself]
    split
    · exact Ctx.roused_of_not fun w hy => nomatch hw.symm.trans hy
    · rfl
  have hpair : u.pair = s.pair := by rw [honly.machine]; rfl
  have hhas : HasMe u u y := hume ▸ HasMe.refl u
  obtain ⟨hwr, hal⟩ := retire_writes (s := s) hhas hpair ⟨rfl, rfl, rfl, rfl, rfl, rfl, rfl⟩
  have hcore : { u.myCore with ctxs := [] } = { d with ctxs := [] } := by
    rw [State.myCore, hcur, honly.cores, show (s.setMyCore d).core s.cur.1 = d from State.core_setCore_self _ _ _]
  have hlocks : (s.retire u).myCore.locks = c.locks := by
    have e := congrArg Core.locks (hal.myCore.trans hcore)
    exact e
  have hmem : (s.retire u).mem = s.mem := by
    have e := congrArg State.mem hal.machine
    have e' := congrArg State.mem honly.machine
    exact Eq.trans (b := u.mem) e e'
  refine ⟨_, exec_culk_own hg hl hk hc, hwr.of_dirty, hmem, hlocks, spared_of_unlocked hal ?_ (fun p k hpk => ?_)
    (fun p hp => ?_) ?_⟩
  · exact honly.machine
  · have hne : (s.setMyCore d).ctx p k = s.ctx p k := by
      by_cases hp : p = s.cur.1
      · subst hp
        rw [State.ctx, show (s.setMyCore d).core s.cur.1 = d from State.core_setCore_self _ _ _]
        exact Core.ctx_setCtx_ne _ _ fun hk => hpk (by rw [hk])
      · rw [State.ctx, show (s.setMyCore d).core p = s.core p from State.core_setCore_ne _ _ hp]
        rfl
    rw [hctx, hne]
    split
    · exact hstill _ _
    · rfl
  · rw [honly.cores, show (s.setMyCore d).core p = s.core p from State.core_setCore_ne _ _ hp]
  · have hcore' := honly.cores s.cur.1
    rw [show (s.setMyCore d).core s.cur.1 = d from State.core_setCore_self _ _ _] at hcore'
    have hl' := congrArg Core.locks hcore'
    have ha' := congrArg Core.allots hcore'
    dsimp only at hl' ha'
    rw [hl', ha', Core.still_of_same hcore']
    rfl

theorem culk_other {o : EOp} {s : State} (hg : s.guard o.grd = true)
    (h : ¬ ∃ l, s.myCore.locks.find? (s.G o.a).toNat = some l ∧ l.kind = 3 ∧ l.ctx = s.cur.2) :
    ∃ t, exec (.culk o) s = .next t ∧ Writes s t s.me .next 0 0 ∧ t.mem = s.mem ∧ Alone s t ∧
      Spared (s.setMyCore { s.myCore with locks := t.myCore.locks, allots := t.myCore.allots }) t := by
  obtain ⟨hwr, hal⟩ := retire_writes (s := s) s.dirty_hasMe rfl ⟨rfl, rfl, rfl, rfl, rfl, rfl, rfl⟩
  have hmem := congrArg State.mem hal.machine
  exact ⟨_, exec_culk_other hg h, hwr.of_dirty, hmem, hal,
    spared_of_unlocked hal rfl (fun _ _ _ => rfl) (fun _ _ => rfl) rfl⟩

/-! ### EVPOP (R368) -/

theorem exec_evpop {o : EOp} {s : State} (hg : s.guard o.grd = true) :
    let off := s.myCore.evqBase * 1024 + 16 * (s.myCore.evqhead % 64)
    exec (.evpop o) s = .next (if s.myCore.evqhead = s.myCore.evqtail then s.refuse s 2 3 o.nra o.tgt .events
      else s.okay (((s.setMyCore { s.myCore with evqhead := (s.myCore.evqhead + 1) % 128 }).setG o.d
        (BitVec.ofNat 64 (s.recWord off 0))).setG (o.d + 1) (BitVec.ofNat 64 (s.recWord off 1)))) := by
  intro off
  show execEvpop o s = _
  rw [execEvpop, guarded_true hg]

theorem evpop_pair {o : EOp} (h : (Instr.evpop o).WellFormed) : 2 ≤ o.d.toNat ∧ o.d.toNat ≤ 30 := by
  have h' : (o.noVar && isPair o.d && o.a == 0 && o.b == 0 && o.sem == 0 && o.imm == 0) = true := h
  simp only [Bool.and_eq_true, isPair, decide_eq_true_eq] at h'
  obtain ⟨⟨⟨⟨⟨-, ⟨h2, h30⟩, -⟩, -⟩, -⟩, -⟩, -⟩ := h'
  exact ⟨h2, h30⟩

theorem readBack_general {d : Spec} (v : Word) (h0 : d.toNat ≠ 0) (h : d.toNat < 32) : readBack d v = v := by
  rw [readBack, if_neg h0, if_pos h]

/-- A pair of registers written by an instruction that ends with OK. -/
theorem pair_okay {s w : State} (hme : w.me = s.me) (hp : w.pair = s.pair) {d : Spec} (h2 : 2 ≤ d.toNat) (h30 : d.toNat ≤ 30)
    (v0 v1 : Word) : ∃ t, s.okay ((w.setG d v0).setG (d + 1) v1) = t ∧ Ended s t (.ok false) ∧ t.me.reg d = v0 ∧
      t.me.reg (d + 1) = v1 ∧ (∀ r, r ≠ d → r ≠ d + 1 → t.me.reg r = s.me.reg r) ∧ t.me.rest = s.me.rest ∧ Alone w t := by
  have hd : (d + 1).toNat = d.toNat + 1 := by
    rw [BitVec.toNat_add]
    exact Nat.mod_eq_of_lt (Nat.lt_of_le_of_lt (Nat.add_le_add_right h30 1) (by decide))
  have hne : d ≠ d + 1 := fun e => by
    have := congrArg BitVec.toNat e
    omega
  have hset : (w.setG d v0).setG (d + 1) v1 = w.setMe ((s.me.setReg d v0).setReg (d + 1) v1) := by
    rw [State.setG, State.setG, State.me_setMe, State.setMe_setMe, hme]
  have hhas : HasMe w ((w.setG d v0).setG (d + 1) v1) ((s.me.setReg d v0).setReg (d + 1) v1) := by
    rw [hset]
    exact HasMe.of_setMe w _
  have hplace : (s.me.setReg d v0).SamePlace s.me := by
    have e := (Ctx.SamePlace.refl s.me).setReg d v0 s.me.mon
    rwa [show { s.me.setReg d v0 with mon := s.me.mon } = s.me.setReg d v0 by rw [← Ctx.setReg_mon s.me d v0]] at e
  obtain ⟨hwr, hal⟩ := writes_ok (s := s) false hhas hp hplace (m := s.me.mon)
    (by rw [← Ctx.setReg_mon s.me d v0, ← Ctx.setReg_mon (s.me.setReg d v0) (d + 1) v1])
  refine ⟨_, rfl, hwr.ended, ?_, ?_, fun r hr hr1 => ?_, ?_, hal⟩
  · exact (hwr.others d hne).trans ((Ctx.reg_setReg_self _ _ _).trans (readBack_general v0 (by omega) (by omega)))
  · exact hwr.value.trans (readBack_general v1 (by omega) (by omega))
  · exact (hwr.others r hr1).trans (Ctx.reg_setReg_ne _ _ hr)
  · exact hwr.rest.trans (Ctx.rest_setReg _ _ _)

/-- Settles O38: the engine instructions, each by its own outcomes. -/
theorem engineInstructions : Obligations.EngineInstructions := by
  intro o s hg a h c ch bound new ranges w
  refine ⟨fun hb => ⟨State.check_traps (exec_capp_unbound hg hb), State.check_traps (exec_cadv_unbound hg hb),
    State.check_traps (exec_cseq_unbound hg hb)⟩, fun hb => ?_, ?_, fun hw => ?_, fun hwf => ?_⟩
  · refine ⟨fun h1 => ?_, fun h1 h2 => ?_, fun h1 h2 => ⟨fun h3 => ?_, fun hd h3 => ⟨fun h4 hn => ?_, fun h4 h5 hn => ?_,
      fun h4 h5 h6 hn => ?_, fun h4 h5 h6 => ?_⟩⟩, ?_, fun hwf => ⟨fun h1 => ?_, fun h1 hn => ?_⟩⟩
    · exact State.check_traps ((exec_capp hg hb).trans (congrArg _ (if_pos h1)))
    · exact State.check_traps ((exec_capp hg hb).trans (congrArg _ ((if_neg (not_not.mpr h1)).trans (if_pos h2))))
    · have hbad : (!((isHost ch.pend || isDevice ch.pend) && c.allowed ch.pend rW)) = true := by
        rw [h3, Bool.and_false, Bool.not_false]
      exact State.check_traps ((exec_capp hg hb).trans (congrArg _ ((if_neg (not_not.mpr h1)).trans
        ((if_neg (Nat.not_le.mpr h2)).trans (if_pos hbad)))))
    · exact unready_of_busy hn ((exec_capp_passed hg hb h1 h2 hd h3).trans (congrArg _ (if_pos h4)))
    · exact unready_of_busy hn ((exec_capp_passed hg hb h1 h2 hd h3).trans
        (congrArg _ ((if_neg (Nat.not_le.mpr h4)).trans (if_pos h5))))
    · exact unready_of_busy hn ((exec_capp_passed hg hb h1 h2 hd h3).trans (congrArg _ ((if_neg (Nat.not_le.mpr h4)).trans
        ((if_neg (by rw [h5]; exact Bool.false_ne_true)).trans (if_pos (Nat.add_lt_add_right h6 8))))))
    · obtain ⟨t, es, r, rfl, hres⟩ := capp_okay s h a.toNat
      exact ⟨_, es, r, (exec_capp_passed hg hb h1 h2 hd h3).trans (congrArg _ ((if_neg (Nat.not_le.mpr h4)).trans
        ((if_neg (by rw [h5]; exact Bool.false_ne_true)).trans (if_neg (Nat.not_lt.mpr (Nat.add_le_add_right h6 8)))))), hres⟩
    · intro due
      have hdue : ((s.myCore.sbuf.any fun e => new.any fun r => r.seqs.contains e.seq) || !s.relMet s.cur.1 s.cur.2) = true ↔
          due := by
        simp only [Bool.or_eq_true, List.any_eq_true, List.contains_iff_mem, Bool.not_eq_true']
        rfl
      refine ⟨fun h1 hn => ?_, fun h1 h2 hn => ?_, fun h1 h2 => ?_⟩
      · exact unready_of_busy hn ((exec_cadv hg hb).trans (congrArg _ (if_pos (hdue.mpr h1))))
      · exact unready_of_busy hn ((exec_cadv hg hb).trans (congrArg _ ((if_neg (mt hdue.mp h1)).trans (if_pos h2))))
      · obtain ⟨t, rfl, hres⟩ := cadv_okay (s := s) (h := h) h2
        exact ⟨_, (exec_cadv hg hb).trans (congrArg _ ((if_neg (mt hdue.mp h1)).trans (if_neg (Nat.not_lt.mpr h2)))), hres⟩
    · have hexec := (exec_cseq hg hb).trans (congrArg _ (if_pos h1))
      rw [s.after_ord (cseq_ord hwf)] at hexec
      exact ⟨_, hexec, after_okay s o.ord⟩
    · exact unready_of_refuse (by rw [hn]; decide) rfl rfl rfl (fun _ => rfl)
        ((exec_cseq hg hb).trans (congrArg _ (if_neg (Nat.not_le.mpr h1))))
  · intro n
    refine ⟨fun h1 => ?_, fun h1 h2 => ?_, fun h1 h2 => ⟨fun h3 hn => ?_, fun h3 h4 hn => ?_, fun h3 h4 => ?_⟩⟩
    · exact State.check_traps ((exec_clck hg).trans (congrArg _ (if_pos h1)))
    · exact State.check_traps ((exec_clck hg).trans (congrArg _ ((if_neg (not_not.mpr h1)).trans (if_pos h2))))
    · exact unready_of_busy hn ((exec_clck_passed hg h1 h2).trans (congrArg _ (if_pos h3)))
    · have hfull : s.myCore.freeLocks = 0 := Nat.sub_eq_zero_of_le h4
      exact unready_of_busy hn ((exec_clck_passed hg h1 h2).trans (congrArg _
        ((if_neg (by rw [h3]; exact Bool.false_ne_true)).trans (if_pos hfull))))
    · have hroom : s.myCore.freeLocks ≠ 0 := Nat.sub_ne_zero_of_lt h4
      obtain ⟨t, v, rfl, hres⟩ := clck_okay o.d a.toNat n h4
      exact ⟨_, v, (exec_clck_passed hg h1 h2).trans (congrArg _
        ((if_neg (by rw [h3]; exact Bool.false_ne_true)).trans (if_neg hroom))), hres⟩
  · intro own
    by_cases hown : own
    · obtain ⟨l, hl, hk, hc⟩ := hown
      obtain ⟨t, ht, hwr, hmem, hlocks, hsp⟩ := culk_own hg hw hl hk hc
      exact ⟨t, ht, hwr, hmem, fun _ => ⟨by rw [hlocks]; exact KMap.find?_del_self _ _, fun j hj => by
        rw [hlocks]; exact KMap.find?_del_ne _ hj⟩, fun hno => absurd ⟨l, hl, hk, hc⟩ hno, hsp⟩
    · obtain ⟨t, ht, hwr, hmem, hal, hsp⟩ := culk_other hg hown
      exact ⟨t, ht, hwr, hmem, fun hyes => absurd hyes hown, fun _ => hal, hsp⟩
  · obtain ⟨h2, h30⟩ := evpop_pair hwf
    refine ⟨fun h1 hn => ?_, fun h1 => ?_⟩
    · exact unready_of_refuse (by rw [hn]; decide) rfl rfl rfl (fun _ => rfl)
        ((exec_evpop hg).trans (congrArg _ (if_pos h1)))
    · obtain ⟨t, rfl, hres⟩ := pair_okay (s := s) (w := s.setMyCore { c with evqhead := (c.evqhead + 1) % 128 })
        (State.me_setMyCore s _) rfl h2 h30
        (w (c.evqBase * 1024 + 16 * (c.evqhead % 64)) 0) (w (c.evqBase * 1024 + 16 * (c.evqhead % 64)) 1)
      exact ⟨_, (exec_evpop hg).trans (congrArg _ (if_neg h1)), hres⟩

end Sys2Proof.Machine
end

section

/-!
# The helper ring and the dispenser

HCHK, RPOP, RDEC on the own core, GIVE and TAKE (R302–R305, R39, R40, R42, R43).
-/

namespace Sys2Proof.Machine
open Sys2Proof

/-! ### HCHK (R302, R40) -/

theorem exec_hchk {o : EOp} {s : State} (hg : s.guard o.grd = true) :
    exec (.hchk o) s = .next (
      if (List.range 10).any fun i => bitAt (s.G o.a).toNat i && (s.myCore.ctx (i + 1)).live &&
          (s.myCore.ctx (i + 1)).cnum.toNat == fld (s.G o.a).toNat 16 8 then
        s.refuse s 6 3 o.nra o.tgt .helper
      else s.okay (s.setMyCore (s.myCore.releaseData s.cur.2))) := by
  show execHchk o s = _
  rw [execHchk, guarded_true hg]

theorem helpersLive_iff {s : State} {h : Nat} :
    ((List.range 10).any fun i => bitAt h i && (s.myCore.ctx (i + 1)).live &&
      (s.myCore.ctx (i + 1)).cnum.toNat == fld h 16 8) = true ↔
    ∃ k, 1 ≤ k ∧ k ≤ 10 ∧ bitAt h (k - 1) = true ∧ (s.ctx s.cur.1 k).live = true ∧
      (s.ctx s.cur.1 k).cnum.toNat = fld h 16 8 := by
  simp only [List.any_eq_true, List.mem_range, Bool.and_eq_true, beq_iff_eq]
  constructor
  · rintro ⟨i, hi, ⟨hb, hl⟩, hn⟩
    exact ⟨i + 1, by omega, by omega, hb, hl, hn⟩
  · rintro ⟨k, h1, h10, hb, hl, hn⟩
    obtain ⟨i, rfl⟩ := Nat.exists_eq_add_of_le' h1
    exact ⟨i, by omega, ⟨hb, hl⟩, hn⟩

theorem hchk_okay (s : State) : ∃ t, s.okay (s.setMyCore (s.myCore.releaseData s.cur.2)) = t ∧
    Writes s t s.me (.ok false) 0 0 ∧ Alone (s.setMyCore (s.myCore.releaseData s.cur.2)) t ∧
    (∀ g ∈ t.myCore.holds, g.ctx = s.cur.2 → g.fault.isSome = true) ∧
    ∀ g ∈ s.myCore.holds, g.ctx ≠ s.cur.2 ∨ g.fault.isSome = true → g ∈ t.myCore.holds := by
  obtain ⟨hwr, hal⟩ := core_okay (s := s) (c := s.myCore.releaseData s.cur.2) fun _ => rfl
  have hholds := congrArg Core.holds (State.myCore_okay (s := s) (c := s.myCore.releaseData s.cur.2) fun _ => rfl)
  dsimp only at hholds
  refine ⟨_, rfl, hwr, hal, fun g hgm hk => ?_, fun g hgm hk => ?_⟩
  · rw [hholds] at hgm
    have hf := (List.mem_filter.mp hgm).2
    simpa [hk] using hf
  · rw [hholds]
    refine List.mem_filter.mpr ⟨hgm, ?_⟩
    simpa using hk

/-! ### RPOP (R303) -/

theorem State.skipPoisoned_stop {s : State} {p : Nat} (n : Nat) (h : (s.core p).rrhead = (s.core p).rrtail ∨
    s.isPoison (lsAddr p ((s.core p).rrbase + 4 * ((s.core p).rrhead % 256))) = false) : s.skipPoisoned p n = s := by
  cases n with
  | zero => rfl
  | succ n =>
    refine if_neg ?_
    rw [Bool.and_eq_true, bne_iff_ne]
    rintro ⟨hne, hp⟩
    obtain h | h := h
    · exact hne h
    · exact Bool.false_ne_true (h.symm.trans hp)

theorem exec_rpop {o : EOp} {s : State} (hg : s.guard o.grd = true) (hk : s.cur.2 = 0)
    (hskip : s.skipPoisoned s.cur.1 256 = s) :
    let c := s.myCore
    let off := s.rd (lsAddr s.cur.1 (c.rrbase + 4 * (c.rrhead % 256))) 4
    let need := needFor (fld (s.recWord off 2) 20 4) (s.typeOf (fld (s.recWord off 2) 20 4)).1
    exec (.rpop o) s = .next (
      if c.rrhead = c.rrtail then s.refuse s 2 1 o.nra o.tgt .ring
      else if c.freeSlots.length < need.slots || (c.fit need).isNone then s.busy s 8 o.nra o.tgt
      else s.okay ((s.setMyCore { c with rrhead := (c.rrhead + 1) % 512 }).setG o.d (u64 off))) := by
  intro c off need
  show execRpop o s = _
  rw [execRpop, guarded_true hg]
  dsimp only
  rw [if_neg (not_not.mpr hk), hskip]

/-! ### RDEC on the own core (R304, R39) -/

theorem State.lsWake_unwatched {s : State} {p off : Nat} {full wrote : Bool} (h : (s.core p).watches = []) :
    s.lsWake p off false full wrote = s := by
  simp only [State.lsWake, h, Bool.false_eq_true, if_false]
  cases wrote
  · rfl
  · rfl

theorem exec_rdec_own {o : EOp} {s : State} (hg : s.guard o.grd = true) (hr : (s.G o.a).toNat = s.myCore.rank)
    (h1 : s.myCore.rank < 256) (h2 : s.myCore.rank < s.teamSize s.cur.1) (ha : (s.G o.b).toNat % 32 = 0)
    (hb : (s.G o.b).toNat < 2 ^ 20) :
    let b := (s.G o.b).toNat
    let dc := s.rd (lsAddr s.cur.1 (b + 16)) 8 % 2 ^ 20
    s.lsLocked b 32 = false → s.lsLocked dc 8 = false → dc % 8 = 0 → s.isPoison (lsAddr s.cur.1 dc) = false →
    s.myCore.watches = [] →
    let v := BitVec.ofNat 64 (s.rd (lsAddr s.cur.1 dc) 8) - 1
    let u := s.wr (lsAddr s.cur.1 dc) 8 v.toNat
    exec (.rdec o) s = .next (s.okay (if v = 0 then u.pushReady s.cur.1 b s.ip s.me.top2 else u)) := by
  intro b dc hl1 hl2 h8 hp hw v u
  have hdc : fld (s.rd (lsAddr s.cur.1 (b + 16)) 8) 0 20 = dc := by simp [fld, dc]
  have hdec : s.decrement s.cur.1 b s.ip s.me.top2 = .done (if v = 0 then u.pushReady s.cur.1 b s.ip s.me.top2 else u) := by
    rw [State.decrement, hdc]
    dsimp only
    rw [if_neg (not_not.mpr h8), hp, if_neg Bool.false_ne_true, State.lsWake_unwatched (s := u) hw]
  show execRdec o s = _
  rw [execRdec, guarded_true hg]
  dsimp only
  rw [if_neg (not_not.mpr ha), if_neg (Nat.not_le.mpr hb), State.withRank_ok _ _ _ _ (hr ▸ h1) (hr ▸ h2), if_pos hr,
    show fld (s.recWord (s.G o.b).toNat 2) 0 20 = dc from hdc,
    if_neg (by rw [show s.lsLocked (s.G o.b).toNat 32 = false from hl1, hl2]; exact Bool.false_ne_true), hdec]

/-- Writing memory alone spares everything else. -/
theorem spared_of_wr {s t : State} {a n v : Nat} (hal : Alone (s.wr a n v) t) : Spared s t where
  contexts := fun p k hpk => congrArg Ctx.still (hal.contexts p k hpk)
  cores := fun p => Core.still_of_same (hal.cores p)
  chains := fun h => by
    have e := congrArg State.chains hal.machine
    rw [State.chain, e]
    rfl
  machine := by
    have hch := congrArg State.chains hal.machine
    have hemp := congrArg State.empties hal.machine
    have hpo := congrArg State.poison hal.machine
    have hmem := congrArg State.mem hal.machine
    dsimp only at hch hemp hpo hmem
    rw [hch, hemp, hpo, hmem]
    exact hal.machine

theorem rdec_counts (s : State) (a v : Nat) : ∃ t, s.okay (s.wr a 8 v) = t ∧ Writes s t s.me (.ok false) 0 0 ∧ Spared s t ∧
    t.mem = (s.wr a 8 v).mem := by
  obtain ⟨hwr, hal⟩ := accepted (s := s) (u := s.wr a 8 v) rfl rfl
  have hmem := congrArg State.mem hal.machine
  exact ⟨_, rfl, hwr, spared_of_wr hal, hmem⟩

theorem State.wakeIf_quiet {s : State} {p : Nat} {f : WaitOn → Bool} (h : ∀ k, (s.ctx p k).wait = none) :
    s.wakeIf p f = s := by
  have hnone : (s.core p).waiting f = [] := List.eq_nil_iff_forall_not_mem.mpr fun k hk => by
    obtain ⟨-, w, hw, -⟩ := (Core.mem_waiting _ _ _).mp hk
    exact nomatch (h k).symm.trans hw
  rw [State.wakeIf, hnone]
  rfl

/-- A record whose counter reaches zero enters a ring with room, on a core where nothing waits. -/
theorem pushReady_enters {s : State} {p off : Nat} (src srcx : Word) (hroom : ringCount (s.core p).rrhead (s.core p).rrtail 256 ≠ 256)
    (hw : (s.core p).watches = []) (hwait : ∀ k, (s.ctx p k).wait = none) :
    s.pushReady p off src srcx = (s.wr (lsAddr p ((s.core p).rrbase + 4 * ((s.core p).rrtail % 256))) 4 off).setCore p
      { s.core p with rrtail := ((s.core p).rrtail + 1) % 512 } := by
  set u := s.wr (lsAddr p ((s.core p).rrbase + 4 * ((s.core p).rrtail % 256))) 4 off with hu
  have hlw : u.lsWake p ((s.core p).rrbase + 4 * ((s.core p).rrtail % 256)) false false true = u :=
    State.lsWake_unwatched (s := u) hw
  rw [State.pushReady]
  dsimp only
  rw [if_neg hroom, ← hu, hlw]
  exact State.wakeIf_quiet fun k => (congrArg Ctx.wait
    (u.ctx_setCore_same (c := { s.core p with rrtail := ((s.core p).rrtail + 1) % 512 }) rfl p k)).trans (hwait k)

theorem rdec_rings {s : State} {a v off : Nat} (src srcx : Word)
    (hroom : ringCount s.myCore.rrhead s.myCore.rrtail 256 ≠ 256) (hw : s.myCore.watches = []) (hoff : off < 2 ^ 20)
    (hwait : ∀ k, (s.ctx s.cur.1 k).wait = none) :
    ∃ t, s.okay ((s.wr a 8 v).pushReady s.cur.1 off src srcx) = t ∧
      t.myCore.rrtail = (s.myCore.rrtail + 1) % 512 ∧
      t.rd (lsAddr s.cur.1 (s.myCore.rrbase + 4 * (s.myCore.rrtail % 256))) 4 = off := by
  set u := (s.wr a 8 v).pushReady s.cur.1 off src srcx with hu
  have hpush : u = ((s.wr a 8 v).wr (lsAddr s.cur.1 (s.myCore.rrbase + 4 * (s.myCore.rrtail % 256))) 4 off).setCore s.cur.1
      { s.myCore with rrtail := (s.myCore.rrtail + 1) % 512 } :=
    pushReady_enters (s := s.wr a 8 v) src srcx hroom hw hwait
  have hme : u.me = s.me := by rw [hpush]; exact State.me_setMyCore _ _
  have hp : u.pair = s.pair := by rw [hpush]; rfl
  have hcore : u.myCore = { s.myCore with rrtail := (s.myCore.rrtail + 1) % 512 } := by
    rw [hpush]
    exact State.core_setCore_self _ _ _
  obtain ⟨-, hal⟩ := accepted hme hp
  have htail := congrArg Core.rrtail hal.myCore
  have hmem := congrArg State.mem hal.machine
  dsimp only at htail hmem
  refine ⟨_, rfl, by rw [htail, hcore], ?_⟩
  rw [State.rd, hmem, hpush]
  refine (State.rd_wr (s.wr a 8 v) _ 4 off).trans ?_
  omega

/-! ### GIVE and TAKE (R42, R43, R305) -/

theorem State.withRecord_ok {s : State} {o : EOp} (k : Nat → State) (h1 : (s.G o.a).toNat % 32 = 0)
    (h2 : (s.G o.a).toNat < 2 ^ 20) : s.withRecord o k = k (s.G o.a).toNat :=
  (if_neg (not_not.mpr h1)).trans (if_neg (Nat.not_le.mpr h2))

/-- The record that GIVE puts at the end of the dispenser. -/
noncomputable def State.given (s : State) (tm : Team) (off : Nat) : DRec :=
  ⟨tm.grid, [BitVec.ofNat 64 (s.rd (lsAddr s.cur.1 (off + 8 * 0)) 8), BitVec.ofNat 64 (s.rd (lsAddr s.cur.1 (off + 8 * 1)) 8),
    BitVec.ofNat 64 (s.rd (lsAddr s.cur.1 (off + 8 * 2)) 8), BitVec.ofNat 64 (s.rd (lsAddr s.cur.1 (off + 8 * 3)) 8)],
    s.myCore.rank, off, tm.number⟩

/-- The die's dispenser after a GIVE. -/
noncomputable def State.give (s : State) (tm : Team) (off : Nat) : State :=
  let d := s.dispenser (dieOf s.cur.1)
  { s with dispensers := s.dispensers.put (dieOf s.cur.1) { d with recs := d.recs ++ [s.given tm off] } }

theorem exec_give {o : EOp} {s : State} {tm : Team} (hg : s.guard o.grd = true) (h1 : (s.G o.a).toNat % 32 = 0)
    (h2 : (s.G o.a).toNat < 2 ^ 20) (hl : s.lsLocked (s.G o.a).toNat 32 = false) (ht : s.teamOf s.cur.1 = some tm) :
    exec (.give o) s = .next (
      if 8192 ≤ (s.dispenser (dieOf s.cur.1)).recs.length then s.busyE o 1
      else s.okay ((s.give tm (s.G o.a).toNat).cores.foldl (fun s1 e =>
        if dieOf e.1 = dieOf s.cur.1 && ((s.teamOf e.1).map (·.grid)) == some tm.grid then
          s1.wakeIf e.1 (· == .dispenser)
        else s1) (s.give tm (s.G o.a).toNat))) := by
  show execGive o s = _
  rw [execGive, guarded_true hg]
  dsimp only
  rw [State.withRecord_ok _ h1 h2, hl, if_neg Bool.false_ne_true, ht]
  rfl

theorem dispenser_plain : ∀ w : WaitOn, (w == .dispenser) = true → w.plain = true := by
  intro w h
  rw [beq_iff_eq] at h
  subst h
  rfl

theorem Alone.mem {s t : State} (h : Alone s t) : t.mem = s.mem := by rw [h.machine]
theorem Alone.dispensers {s t : State} (h : Alone s t) : t.dispensers = s.dispensers := by rw [h.machine]
theorem CtxsOnly.dispensers {s t : State} (h : CtxsOnly s t) : t.dispensers = s.dispensers := by rw [h.machine]
theorem CtxsOnly.cur {s t : State} (h : CtxsOnly s t) : t.cur = s.cur := by rw [h.machine]
theorem CtxsOnly.pair {s t : State} (h : CtxsOnly s t) : t.pair = s.pair := by rw [h.machine]

theorem Bookkept.dispensers {s t : State} (h : Bookkept s t) : t.dispensers = s.dispensers := by rw [h]
theorem Stirred.dispensers {s t : State} (h : Stirred s t) : t.dispensers = s.dispensers := h.machine.dispensers

/-- An instruction that ends with OK after a wake of plain waits, which its own context is not in. -/
theorem okay_of_woken {s u v : State} (honly : CtxsOnly u v) (hume : v.me = s.me) (hp : u.pair = s.pair) :
    Writes s (s.okay v) s.me (.ok false) 0 0 ∧ (s.okay v).mem = u.mem ∧ (s.okay v).dispensers = u.dispensers := by
  obtain ⟨hwr, hal⟩ := accepted hume (honly.pair.trans hp)
  exact ⟨hwr, hal.mem.trans honly.mem, hal.dispensers.trans honly.dispensers⟩

/-- The wait of contexts with none is untouched by a wake of the others. -/
theorem Ctx.roused_idle {x : Ctx} (f : WaitOn → Bool) (h : x.wait = none) : x.roused f = x :=
  Ctx.roused_of_not fun _ hw => nomatch h.symm.trans hw

theorem give_okay {s : State} {tm : Team} {off : Nat} (hw : s.me.wait = none) : ∃ t,
    s.okay ((s.give tm off).cores.foldl (fun s1 e =>
        if dieOf e.1 = dieOf s.cur.1 && ((s.teamOf e.1).map (·.grid)) == some tm.grid then
          s1.wakeIf e.1 (· == .dispenser)
        else s1) (s.give tm off)) = t ∧ Writes s t s.me (.ok false) 0 0 ∧
      (t.dispenser (dieOf s.cur.1)).recs = (s.dispenser (dieOf s.cur.1)).recs ++ [s.given tm off] ∧ t.mem = s.mem := by
  obtain ⟨honly, hctx⟩ := State.ctx_wakesWhere dispenser_plain
    (fun p => (decide (dieOf p = dieOf s.cur.1) && ((s.teamOf p).map (·.grid)) == some tm.grid) = true) (s.give tm off)
  have hme : ∀ v, CtxsOnly (s.give tm off) v → v.ctx s.cur.1 s.cur.2 = s.me → v.me = s.me := fun v hv h => by
    have hcur : v.cur = s.cur := hv.cur
    rw [State.me, hcur]
    exact h
  obtain ⟨hwr, hmem, hdisp⟩ := okay_of_woken honly (hme _ honly (by
    rw [hctx]
    split
    · exact Ctx.roused_idle _ hw
    · rfl)) rfl
  refine ⟨_, rfl, hwr, ?_, hmem⟩
  rw [State.dispenser, hdisp]
  exact congrArg Dispenser.recs (KMap.get_put_self _ _ _ _)

/-! ### TAKE -/

theorem takeRec_none {g : Nat} {l : List DRec} (h : ∀ r ∈ l, r.grid ≠ g) : takeRec g l = none := by
  induction l with
  | nil => rfl
  | cons r l ih =>
    rw [takeRec, if_neg (h r List.mem_cons_self), ih fun x hx => h x (List.mem_cons_of_mem _ hx)]
    rfl

theorem exec_take_none {o : EOp} {s : State} {tm : Team} (hg : s.guard o.grd = true) (hk : s.cur.2 ≤ 10)
    (h1 : (s.G o.a).toNat % 32 = 0) (h2 : (s.G o.a).toNat < 2 ^ 20) (hl : s.lsLocked (s.G o.a).toNat 32 = false)
    (ht : s.teamOf s.cur.1 = some tm) (hr : takeRec tm.grid (s.dispenser (dieOf s.cur.1)).recs = none) :
    exec (.take o) s = .next (s.refuse s 2 2 o.nra o.tgt .dispenser) := by
  show execTake o s = _
  rw [execTake, guarded_true hg]
  dsimp only
  rw [if_neg (Nat.not_lt.mpr hk), State.withRecord_ok _ h1 h2, hl, if_neg Bool.false_ne_true, ht]
  dsimp only
  rw [hr]

/-- The state once TAKE has taken the record `r` and left `rest`. -/
noncomputable def State.take (s : State) (off : Nat) (r : DRec) (rest : List DRec) : State :=
  let d := s.dispenser (dieOf s.cur.1)
  State.putRecord { s with dispensers := s.dispensers.put (dieOf s.cur.1) { d with recs := rest } } s.cur.1 off r.ws

theorem exec_take_first {o : EOp} {s : State} {tm : Team} {r : DRec} {rest : List DRec} (hg : s.guard o.grd = true)
    (hk : s.cur.2 ≤ 10) (h1 : (s.G o.a).toNat % 32 = 0) (h2 : (s.G o.a).toNat < 2 ^ 20)
    (hl : s.lsLocked (s.G o.a).toNat 32 = false) (ht : s.teamOf s.cur.1 = some tm)
    (hr : (s.dispenser (dieOf s.cur.1)).recs = r :: rest) (hgr : r.grid = tm.grid)
    (hgrant : (s.dispenser (dieOf s.cur.1)).grant = []) :
    exec (.take o) s = .next (match s.withheld (zoneOf s.cur.1) with
      | some n => s.refuse s 7 n o.nra o.tgt (.withheld n)
      | none => s.okay ((s.take (s.G o.a).toNat r rest).cores.foldl (fun s1 e =>
          if dieOf e.1 = dieOf s.cur.1 then s1.wakeIf e.1 (· == .busy 1) else s1) (s.take (s.G o.a).toNat r rest))) := by
  show execTake o s = _
  rw [execTake, guarded_true hg]
  dsimp only
  rw [if_neg (Nat.not_lt.mpr hk), State.withRecord_ok _ h1 h2, hl, if_neg Bool.false_ne_true, ht]
  dsimp only
  rw [hr, takeRec, if_pos hgr]
  dsimp only
  have hfloor : ((s.dispenser (dieOf s.cur.1)).grant.contains tm.grid && s.allWithheld tm.grid &&
      s.floorZone (dieOf s.cur.1) tm.grid == some (zoneOf s.cur.1)) = false := by
    rw [hgrant]
    rfl
  rw [hfloor]
  rfl

theorem State.lsStep_stirred (s : State) (p off : Nat) (f : Nat → Word → Bool → Bool → OpRes) :
    Stirred s (s.lsStep p off f).1 := by
  have hmarks : ∀ (b c : Prop) [Decidable b] [Decidable c] (u : State) (a : Nat) (x y : Bool),
      Stirred u (if c then (if b then u.setPoison a x else u).setFull a y else (if b then u.setPoison a x else u)) :=
    fun b c _ _ u a x y => by
      split
      · split
        · exact Bookkept.stirred rfl
        · exact Bookkept.stirred rfl
      · split
        · exact Bookkept.stirred rfl
        · exact .refl _
  have hwrite : ∀ (b : Bool) (a v : Nat), Stirred s (if b = true then s.wr a 8 v else s) := fun b a v => by
    split
    · exact Bookkept.stirred rfl
    · exact .refl _
  rw [State.lsStep]
  exact ((hwrite _ _ _).trans (hmarks _ _ _ _ _ _)).trans (State.lsWake_stirred _ _ _ _ _ _)

theorem State.putRecord_stirred (s : State) (p off : Nat) (ws : List Word) : Stirred s (s.putRecord p off ws) := by
  unfold State.putRecord
  exact Stirred.foldl (fun s e => s.lsStep_stirred p _ _) _ s

theorem Writes.of_unrung {s t : State} {x y : Ctx} {e : End} {d : Spec} {v : Word} (h : Writes s t x e d v)
    (hxy : x.unrung = y.unrung) : Writes s t y e d v := by
  have hreg : ∀ r, x.reg r = y.reg r := fun r => (congrArg (fun z => z.reg r) hxy :)
  have hwin := congrArg Ctx.win hxy
  have hbase := congrArg Ctx.wbase hxy
  have hrest := congrArg Ctx.rest hxy
  dsimp only [Ctx.unrung] at hwin hbase
  refine ⟨h.value, fun r hr => (h.others r hr).trans (hreg r), fun k h1 h2 j hj => ?_, h.ended, h.rest.trans hrest⟩
  rw [← hwin]
  exact h.halves k (by rwa [hbase]) (by rwa [hbase]) j hj

theorem busyOne_plain : ∀ w : WaitOn, (w == .busy 1) = true → w.plain = true := by
  intro w h
  rw [beq_iff_eq] at h
  subst h
  rfl

theorem SamePlace.of_unrung {x y : Ctx} (h : x.unrung = y.unrung) : x.SamePlace y := by
  have h1 := congrArg Ctx.ip h
  have h2 := congrArg Ctx.retry h
  have h3 := congrArg Ctx.front h
  have h4 := congrArg Ctx.oc h
  have h5 := congrArg Ctx.count h
  have h6 := congrArg Ctx.armed h
  have h7 := congrArg Ctx.init h
  exact ⟨h1, h2, h3, h4, h5, h6, h7⟩

theorem take_okay {s : State} {off : Nat} {r : DRec} {rest : List DRec} (hw : s.me.wait = none) : ∃ t,
    s.okay ((s.take off r rest).cores.foldl (fun s1 e =>
        if dieOf e.1 = dieOf s.cur.1 then s1.wakeIf e.1 (· == .busy 1) else s1) (s.take off r rest)) = t ∧
      Writes s t s.me (.ok false) 0 0 ∧ (t.dispenser (dieOf s.cur.1)).recs = rest ∧ t.mem = (s.take off r rest).mem := by
  set d : Dispenser := { s.dispenser (dieOf s.cur.1) with recs := rest } with hd
  set v : State := { s with dispensers := s.dispensers.put (dieOf s.cur.1) d } with hv
  have hst : Stirred v (s.take off r rest) := State.putRecord_stirred _ _ _ _
  obtain ⟨honly, hctx⟩ := State.ctx_wakesWhere busyOne_plain (fun p => dieOf p = dieOf s.cur.1) (s.take off r rest)
  set u := (s.take off r rest).cores.foldl (fun s1 e =>
    if dieOf e.1 = dieOf s.cur.1 then s1.wakeIf e.1 (· == .busy 1) else s1) (s.take off r rest) with hu
  have hidle : ((s.take off r rest).ctx s.cur.1 s.cur.2).unrung = s.me.unrung := hst.idle _ _ hw
  have hwait : ((s.take off r rest).ctx s.cur.1 s.cur.2).wait = none := Stirred.wait_none hidle hw
  have hume : u.me = (s.take off r rest).ctx s.cur.1 s.cur.2 := by
    rw [State.me, show u.cur = s.cur from honly.cur.trans hst.cur, hctx]
    split
    · exact Ctx.roused_idle _ hwait
    · rfl
  have hpair : u.pair = s.pair := honly.pair.trans hst.pair
  have hhas : HasMe u u ((s.take off r rest).ctx s.cur.1 s.cur.2) := hume ▸ HasMe.refl u
  obtain ⟨hwr, hal⟩ := writes_okay (s := s) false hhas hpair (SamePlace.of_unrung hidle)
  refine ⟨_, rfl, hwr.of_unrung hidle, ?_, hal.mem.trans honly.mem⟩
  have hdisp : (s.okay u).dispensers = v.dispensers := hal.dispensers.trans (honly.dispensers.trans hst.dispensers)
  rw [State.dispenser, hdisp]
  exact congrArg Dispenser.recs (KMap.get_put_self _ _ _ _)

/-- Settles O34: each instruction by its outcomes. -/
theorem helperRingAndDispenser : Obligations.HelperRingAndDispenser := by
  refine ⟨?_, ?_⟩
  · intro o s hg c
    refine ⟨?_, fun hk => ⟨fun hr hn => ?_, ?_⟩, ?_⟩
    · intro h busy
      have hbusy := helpersLive_iff (s := s) (h := h)
      refine ⟨fun hno => ?_, fun hyes hn => ?_⟩
      · obtain ⟨t, rfl, hres⟩ := hchk_okay s
        exact ⟨_, (exec_hchk hg).trans (congrArg _ (if_neg (mt hbusy.mp hno))), hres⟩
      · exact unready_of_refuse (by rw [hn]; decide) rfl rfl rfl (fun _ => rfl)
          ((exec_hchk hg).trans (congrArg _ (if_pos (hbusy.mpr hyes))))
    · exact unready_of_refuse (by rw [hn]; decide) rfl rfl rfl (fun _ => rfl)
        ((exec_rpop hg hk (State.skipPoisoned_stop 256 (.inl hr))).trans (congrArg _ (if_pos hr)))
    · intro at_ off ty need hr hp hslots hfit
      have hno : ¬ (decide (c.freeSlots.length < need.slots) || (c.fit need).isNone) = true := by
        rw [decide_eq_false (Nat.not_lt.mpr hslots), Bool.false_or, Option.isNone_iff_eq_none]
        intro h
        rw [h] at hfit
        exact Bool.false_ne_true hfit
      obtain ⟨hwr, hal⟩ := accepted_setG (s := s) (w := s.setMyCore { c with rrhead := (c.rrhead + 1) % 512 })
        (State.me_setMyCore s _) rfl o.d (u64 off)
      exact ⟨_, (exec_rpop hg hk (State.skipPoisoned_stop 256 (.inr hp))).trans (congrArg _ ((if_neg hr).trans (if_neg hno))),
        hwr, hal⟩
    · intro b dc v hw ha hr1 hr2 hb1 hb2 h8 hl1 hl2 hp hwatch
      have hexec := exec_rdec_own hg ha hr1 hr2 hb1 hb2 hl1 hl2 h8 hp hwatch
      refine ⟨fun hv => ?_, fun hv hroom _ hwait => ?_⟩
      · obtain ⟨t, rfl, hwr, hsp, hmem⟩ := rdec_counts s (lsAddr s.cur.1 dc) (v - 1).toNat
        refine ⟨_, hexec.trans (congrArg (fun u => Host.Outcome.next (s.okay u)) (if_neg ?_)), hwr, hsp, ?_, fun x hx => ?_⟩
        · exact fun h => hv (sub_eq_zero.mp h)
        · rw [State.rd, hmem]
          exact (State.rd_wr s _ 8 _).trans (Nat.mod_eq_of_lt (v - 1).isLt)
        · rw [hmem]
          exact Memory.read_writeN_out _ _ _ hx
      · obtain ⟨t, rfl, hres⟩ := rdec_rings (s := s) (a := lsAddr s.cur.1 dc) (v := (v - 1).toNat) s.ip s.me.top2 hroom hwatch
          hb2 hwait
        refine ⟨_, hexec.trans (congrArg (fun u => Host.Outcome.next (s.okay u)) (if_pos ?_)), hres⟩
        exact sub_eq_zero.mpr hv
  · intro o s hg hw off d w h1 h2 hl tm ht
    refine ⟨fun hd hn => ?_, fun hd => ?_, fun hk => ⟨fun hr hn => ?_,
      fun r rest w0 w1 w2 w3 hr hgr hws hwith hgrant => ?_⟩, fun hk r rest n hr hgr hwith hgrant hn => ?_, fun hk => ?_⟩
    · exact unready_of_busy hn ((exec_give hg h1 h2 hl ht).trans (congrArg _ (if_pos hd)))
    · obtain ⟨t, rfl, hres⟩ := give_okay (s := s) (tm := tm) (off := off) hw
      exact ⟨_, (exec_give hg h1 h2 hl ht).trans (congrArg _ (if_neg (Nat.not_le.mpr hd))), hres⟩
    · exact unready_of_refuse (by rw [hn]; decide) rfl rfl rfl (fun _ => rfl)
        (exec_take_none hg hk h1 h2 hl ht (takeRec_none hr))
    · have hexec := exec_take_first hg hk h1 h2 hl ht hr hgr hgrant
      rw [hwith] at hexec
      obtain ⟨t, rfl, hwr, hdisp, hmem⟩ := take_okay (s := s) (off := off) (r := r) (rest := rest) hw
      have hput : (s.take off r rest).mem = Memory.putWords s.mem (lsAddr s.cur.1 off) r.ws :=
        State.putRecord_mem _ (by omega) (by rw [hws, List.length_cons, List.length_cons, List.length_cons, List.length_cons]
                                             simp only [List.length_nil]
                                             omega)
      rw [hput, hws] at hmem
      have hread : ∀ j, (hj : j < 4) → w (s.okay ((s.take off r rest).cores.foldl (fun s1 e =>
          if dieOf e.1 = dieOf s.cur.1 then s1.wakeIf e.1 (· == .busy 1) else s1) (s.take off r rest))) j =
          [w0, w1, w2, w3][j] := fun j hj => by
        show BitVec.ofNat 64 (Memory.readN _ _ 8) = _
        rw [hmem, lsAddr_add (by omega), Memory.readN_putWords _ _ (by exact hj)]
        exact BitVec.ofNat_toNat _ _
      refine ⟨_, hexec, hwr, hdisp, hread 0 (by decide), hread 1 (by decide), hread 2 (by decide), hread 3 (by decide),
        fun b hb => ?_⟩
      rw [hmem]
      exact Memory.read_putWords_out _ _ hb
    · have hexec := exec_take_first hg hk h1 h2 hl ht hr hgr hgrant
      rw [hwith] at hexec
      exact unready_of_refuse (by rw [hn]; decide) rfl rfl rfl (fun _ => rfl) hexec
    · refine State.check_traps (i := .take o) ?_
      show execTake o s = _
      rw [execTake, guarded_true hg]
      exact congrArg _ (if_pos hk)

end Sys2Proof.Machine
end

section

/-!
# Helpers begin

START: its outcomes, the handle it returns, and the state of each helper that it starts (R36, R283, R301).
-/

namespace Sys2Proof.Machine
open Sys2Proof

/-! ### The handle -/

/-- The bits of a handle that name the slots `l`. -/
noncomputable def slotMask (l : List Nat) (m : Nat) : Nat := l.foldl (fun m k => m + 2 ^ (k - 1)) m

theorem testBit_slotMask {l : List Nat} (hl : l.Pairwise (· < ·)) (h1 : ∀ k ∈ l, 1 ≤ k) :
    ∀ {m : Nat}, (∀ k ∈ l, m < 2 ^ (k - 1)) → ∀ i, (slotMask l m).testBit i = (m.testBit i || decide (i + 1 ∈ l)) := by
  induction l with
  | nil => exact fun _ i => by simp [slotMask]
  | cons k l ih =>
    intro m hm i
    obtain ⟨hk, hl⟩ := List.pairwise_cons.mp hl
    have hk1 := h1 k List.mem_cons_self
    have hor : m + 2 ^ (k - 1) = m ||| 2 ^ (k - 1) := (Nat.or_two_pow_eq_add_of_lt (hm k List.mem_cons_self)).symm
    have hlt : ∀ j ∈ l, m + 2 ^ (k - 1) < 2 ^ (j - 1) := fun j hj => by
      have hmk := hm k List.mem_cons_self
      have hpow : 2 ^ (k - 1) + 2 ^ (k - 1) = 2 ^ k := by
        rw [← Nat.two_mul, ← Nat.pow_succ', Nat.succ_eq_add_one, Nat.sub_add_cancel hk1]
      have hle : 2 ^ k ≤ 2 ^ (j - 1) := Nat.pow_le_pow_right (by decide) (Nat.le_sub_one_of_lt (hk j hj))
      omega
    refine (ih hl (fun j hj => h1 j (List.mem_cons_of_mem _ hj)) hlt i).trans ?_
    have hki : k - 1 = i ↔ i + 1 = k := by omega
    rw [hor, Nat.testBit_or, Nat.testBit_two_pow, Bool.or_assoc]
    congr 1
    simp only [List.mem_cons, Bool.decide_or, hki]

theorem slotMask_lt {l : List Nat} (hl : l.Pairwise (· < ·)) (h1 : ∀ k ∈ l, 1 ≤ k) (h10 : ∀ k ∈ l, k ≤ 10) :
    slotMask l 0 < 2 ^ 10 := by
  refine Nat.lt_pow_two_of_testBit _ fun i hi => ?_
  rw [testBit_slotMask hl h1 (fun k _ => Nat.two_pow_pos _), Nat.zero_testBit, Bool.false_or, decide_eq_false_iff_not]
  intro h
  have := h10 _ h
  omega

/-- The handle of the helpers in the slots `l` under the codelet number `cn` (R36). -/
theorem handle_spec {l : List Nat} {cn : Nat} (hl : l.Pairwise (· < ·)) (h1 : ∀ k ∈ l, 1 ≤ k) (h10 : ∀ k ∈ l, k ≤ 10)
    (hcn : cn < 256) : fld (u64 (cn * 65536 + slotMask l 0)).toNat 16 8 = cn ∧
    ∀ k, 1 ≤ k → k ≤ 10 → ((u64 (cn * 65536 + slotMask l 0)).getLsbD (k - 1) = true ↔ k ∈ l) := by
  have hlt := slotMask_lt hl h1 h10
  have hnat : (u64 (cn * 65536 + slotMask l 0)).toNat = cn * 65536 + slotMask l 0 := by
    rw [u64, BitVec.toNat_ofNat]
    omega
  refine ⟨by rw [hnat, fld]; omega, fun k hk1 hk10 => ?_⟩
  rw [BitVec.getLsbD, hnat, Nat.mul_comm, show 65536 = 2 ^ 16 from rfl, Nat.testBit_two_pow_mul_add _ (by omega),
    if_pos (by omega), testBit_slotMask hl h1 (fun k _ => Nat.two_pow_pos _), Nat.zero_testBit, Bool.false_or,
    Nat.sub_add_cancel hk1, decide_eq_true_iff]

/-! ### Slots and ranges (R283) -/

theorem Core.freeSlots_sorted (c : Core) (n : Nat) : (c.freeSlots.take n).Pairwise (· < ·) :=
  (List.pairwise_lt_range.filter _).take

theorem Core.freeSlots_bounds {c : Core} {n k : Nat} (h : k ∈ c.freeSlots.take n) : 1 ≤ k ∧ k ≤ 10 := by
  obtain ⟨hr, hf⟩ := List.mem_filter.mp (List.mem_of_mem_take h)
  have := List.mem_range.mp hr
  simp only [Bool.and_eq_true, bne_iff_ne] at hf
  omega

theorem placeMany_length {need : Need} {n : Nat} {k : Taken} {p : List Ranges × Taken} (h : placeMany need n k = some p) :
    p.1.length = n := by
  induction n generalizing k p with
  | zero =>
    cases h
    rfl
  | succ n ih =>
    rw [placeMany] at h
    cases hone : placeOne need k with
    | none =>
      rw [hone] at h
      exact nomatch h
    | some q =>
      rw [hone] at h
      obtain ⟨q', hq', rfl⟩ := Option.map_eq_some_iff.mp h
      rw [List.length_cons, ih hq']

theorem Core.fit_length {c : Core} {need : Need} {rs : List Ranges} {ss : Range} (h : c.fit need = some (rs, ss)) :
    rs.length = need.slots := by
  rw [Core.fit] at h
  obtain ⟨p, hp, h⟩ := Option.bind_eq_some_iff.mp h
  obtain ⟨q, -, h⟩ := Option.bind_eq_some_iff.mp h
  cases h
  exact placeMany_length hp

/-! ### The helpers of one START -/

/-- What a START gives its helpers: the record's words, and where it draws undefined values from. -/
structure Launch where
  entry : Word
  arg : Word
  user : Word
  off : Nat
  free : Nat
  cn : Nat
  ss : Range

/-- The registers with which helper `j` begins. -/
noncomputable def Launch.regs (l : Launch) (r : Ranges) (j : Nat) : KMap Word :=
  let ls := baseOf r.ls (l.free + 3 * j + 1)
  [(1, l.arg), (2, u64 l.off), (3, l.user), (4, u64 j), (5, u64 ls),
    (6, u64 (if l.ss.2 = 0 then (Config.freeValue (l.free + 3 * j + 2)).toNat % 256 else l.ss.1)), (15, u64 (ls + r.ls.2))]

/-- The core once one helper has begun. -/
noncomputable def Launch.start (l : Launch) (c : Core) (e : (Nat × Ranges) × Nat) : Core :=
  { (c.forget e.1.1).setCtx e.1.1 ((c.ctx e.1.1).begin l.entry (l.regs e.1.2 e.2) e.1.2 l.cn (l.free + 3 * e.2)) with
    vregs := clearTags c.vregs e.1.2.v, tregs := clearTags c.tregs e.1.2.t }

theorem Launch.ctx_start_self (l : Launch) (c : Core) (e : (Nat × Ranges) × Nat) :
    (l.start c e).ctx e.1.1 = (c.ctx e.1.1).begin l.entry (l.regs e.1.2 e.2) e.1.2 l.cn (l.free + 3 * e.2) :=
  Core.ctx_setCtx_self (c.forget e.1.1) _ _

theorem Launch.ctx_start_ne (l : Launch) (c : Core) {e : (Nat × Ranges) × Nat} {k : Nat} (h : k ≠ e.1.1) :
    (l.start c e).ctx k = c.ctx k := Core.ctx_setCtx_ne (c.forget e.1.1) _ h

theorem Launch.ctx_starts_ne (l : Launch) {k : Nat} (es : List ((Nat × Ranges) × Nat)) (c : Core)
    (h : ∀ e ∈ es, k ≠ e.1.1) : (es.foldl l.start c).ctx k = c.ctx k := by
  induction es generalizing c with
  | nil => rfl
  | cons e es ih =>
    rw [List.foldl_cons, ih _ fun x hx => h x (List.mem_cons_of_mem _ hx)]
    exact l.ctx_start_ne c (h e List.mem_cons_self)

theorem Launch.cnum_starts (l : Launch) (es : List ((Nat × Ranges) × Nat)) (c : Core) :
    (es.foldl l.start c).cnum = c.cnum := by
  induction es generalizing c with
  | nil => rfl
  | cons e es ih => exact ih _

/-- Each helper begins with its own record, whatever stood in its slot. -/
theorem Launch.ctx_starts (l : Launch) {es : List ((Nat × Ranges) × Nat)} (hn : (es.map (·.1.1)).Nodup) (c : Core)
    {e : (Nat × Ranges) × Nat} (he : e ∈ es) : ∃ x : Ctx, (es.foldl l.start c).ctx e.1.1 =
      x.begin l.entry (l.regs e.1.2 e.2) e.1.2 l.cn (l.free + 3 * e.2) := by
  induction es generalizing c with
  | nil => exact nomatch he
  | cons f es ih =>
    rw [List.map_cons, List.nodup_cons] at hn
    obtain ⟨hf, hn⟩ := hn
    rw [List.foldl_cons]
    obtain rfl | he := List.mem_cons.mp he
    · rw [l.ctx_starts_ne es _ fun x hx h => hf (List.mem_map.mpr ⟨x, hx, h.symm⟩)]
      exact ⟨_, l.ctx_start_self c e⟩
    · exact ih hn _ he

/-- The registers that a START gives. -/
theorem Launch.reg_begin (l : Launch) (x : Ctx) (r : Ranges) (j : Nat) :
    let y := x.begin l.entry (l.regs r j) r l.cn (l.free + 3 * j)
    y.live = true ∧ y.ip = l.entry ∧ y.reg 1 = l.arg ∧ y.reg 2 = u64 l.off ∧ y.reg 3 = l.user ∧ y.reg 4 = u64 j ∧
      y.mode = false ∧ y.depth = 0 := ⟨rfl, rfl, rfl, rfl, rfl, rfl, rfl, rfl⟩

/-- The launch of the record at `off`. -/
noncomputable def State.helperLaunch (s : State) (off cn : Nat) (ss : Range) : Launch :=
  ⟨BitVec.ofNat 64 (s.recWord off 0), BitVec.ofNat 64 (s.recWord off 1), BitVec.ofNat 64 (s.recWord off 3), off, s.free, cn, ss⟩

/-- The core with the allotment of a START recorded, before the helpers begin. -/
noncomputable def Core.allotted (c : Core) (cn : Nat) (slots : List Nat) (rs : List Ranges) (ss : Range) (told : Nat) : Core :=
  { c with cnum := (cn + 1) % 256, allots := c.allots ++ [allotOf cn slots false rs ss]
           poisonTold := c.poisonTold.filter (· != told) }

/-- The core once the helpers of a START have begun. -/
noncomputable def State.startedCore (s : State) (off cn : Nat) (slots : List Nat) (rs : List Ranges) (ss : Range) : Core :=
  ((slots.zip rs).zipIdx).foldl (s.helperLaunch off cn ss).start
    (s.myCore.allotted cn slots rs ss (fld (s.recWord off 2) 0 20))

theorem State.beginHelpers_eq (s : State) (off cn : Nat) (slots : List Nat) (rs : List Ranges) (ss : Range) :
    s.beginHelpers off cn slots rs ss =
      { s.setMyCore (s.startedCore off cn slots rs ss) with free := s.free + 3 * slots.length } := rfl

theorem keys_zip_zipIdx {slots : List Nat} {rs : List Ranges} (h : rs.length = slots.length) :
    ((slots.zip rs).zipIdx).map (·.1.1) = slots := by
  have hfst : ((slots.zip rs).zipIdx).map Prod.fst = slots.zip rs := List.zipIdx_map_fst 0 _
  have hcomp : ((slots.zip rs).zipIdx).map (·.1.1) = (((slots.zip rs).zipIdx).map Prod.fst).map Prod.fst := by
    rw [List.map_map]
    rfl
  rw [hcomp, hfst]
  exact List.map_fst_zip (by omega)

/-- START reads its record after the ACQ that it includes, which changes no memory. -/
theorem exec_startI {o : EOp} {s : State} (hg : s.guard o.grd = true) (hk : s.cur.2 = 0) (h1 : (s.G o.a).toNat % 32 = 0)
    (h2 : (s.G o.a).toNat < 2 ^ 20) (hl : s.lsLocked (s.G o.a).toNat 32 = false) :
    let off := (s.G o.a).toNat
    let w2 := s.recWord off 2
    let ty := fld w2 20 4
    w2 < 2 ^ 24 → unusedType ty (s.typeOf ty) = false →
    let need := needFor ty (s.typeOf ty).1
    exec (.startI o) s = .next (
      if s.myCore.freeSlots.length < need.slots then s.busyE o 7
      else match s.myCore.fit need with
      | none => s.busyE o 8
      | some (rs, ss) =>
        s.okay ((s.acquire.beginHelpers off s.myCore.cnum (s.myCore.freeSlots.take need.slots) rs ss).setG o.d
          (u64 (s.myCore.cnum * 65536 + slotMask (s.myCore.freeSlots.take need.slots) 0)))) := by
  intro off w2 ty hw hty need
  have hno : ¬ (decide (2 ^ 24 ≤ w2) || unusedType ty (s.typeOf ty)) = true := by
    rw [decide_eq_false (Nat.not_le.mpr hw), hty]
    exact Bool.false_ne_true
  show execStartI o s = _
  rw [execStartI, guarded_true hg]
  dsimp only
  rw [if_neg (not_not.mpr hk), State.withRecord_ok _ h1 h2, hl, if_neg Bool.false_ne_true, if_neg hno]
  rfl

/-- What START leaves once its helpers fit. -/
theorem start_okay {s : State} {d : Spec} {off : Nat} {slots : List Nat} {rs : List Ranges} {ss : Range} (hk : s.cur.2 = 0)
    (hsorted : slots.Pairwise (· < ·)) (hb : ∀ k ∈ slots, 1 ≤ k ∧ k ≤ 10) (hlen : rs.length = slots.length)
    (hcn : s.myCore.cnum < 256) : ∃ t v,
    s.okay ((s.acquire.beginHelpers off s.myCore.cnum slots rs ss).setG d
      (u64 (s.myCore.cnum * 65536 + slotMask slots 0))) = t ∧
    t.mem = s.mem ∧ t.me.reg d = readBack d v ∧ fld v.toNat 16 8 = s.myCore.cnum ∧
    (∀ k, 1 ≤ k → k ≤ 10 → (v.getLsbD (k - 1) = true ↔ k ∈ slots)) ∧
    (∀ r : Spec, r ≠ d → t.me.reg r = s.me.reg r) ∧ t.myCore.cnum = (s.myCore.cnum + 1) % 256 ∧
    ∀ j k, slots[j]? = some k → (t.ctx s.cur.1 k).live = true ∧
      (t.ctx s.cur.1 k).ip = BitVec.ofNat 64 (s.recWord off 0) ∧
      (t.ctx s.cur.1 k).reg 1 = BitVec.ofNat 64 (s.recWord off 1) ∧ (t.ctx s.cur.1 k).reg 2 = BitVec.ofNat 64 off ∧
      (t.ctx s.cur.1 k).reg 3 = BitVec.ofNat 64 (s.recWord off 3) ∧ (t.ctx s.cur.1 k).reg 4 = BitVec.ofNat 64 j ∧
      (t.ctx s.cur.1 k).mode = false ∧ (t.ctx s.cur.1 k).depth = 0 := by
  set es := (slots.zip rs).zipIdx with hes
  set l := s.acquire.helperLaunch off s.myCore.cnum ss with hldef
  set w := s.acquire.beginHelpers off s.myCore.cnum slots rs ss with hw
  have hkeys : es.map (·.1.1) = slots := keys_zip_zipIdx hlen
  have hcore : w.myCore = s.acquire.startedCore off s.myCore.cnum slots rs ss := by
    rw [hw, State.beginHelpers_eq]
    exact State.myCore_setMyCore s.acquire _
  have hctx : ∀ k, w.ctx s.cur.1 k = (s.acquire.startedCore off s.myCore.cnum slots rs ss).ctx k := fun k =>
    congrArg (fun c => c.ctx k) hcore
  have hother : ∀ k, k ∉ slots → w.ctx s.cur.1 k = s.ctx s.cur.1 k := fun k hk => by
    refine (hctx k).trans ((l.ctx_starts_ne es _ fun e he h => hk ?_).trans ?_)
    · rw [← hkeys, h]
      exact List.mem_map.mpr ⟨e, he, rfl⟩
    · show (s.acquire.myCore).ctx k = _
      rw [State.acquire_eq, State.myCore_setMyCore, State.ctx_acquired]
      rfl
  have hme : w.me = s.me := by
    have h0 : (0 : Nat) ∉ slots := fun h => absurd (hb 0 h).1 (by decide)
    have e := hother 0 h0
    rw [← hk] at e
    exact e
  obtain ⟨hwr, hal⟩ := accepted_setG (s := s) (w := w) hme rfl d (u64 (s.myCore.cnum * 65536 + slotMask slots 0))
  obtain ⟨hfld, hbits⟩ := handle_spec hsorted (fun k h => (hb k h).1) (fun k h => (hb k h).2) hcn
  have hcnum := congrArg Core.cnum hal.myCore
  dsimp only at hcnum
  refine ⟨_, _, rfl, hal.mem, hwr.value, hfld, hbits, hwr.others, ?_, fun j k hj => ?_⟩
  · rw [hcnum, hcore]
    exact l.cnum_starts es _
  · have hkm : k ∈ slots := List.mem_of_getElem? hj
    obtain ⟨hjs, hjk⟩ := List.getElem?_eq_some_iff.mp hj
    have hjr : j < rs.length := by omega
    have he : ((k, rs[j]), j) ∈ es := by
      rw [hes]
      refine List.mem_zipIdx_iff_getElem?.mpr ?_
      show (slots.zip rs)[j]? = some (k, rs[j])
      rw [List.getElem?_zip_eq_some]
      exact ⟨hj, List.getElem?_eq_getElem hjr⟩
    have hne : (s.cur.1, k) ≠ w.cur := fun h => by
      have e : k = s.cur.2 := congrArg Prod.snd h
      have := (hb k hkm).1
      omega
    obtain ⟨x, hx⟩ := l.ctx_starts (by rw [hkeys]; exact hsorted.imp Nat.ne_of_lt)
      (s.acquire.myCore.allotted s.myCore.cnum slots rs ss (fld (s.acquire.recWord off 2) 0 20)) he
    have hbegin : (s.okay (w.setG d (u64 (s.myCore.cnum * 65536 + slotMask slots 0)))).ctx s.cur.1 k =
        x.begin l.entry (l.regs rs[j] j) rs[j] l.cn (l.free + 3 * j) :=
      (hal.contexts s.cur.1 k hne).trans ((hctx k).trans hx)
    rw [hbegin]
    exact l.reg_begin x rs[j] j

/-- Settles O33: START's checks and outcomes, and its helpers at their entry. -/
theorem helpersStart : Obligations.HelpersStart := by
  intro o s rs ss hg
  refine ⟨fun hk => ?_, fun hk h1 => ?_, fun hk => ?_⟩
  · refine State.check_traps ?_
    show execStartI o s = _
    rw [execStartI, guarded_true hg]
    exact congrArg _ (if_pos hk)
  · refine State.check_traps ?_
    show execStartI o s = _
    rw [execStartI, guarded_true hg]
    exact congrArg _ ((if_neg (not_not.mpr hk)).trans (if_pos h1))
  · intro off w ty need slots h1 h2 hl hw hty
    have hw2 : (w 2).toNat = s.recWord off 2 := by
      show (BitVec.ofNat 64 _).toNat = _
      rw [BitVec.toNat_ofNat]
      exact Nat.mod_eq_of_lt (Memory.readN_lt _ _ 8)
    have htyeq : fld (s.recWord off 2) 20 4 = ty := by rw [← hw2]; rfl
    have hexec := exec_startI hg hk h1 h2 hl (by rw [← hw2]; exact hw) (by rw [htyeq]; exact hty)
    rw [htyeq] at hexec
    dsimp only at hexec
    refine ⟨fun hno hn => unready_of_busy hn (hexec.trans (congrArg _ (if_pos hno))), fun hslots => ⟨fun hno hn => ?_,
      fun hfit hcn => ?_⟩⟩
    · rw [if_neg (Nat.not_lt.mpr hslots), show s.myCore.fit need = none from hno] at hexec
      exact unready_of_busy hn hexec
    · rw [if_neg (Nat.not_lt.mpr hslots), show s.myCore.fit need = some (rs, ss) from hfit] at hexec
      have hlen : rs.length = slots.length := by
        rw [Core.fit_length hfit]
        exact (List.length_take_of_le hslots).symm
      obtain ⟨t, v, rfl, hmem, hreg, hfld, hbits, hothers, hcnum, hhelp⟩ := start_okay (s := s) (d := o.d) (off := off)
        (ss := ss) hk (s.myCore.freeSlots_sorted need.slots) (fun k h => Core.freeSlots_bounds h) hlen hcn
      exact ⟨_, v, hexec, hmem, hreg, hfld, hbits, hothers, hcnum, hhelp⟩

end Sys2Proof.Machine
end

section
/-! Translations and steps at homes (R90–R117): what they leave, and that they do not look at the cores. -/

namespace Sys2Proof.Machine
open Sys2Proof

/-! ### Translations, with a name for each update of a table -/

/-- The state with other translations. -/
noncomputable def State.withXlates (s : State) (m : KMap Xlate) : State := { s with xlates := m }

/-- The page `key` is asked for (R104). -/
noncomputable def State.asksPage (s : State) (key : Nat) : State := { s with pageIns := setAdd s.pageIns key }

/-- The host is asked for a page (R173). -/
noncomputable def State.asksHost (s : State) (page : Nat) : State := { s with pri := setAdd s.pri page }

/-- The Response Failure of a page has been told (R467). -/
noncomputable def State.failureTold (s : State) (key : Nat) : State := { s with priFailed := setDel s.priFailed key }

/-- A word of a line that is present changes. -/
noncomputable def State.patched (s : State) (e : Nat × Line) (pa v : Nat) : State :=
  { s with lines := s.lines.put e.1 { e.2 with ws := e.2.ws.set (pa / 8 % 8) (BitVec.ofNat 64 v) } }

theorem State.setPhysWord_eq (s : State) (pa v : Nat) : s.setPhysWord pa v = match s.dirtyAt pa with
    | some e => s.patched e pa v
    | none => match List.find? (fun (e : Nat × Line) => e.2.frame == pa / 64 * 64) s.lines with
      | some e => (s.wr (pa / 8 * 8) 8 v).patched e pa v
      | none => s.wr (pa / 8 * 8) 8 v := rfl

/-- A leaf entry with its accessed mark, and its dirty mark for a store. -/
noncomputable def marked (store : Bool) (e : Nat) : Nat := if store then setBit (setBit e 9 true) 8 true else setBit e 9 true

theorem State.touch_eq (s : State) (va : Word) (store : Bool) : s.touch va store = match s.xlates.find? (pageKey 0 va) with
    | some x => if store && !x.d then
        let t := if fld (s.physWord x.leaf) 0 3 = 7 then s.setPhysWord x.leaf (marked store (s.physWord x.leaf)) else s
        t.withXlates (t.xlates.put (pageKey 0 va) { x with d := true })
      else s
    | none => match s.walk va with
      | .leaf pa e _ => if bitAt e 2 && marked store e != e then s.setPhysWord pa (marked store e) else s
      | .fail => s := rfl

theorem State.xlateDev_eq (s : State) (va : Word) (need : Nat) : s.xlateDev va need = match s.xlates.find? (pageKey 0 va) with
    | some x => (s, if hasRights x.rights need then .ok (x.base + va.toNat % 65536) else .fail 0x0B)
    | none => match s.walk va with
      | .fail => (s, .fail 0x0B)
      | .leaf pa e l =>
        if !hasRights (fld e 3 5) need then (s, .fail 0x0B)
        else if !bitAt e 2 then (s.asksPage (pageKey 0 va), .absent)
        else if !s.ownerOk va (fld e 16 24 + fld va.toNat 16 (10 * l)) l then (s, .fail 0x0D)
        else ((s.setPhysWord pa (setBit e 9 true)).withXlates (s.xlates.put (pageKey 0 va)
            ⟨(fld e 16 24 + fld va.toNat 16 (10 * l)) * 65536, fld e 3 5, pa, bitAt e 8⟩),
          .ok ((fld e 16 24 + fld va.toNat 16 (10 * l)) * 65536 + va.toNat % 65536)) := rfl

/-- The rights that the host's answer for a page gives. -/
noncomputable def HostPage.rights (h : HostPage) (need : Nat) : Nat :=
  (if h.read then rR else 0) + (if h.write then rW else 0) + (if h.exec && hasRights need rX then rX else 0) +
    (if h.read && h.write then rA else 0)

/-- What the host's tables answer for a page (R116, R173, R467). -/
noncomputable def State.hostAsked (s : State) (dom : Nat) (va : Word) (need : Nat) : State × Xl :=
  if s.priFailed.contains (pageKey dom va) then (s.failureTold (pageKey dom va), .fail 0x0B)
  else match (s.pasidOf dom).bind fun p => (s.hostPages.find? (hostPageKey p va)).map fun h => (hostPageKey p va, h) with
  | none => (s, .fail 0x0B)
  | some (page, h) =>
    if !h.resident then
      if !s.priOn then (s, .fail 0x0B)
      else if s.pri.contains page || 256 ≤ s.pri.length then (s, .absent)
      else (s.asksHost page, .absent)
    else if !h.read && !h.write then (s, .fail 0x0B)
    else (s.withXlates (s.xlates.put (pageKey dom va) ⟨hostBase + h.hpa / 4096 * 4096, h.rights need, 0, true⟩),
      if hasRights (h.rights need) need then .ok (hostBase + h.hpa / 4096 * 4096 + va.toNat % 4096) else .fail 0x0B)

theorem State.xlateHost_eq (s : State) (dom : Nat) (va : Word) (need : Nat) :
    s.xlateHost dom va need = match s.xlates.find? (pageKey dom va) with
    | some x =>
      if hasRights x.rights need then (s, .ok (x.base + va.toNat % 4096))
      else if hasRights need rX then (s.touch s.qdbase false).hostAsked dom va need else (s, .fail 0x0B)
    | none => (s.touch s.qdbase false).hostAsked dom va need := rfl

/-! ### What a step at a home leaves -/

theorem State.hostAsked_bookkept (s : State) (dom : Nat) (va : Word) (need : Nat) :
    Bookkept s (s.hostAsked dom va need).1 := by
  unfold State.hostAsked
  split
  · exact rfl
  · split
    · exact .refl s
    · split
      · split
        · exact .refl s
        · split
          · exact .refl s
          · exact rfl
      · split
        · exact .refl s
        · exact rfl

theorem State.xlateHost_bookkept (s : State) (dom : Nat) (va : Word) (need : Nat) :
    Bookkept s (s.xlateHost dom va need).1 := by
  have hask := (s.touch_bookkept s.qdbase false).trans (State.hostAsked_bookkept _ dom va need)
  rw [State.xlateHost_eq]
  split
  · split
    · exact .refl s
    · split
      · exact hask
      · exact .refl s
  · exact hask

theorem State.xlateDev_bookkept (s : State) (va : Word) (need : Nat) : Bookkept s (s.xlateDev va need).1 := by
  have hfill : ∀ (t : State) (m : KMap Xlate), Bookkept t (t.withXlates m) := fun _ _ => rfl
  rw [State.xlateDev_eq]
  split
  · exact .refl s
  · split
    · exact .refl s
    · split
      · exact .refl s
      · split
        · exact rfl
        · split
          · exact .refl s
          · exact (s.setPhysWord_bookkept _ _).trans (hfill _ _)

theorem State.xlate_bookkept (s : State) (dom : Nat) (va : Word) (need : Nat) : Bookkept s (s.xlate dom va need).1 := by
  unfold State.xlate
  split
  · exact s.xlateHost_bookkept dom va need
  · split
    · split
      · exact .refl s
      · exact s.xlateDev_bookkept va need
    · exact .refl s

theorem State.refused_bookkept (s : State) (dom : Nat) (va : Word) : Bookkept s (s.refused dom va) :=
  .ite (.refl s) rfl

theorem State.openLine_bookkept (s : State) (dom : Nat) (va : Word) (pa : Nat) : Bookkept s (s.openLine dom va pa).1 := by
  unfold State.openLine
  dsimp only
  split
  · exact rfl
  · exact (s.displace_bookkept _ _).trans rfl

theorem State.closeLine_bookkept (s : State) (dom : Nat) (va : Word) (l : Line) (i mask : Nat) :
    Bookkept s (s.closeLine dom va l i mask) := by
  unfold State.closeLine
  dsimp only
  split
  · exact rfl
  · exact rfl

theorem State.revoke_stirred (s : State) (wk : Nat) : Stirred s (s.revoke wk) := by
  unfold State.revoke
  split
  · next p _ =>
    have hdrop := Stirred.setCore s p ((s.core p).dropWord wk false) (fun _ => rfl) (fun _ _ => rfl) rfl
    exact hdrop.trans (Bookkept.stirred rfl)
  · exact .refl s

/-- A step of a home on the line `l` that it has opened. -/
noncomputable def State.performed (s : State) (dom : Nat) (va : Word) (mask : Nat) (f : Nat → Word → Bool → Bool → OpRes)
    (revoke : OpRes → Bool) (l : Line) : State :=
  let i := va.toNat / 8 % 8
  let wk := wordKey dom va
  let full := bitAt l.fe i
  let r := f (va.toNat % 8) ((l.ws[i]?).getD 0) full (bitAt l.poison i)
  let s := if revoke r then s.revoke wk else s
  let changed := r.full != full
  let s := if r.wrote || changed || r.poison != bitAt l.poison i then
      s.closeLine dom va { l with ws := l.ws.set i r.w, fe := setBit l.fe i r.full,
                                  poison := setBit l.poison i r.poison } i mask
    else s
  let s := if r.wrote && isDevice va then s.touch va true else s
  let s := if changed then s.wakeWord wk r.full else s
  if r.wrote || changed then s.wakeLine (wk / 8) else s

theorem State.homeStep_eq (s : State) (dom : Nat) (va : Word) (need mask : Nat) (f : Nat → Word → Bool → Bool → OpRes)
    (g : OpRes → Bool) : s.homeStep dom va need mask f g = match s.xlate dom va need with
      | (t, .absent) => (t.refused dom va, .absent)
      | (t, .fail c) => (t.refused dom va, .fault c)
      | (t, .ok pa) =>
        let l := (t.openLine dom va pa).2
        ((t.openLine dom va pa).1.performed dom va mask f g l, .done (f (va.toNat % 8) ((l.ws[va.toNat / 8 % 8]?).getD 0)
          (bitAt l.fe (va.toNat / 8 % 8)) (bitAt l.poison (va.toNat / 8 % 8))).res) := rfl

theorem State.performed_stirred (s : State) (dom : Nat) (va : Word) (mask : Nat) (f : Nat → Word → Bool → Bool → OpRes)
    (g : OpRes → Bool) (l : Line) : Stirred s (s.performed dom va mask f g l) := by
  have hif : ∀ (b : Bool) {u v : State}, Stirred u v → Stirred u (if b = true then v else u) := fun b _ _ h => by
    cases b
    · exact .refl _
    · exact h
  exact ((((hif _ (State.revoke_stirred _ _)).trans (hif _ (State.closeLine_bookkept _ _ _ _ _ _).stirred)).trans
    (hif _ (State.touch_stirred _ _ _))).trans (hif _ (State.wakeWord_stirred _ _ _))).trans (hif _ (State.wakeLine_stirred _ _))

theorem State.homeStep_stirred (s : State) (dom : Nat) (va : Word) (need mask : Nat)
    (f : Nat → Word → Bool → Bool → OpRes) (g : OpRes → Bool) : Stirred s (s.homeStep dom va need mask f g).1 := by
  have hx := (s.xlate_bookkept dom va need).stirred
  rw [State.homeStep_eq]
  split
  · next t h =>
    rw [h] at hx
    exact hx.trans (t.refused_bookkept dom va).stirred
  · next t c h =>
    rw [h] at hx
    exact hx.trans (t.refused_bookkept dom va).stirred
  · next t pa h =>
    rw [h] at hx
    exact (hx.trans (t.openLine_bookkept dom va pa).stirred).trans (State.performed_stirred _ _ _ _ _ _ _)

/-! ### Translation does not look at the cores -/

/-- The state with other cores. -/
noncomputable def State.withCores (s : State) (c : KMap Core) : State := { s with cores := c }

theorem State.walk_withCores (s : State) (c : KMap Core) (va : Word) : (s.withCores c).walk va = s.walk va := rfl

theorem State.pasidOf_withCores (s : State) (c : KMap Core) (dom : Nat) : (s.withCores c).pasidOf dom = s.pasidOf dom := by
  have hd : ∀ q w, (s.withCores c).desc q w = s.desc q w := fun q w => by
    simp only [State.desc, State.rawRead, State.rawAddr, State.walk_withCores]
    rfl
  simp only [State.pasidOf, State.qState, hd]

theorem State.setPhysWord_withCores (s : State) (c : KMap Core) (pa v : Nat) :
    (s.withCores c).setPhysWord pa v = (s.setPhysWord pa v).withCores c := by
  have hd : (s.withCores c).dirtyAt pa = s.dirtyAt pa := rfl
  have hl : (s.withCores c).lines = s.lines := rfl
  rw [State.setPhysWord_eq, State.setPhysWord_eq, hd, hl]
  split
  · rfl
  · split
    · rfl
    · rfl

theorem State.touch_withCores (s : State) (c : KMap Core) (va : Word) (b : Bool) :
    (s.withCores c).touch va b = (s.touch va b).withCores c := by
  have hx : (s.withCores c).xlates = s.xlates := rfl
  have hp : ∀ pa, (s.withCores c).physWord pa = s.physWord pa := fun _ => rfl
  simp only [State.touch_eq, s.walk_withCores, hx, hp, s.setPhysWord_withCores]
  split
  · split
    · split
      · rfl
      · rfl
    · rfl
  · split
    · split
      · rfl
      · rfl
    · rfl

theorem State.hostAsked_withCores (s : State) (c : KMap Core) (dom : Nat) (va : Word) (need : Nat) :
    ((s.withCores c).hostAsked dom va need).2 = (s.hostAsked dom va need).2 := by
  have h1 : (s.withCores c).priFailed = s.priFailed := rfl
  have h2 : (s.withCores c).hostPages = s.hostPages := rfl
  have h3 : (s.withCores c).priOn = s.priOn := rfl
  have h4 : (s.withCores c).pri = s.pri := rfl
  rw [State.hostAsked, State.hostAsked, h1, h2, h3, h4, s.pasidOf_withCores]
  split
  · rfl
  · split
    · rfl
    · split
      · split
        · rfl
        · split
          · rfl
          · rfl
      · split
        · rfl
        · rfl

theorem State.xlateDev_withCores (s : State) (c : KMap Core) (va : Word) (need : Nat) :
    ((s.withCores c).xlateDev va need).2 = (s.xlateDev va need).2 := by
  have hx : (s.withCores c).xlates = s.xlates := rfl
  have ho : ∀ frame level, (s.withCores c).ownerOk va frame level = s.ownerOk va frame level := fun _ _ => rfl
  simp only [State.xlateDev_eq, hx, s.walk_withCores, ho]
  split
  · rfl
  · split
    · rfl
    · split
      · rfl
      · split
        · rfl
        · split
          · rfl
          · rfl

/-- What a translation answers does not depend on the cores. -/
theorem State.xlate_withCores (s : State) (c : KMap Core) (dom : Nat) (va : Word) (need : Nat) :
    ((s.withCores c).xlate dom va need).2 = (s.xlate dom va need).2 := by
  have hx : (s.withCores c).lines = s.lines := rfl
  have hy : (s.withCores c).xlates = s.xlates := rfl
  have ht : (s.withCores c).touch (s.withCores c).qdbase false = (s.touch s.qdbase false).withCores c :=
    s.touch_withCores c _ _
  have hl : (s.withCores c).leafRights va = s.leafRights va := by
    rw [State.leafRights, State.walk_withCores]
    rfl
  unfold State.xlate
  rw [hx, State.xlateHost_eq, State.xlateHost_eq, hy, ht]
  split
  · split
    · split
      · rfl
      · split
        · exact State.hostAsked_withCores _ c dom va need
        · rfl
    · exact State.hostAsked_withCores _ c dom va need
  · split
    · split
      · rw [hl]
      · exact s.xlateDev_withCores c va need
    · rfl

end Sys2Proof.Machine
end

section
/-! O51: copy records complete or stop, follow-on images are offered, event records are posted (R184, R185, R361, R366,
R368). -/

namespace Sys2Proof.Machine
open Sys2Proof

/-! ### The release of a record's locks (R184) -/

/-- What the release of locks leaves: every semaphore, and of each context all but its wait. -/
structure Unlocked (s t : State) : Prop where
  locks : ∀ q, ∀ l ∈ (t.core q).locks, l ∈ (s.core q).locks
  cores : ∀ q, (t.core q).sems = (s.core q).sems ∧ (t.core q).semWait = (s.core q).semWait ∧
    (t.core q).finishing = (s.core q).finishing
  contexts : ∀ q k, (t.ctx q k).still = (s.ctx q k).still
  machine : t = s.withCores t.cores

namespace Unlocked

theorem refl (s : State) : Unlocked s s := ⟨fun _ _ h => h, fun _ => ⟨rfl, rfl, rfl⟩, fun _ _ => rfl, rfl⟩

theorem trans {s t u : State} (h1 : Unlocked s t) (h2 : Unlocked t u) : Unlocked s u where
  locks := fun q l h => h1.locks q l (h2.locks q l h)
  cores := fun q => by
    obtain ⟨a, b, c⟩ := h1.cores q
    obtain ⟨a', b', c'⟩ := h2.cores q
    exact ⟨a'.trans a, b'.trans b, c'.trans c⟩
  contexts := fun q k => (h2.contexts q k).trans (h1.contexts q k)
  machine := by
    have e := h2.machine
    rw [h1.machine] at e
    exact e

theorem setCore {s : State} {p : Nat} {c : Core} (hc : c.ctxs = (s.core p).ctxs)
    (hl : ∀ l ∈ c.locks, l ∈ (s.core p).locks) (hk : c.sems = (s.core p).sems ∧ c.semWait = (s.core p).semWait ∧
      c.finishing = (s.core p).finishing) : Unlocked s (s.setCore p c) where
  locks := fun q l h => by
    by_cases hq : q = p
    · subst hq
      rw [State.core_setCore_self] at h
      exact hl l h
    · rwa [State.core_setCore_ne _ _ hq] at h
  cores := fun q => by
    by_cases hq : q = p
    · subst hq
      rw [State.core_setCore_self]
      exact hk
    · rw [State.core_setCore_ne _ _ hq]
      exact ⟨rfl, rfl, rfl⟩
  contexts := fun q k => by rw [State.ctx_setCore_same s hc]
  machine := rfl

theorem wakeIf {f : WaitOn → Bool} (hf : ∀ w, f w = true → w.plain = true) (s : State) (p : Nat) :
    Unlocked s (s.wakeIf p f) := by
  obtain ⟨hcores, hmachine⟩ := (State.ctx_wakeIf hf s p).1
  refine ⟨fun q l h => ?_, fun q => ?_, (s.wakeIf_stirred p f).contexts, hmachine⟩
  · rwa [show ((s.wakeIf p f).core q).locks = (s.core q).locks from
      (congrArg Core.locks (hcores q) : ({ (s.wakeIf p f).core q with ctxs := [] } : Core).locks = _)] at h
  · exact ⟨(congrArg Core.sems (hcores q) : ({ (s.wakeIf p f).core q with ctxs := [] } : Core).sems = _),
      (congrArg Core.semWait (hcores q) : ({ (s.wakeIf p f).core q with ctxs := [] } : Core).semWait = _),
      (congrArg Core.finishing (hcores q) : ({ (s.wakeIf p f).core q with ctxs := [] } : Core).finishing = _)⟩

/-- The release of the locks of a core that meet `f`. -/
theorem freed (s : State) (p : Nat) (f : Lock → Bool) : Unlocked s ((s.setCore p ((s.core p).dropLocks f)).locksFreed p) ∧
    ∀ l ∈ (((s.setCore p ((s.core p).dropLocks f)).locksFreed p).core p).locks, f l.2 = false := by
  have hlocks : ((s.core p).dropLocks f).reap.locks = (s.core p).locks.filter fun e => !f e.2 := rfl
  have hset : Unlocked s (s.setCore p ((s.core p).dropLocks f).reap) := .setCore rfl (fun l hl => by
    rw [hlocks] at hl
    exact List.mem_of_mem_filter hl) ⟨rfl, rfl, rfl⟩
  have hwake := Unlocked.wakeIf (f := fun w => w == .busy 4 || w == .parkLock || w == .busy 10 || w == .busy 7 || w == .busy 8)
    (fun w h => by
      simp only [Bool.or_eq_true, beq_iff_eq] at h
      obtain (((rfl | rfl) | rfl) | rfl) | rfl := h
      all_goals rfl) (s.setCore p ((s.core p).dropLocks f).reap) p
  rw [State.locksFreed_eq, State.core_setCore_self, State.setCore_setCore]
  refine ⟨hset.trans hwake, fun l hl => ?_⟩
  have h := hwake.locks p l hl
  rw [State.core_setCore_self, hlocks, List.mem_filter] at h
  simpa using h.2

end Unlocked

/-- The record whose locks `l` are. -/
noncomputable def holds (h num : Nat) (l : Lock) : Bool := l.kind == 2 && l.owner == recKey h num

/-- The release of a record's locks on the core of one entry. -/
noncomputable def State.dropAt (h num : Nat) (s : State) (e : Nat × Core) : State :=
  if e.2.locks.any fun l => holds h num l.2 then
    (s.setCore e.1 ((s.core e.1).dropLocks (holds h num))).locksFreed e.1
  else s

theorem State.dropRecord_eq (s : State) (h num : Nat) : s.dropRecord h num = s.cores.foldl (State.dropAt h num) s := rfl

theorem State.dropAt_unlocked (h num : Nat) (s : State) (e : Nat × Core) : Unlocked s (State.dropAt h num s e) := by
  rw [State.dropAt]
  split
  · exact (Unlocked.freed s e.1 _).1
  · exact .refl s

theorem State.drops_unlocked (h num : Nat) (l : List (Nat × Core)) (s : State) :
    Unlocked s (l.foldl (State.dropAt h num) s) ∧ ∀ e ∈ l, (e.2.locks.any fun x => holds h num x.2) = true →
      ∀ x ∈ ((l.foldl (State.dropAt h num) s).core e.1).locks, holds h num x.2 = false := by
  induction l generalizing s with
  | nil => exact ⟨.refl s, fun e he => nomatch he⟩
  | cons a l ih =>
    obtain ⟨hl, hdone⟩ := ih (State.dropAt h num s a)
    refine ⟨(s.dropAt_unlocked h num a).trans hl, fun e he hany x hx => ?_⟩
    obtain rfl | he := List.mem_cons.mp he
    · have hfirst := (Unlocked.freed s e.1 (holds h num)).2
      refine hfirst x ?_
      have hx' := hl.locks e.1 x hx
      rwa [State.dropAt, if_pos hany] at hx'
    · exact hdone e he hany x hx

/-- A record that is dropped leaves no lock on any core, and nothing else changes but waits. -/
theorem State.dropRecord_unlocked (s : State) (h num : Nat) : Unlocked s (s.dropRecord h num) ∧
    ∀ q, ∀ l ∈ ((s.dropRecord h num).core q).locks, ¬ (l.2.kind = 2 ∧ l.2.owner = recKey h num) := by
  obtain ⟨hun, hdone⟩ := State.drops_unlocked h num s.cores s
  rw [← s.dropRecord_eq] at hun hdone
  refine ⟨hun, fun q l hl hmine => ?_⟩
  have hholds : holds h num l.2 = true := by simp [holds, hmine]
  have hold := hun.locks q l hl
  cases hq : s.cores.find? q with
  | none =>
    rw [show s.core q = {} from (congrArg (fun o : Option Core => o.getD {}) hq : _)] at hold
    exact nomatch hold
  | some c =>
    have hc : s.core q = c := (congrArg (fun o : Option Core => o.getD {}) hq : _)
    rw [hc] at hold
    have hany : (c.locks.any fun x => holds h num x.2) = true := List.any_eq_true.mpr ⟨l, hold, hholds⟩
    rw [hdone (q, c) (mem_of_find? hq) hany l hl] at hholds
    exact Bool.false_ne_true hholds

end Sys2Proof.Machine
end

section
namespace Sys2Proof.Machine
open Sys2Proof

/-! ### The end of a record (R184, R185) -/

/-- What the steps at the end of a record leave: the locks are some of those that were, and of chains all but the run. -/
structure Carried (s t : State) : Prop where
  locks : ∀ q, ∀ l ∈ (t.core q).locks, l ∈ (s.core q).locks
  chains : ∀ h, (t.chain h).still = (s.chain h).still
  teams : t.teams = s.teams

/-- Every count, and everyone who waits for one. -/
noncomputable def SemsKept (s t : State) : Prop := ∀ q, (t.core q).sems = (s.core q).sems ∧ (t.core q).semWait = (s.core q).semWait

theorem SemsKept.trans {s t u : State} (h1 : SemsKept s t) (h2 : SemsKept t u) : SemsKept s u := fun q => by
  obtain ⟨a, b⟩ := h1 q
  obtain ⟨a', b'⟩ := h2 q
  exact ⟨a'.trans a, b'.trans b⟩

theorem chainCore_congr {s t : State} {h : Nat} (ht : (t.chain h).team = (s.chain h).team) (hr : (t.chain h).rank = (s.chain h).rank)
    (hm : t.teams = s.teams) : t.chainCore h = s.chainCore h := by
  simp only [State.chainCore, ht, hr, hm]

theorem chainCore_setChain (s : State) {h : Nat} {x : Chain} (ht : x.team = (s.chain h).team) (hr : x.rank = (s.chain h).rank) :
    (s.setChain h x).chainCore h = s.chainCore h :=
  chainCore_congr (by rw [State.chain_setChain_self, ht]) (by rw [State.chain_setChain_self, hr]) rfl

namespace Carried

variable {s t u : State}

theorem refl (s : State) : Carried s s := ⟨fun _ _ h => h, fun _ => rfl, rfl⟩

theorem trans (h1 : Carried s t) (h2 : Carried t u) : Carried s u :=
  ⟨fun q l hl => h1.locks q l (h2.locks q l hl), fun h => (h2.chains h).trans (h1.chains h), h2.teams.trans h1.teams⟩

theorem foldl {α : Type} {f : State → α → State} (hf : ∀ s a, Carried s (f s a)) (l : List α) (s : State) :
    Carried s (l.foldl f s) := by
  induction l generalizing s with
  | nil => exact refl s
  | cons a l ih => exact (hf s a).trans (ih _)

theorem of_unlocked (hu : Unlocked s t) : Carried s t := by
  have hm := hu.machine
  exact ⟨hu.locks, fun h => by rw [hm]; rfl, by rw [hm]; rfl⟩

theorem of_stirred (hs : Stirred s t) : Carried s t where
  locks := fun q l hl => by rwa [show (t.core q).locks = _ from (congrArg Core.locks (hs.cores q) : (t.core q).calm.locks = _)] at hl
  chains := hs.chains
  teams := hs.teams

theorem chainCore (hc : Carried s t) (h : Nat) : t.chainCore h = s.chainCore h :=
  chainCore_congr (congrArg Chain.team (hc.chains h) : (t.chain h).still.team = _)
    (congrArg Chain.rank (hc.chains h) : (t.chain h).still.rank = _) hc.teams

theorem recs (hc : Carried s t) (h : Nat) : (t.chain h).recs = (s.chain h).recs :=
  (congrArg Chain.recs (hc.chains h) : (t.chain h).still.recs = _)

theorem delivered (hc : Carried s t) (h : Nat) : (t.chain h).delivered = (s.chain h).delivered :=
  (congrArg Chain.delivered (hc.chains h) : (t.chain h).still.delivered = _)

theorem setCore {p : Nat} {c : Core} (hl : c.locks = (s.core p).locks) : Carried s (s.setCore p c) where
  locks := fun q l h => by
    by_cases hq : q = p
    · rwa [hq, State.core_setCore_self, hl, ← hq] at h
    · rwa [State.core_setCore_ne _ _ hq] at h
  chains := fun _ => rfl
  teams := rfl

end Carried

theorem Unlocked.semsKept {s t : State} (h : Unlocked s t) : SemsKept s t := fun q => ⟨(h.cores q).1, (h.cores q).2.1⟩

theorem Stirred.semsKept {s t : State} (h : Stirred s t) : SemsKept s t := fun q =>
  ⟨(congrArg Core.sems (h.cores q) : (t.core q).calm.sems = _), (congrArg Core.semWait (h.cores q) : (t.core q).calm.semWait = _)⟩

theorem State.homeStep_absent {s : State} {dom : Nat} {va : Word} {need mask : Nat} {f : Nat → Word → Bool → Bool → OpRes}
    {g : OpRes → Bool} (h : (s.homeStep dom va need mask f g).2 = .absent) : (s.xlate dom va need).2 = .absent := by
  rw [State.homeStep_eq] at h
  split at h
  · next hx => rw [hx]
  · exact nomatch h
  · exact nomatch h

/-- The write of a number at an aligned address is a step of the home. -/
theorem State.homeWrite_aligned (s : State) (dom : Nat) {va : Word} (v : Word) (h : va.toNat % 8 = 0) :
    s.homeWrite dom va v 255 none false =
      s.homeStep dom va rW 255 (opEval (.put v 255 none false)) (opRevokes (.put v 255 none false)) := by
  have hva : va - BitVec.ofNat 64 (va.toNat % 8) = va := by rw [h]; exact BitVec.sub_zero va
  rw [State.homeWrite, hva]
  rfl

theorem deliver_plain (h : Nat) (w : WaitOn) (hw : (w == .seq h || w == .busy 1) = true) : w.plain = true := by
  simp only [Bool.or_eq_true, beq_iff_eq] at hw
  obtain rfl | rfl := hw
  · rfl
  · rfl

theorem State.deliverSeq_eq {s : State} {h p : Nat} (num : Nat) (hp : s.chainCore h = some p) : s.deliverSeq h num =
    (s.setChain h { s.chain h with delivered := num }).wakeIf p fun w => w == .seq h || w == .busy 1 := by
  have hc : (s.setChain h { s.chain h with delivered := num }).chainCore h = s.chainCore h := chainCore_setChain s rfl rfl
  rw [State.deliverSeq]
  dsimp only
  rw [hc, hp]

/-- The offers of a record, whose locks are gone, hold none. -/
noncomputable def State.offersFreed (s : State) (h num : Nat) : State :=
  { s with offers := s.offers.map fun o => if o.chain == h && o.rc.num == num then { o with locked := false } else o }

theorem State.offersFreed_none {s : State} (h num : Nat) (ho : s.offers = []) : s.offersFreed h num = s := by
  rw [State.offersFreed, ho, List.map_nil, ← ho]

theorem State.completeRecord_eq {s : State} (h : Nat) (r : Run) (ho : s.offers = []) : s.completeRecord h r =
    let d := (s.dropRecord h r.rc.num).offersFreed h r.rc.num
    match d.homeWrite r.rc.dom (d.chain h).seqVa (BitVec.ofNat 64 r.rc.num) 255 none false with
    | (u, .absent) => (u, false)
    | (u, _) => (u.deliverSeq h r.rc.num, true) := by
  unfold State.completeRecord
  rw [ho]
  rfl

/-- A record without offers: its locks go, its number is written, and the number is delivered. -/
theorem State.completeRecord_delivers {s : State} {h p : Nat} {r : Run} (ho : s.offers = []) (hp : s.chainCore h = some p)
    (ha : (s.chain h).seqVa.toNat % 8 = 0) (hx : ∀ u, s.xlate r.rc.dom (s.chain h).seqVa rW ≠ (u, .absent)) :
    ∃ v, s.completeRecord h r = (v, true) ∧ SemsKept s v ∧ v.chainCore h = some p ∧ (v.chain h).recs = (s.chain h).recs ∧
      (v.chain h).delivered = r.rc.num ∧ ∀ q, ∀ l ∈ (v.core q).locks, ¬ (l.2.kind = 2 ∧ l.2.owner = recKey h r.rc.num) := by
  obtain ⟨hun, hfree⟩ := s.dropRecord_unlocked h r.rc.num
  set d := s.dropRecord h r.rc.num with hd
  have hdo : d.offers = [] := by rw [hun.machine]; exact ho
  have hdc : d.chain h = s.chain h := by rw [hun.machine]; rfl
  set e := d.homeStep r.rc.dom (s.chain h).seqVa rW 255 (opEval (.put (BitVec.ofNat 64 r.rc.num) 255 none false))
    (opRevokes (.put (BitVec.ofNat 64 r.rc.num) 255 none false)) with he
  have hst : Stirred d e.1 := d.homeStep_stirred _ _ _ _ _ _
  have hne : e.2 ≠ .absent := fun habs => by
    have h1 := State.homeStep_absent habs
    rw [hun.machine, State.xlate_withCores] at h1
    exact hx (s.xlate r.rc.dom (s.chain h).seqVa rW).1 (Prod.ext rfl h1)
  have hce : Carried s e.1 := (Carried.of_unlocked hun).trans (.of_stirred hst)
  have hep := (hce.chainCore h).trans hp
  set x : Chain := { e.1.chain h with delivered := r.rc.num } with hxd
  have hself : (e.1.setChain h x).chain h = x := State.chain_setChain_self _ _ _
  have hwake := Unlocked.wakeIf (deliver_plain h) (e.1.setChain h x) p
  rw [← State.deliverSeq_eq r.rc.num hep] at hwake
  have hcw := Carried.of_unlocked hwake
  refine ⟨e.1.deliverSeq h r.rc.num, ?_, ?_, ?_, ?_, ?_, fun q l hl => ?_⟩
  · rw [State.completeRecord_eq h r ho, ← hd, State.offersFreed_none h _ hdo]
    dsimp only
    rw [hdc, State.homeWrite_aligned _ _ _ ha, ← he]
    obtain ⟨e1, e2⟩ := e
    cases e2
    · rfl
    · exact absurd rfl hne
    · rfl
  · exact (hun.semsKept.trans hst.semsKept).trans (hwake.semsKept : SemsKept e.1 _)
  · exact (hcw.chainCore h).trans ((chainCore_setChain (x := x) e.1 rfl rfl).trans hep)
  · rw [hcw.recs, hself, ← hce.recs]
  · rw [hcw.delivered, hself]
  · exact hfree q l ((Carried.of_stirred hst).locks q l (hwake.locks q l hl))

/-- A core whose semaphore `i` stands at `v` while `keep` wait for it. -/
noncomputable def Core.counted (c : Core) (i v : Nat) (keep : List SemWaiter) : Core :=
  { c with sems := c.sems.put i v, semWait := c.semWait.put i keep }

/-- The wake of one who waits for a semaphore (R289, R359). -/
noncomputable def State.semWoken (p i v n : Nat) (s : State) (w : SemWaiter) : State :=
  match w.ctx with
  | some k => (s.wake p k).setCtx p k { (s.wake p k).ctx p k with front := true }
  | none =>
    let t := s.setChain w.chain { s.chain w.chain with semMet := true, semAsked := false }
    if w.dec then t.setSem p i (v - w.thr) n else t

theorem State.setSem_succ (s : State) (p i v n : Nat) : s.setSem p i v (n + 1) =
    (walkSem v ((s.core p).semWait.get i [])).1.foldl (State.semWoken p i v n)
      (s.setCore p ((s.core p).counted i v (walkSem v ((s.core p).semWait.get i [])).2)) := rfl

theorem State.setSem_idle {s : State} {p i : Nat} (h : (s.core p).semWait.get i [] = []) (v n : Nat) :
    s.setSem p i v (n + 1) = s.setCore p ((s.core p).counted i v []) := by
  rw [State.setSem_succ, h]
  rfl

/-- A state whose count of semaphore `i` of core `p` is `v`, where locks, chains, teams and the other counts are those of
`s`. -/
structure Counted (s t : State) (p i v : Nat) : Prop where
  count : (t.core p).sems.get i 0 = v
  others : ∀ j, j ≠ i → (t.core p).sems.get j 0 = (s.core p).sems.get j 0
  locks : ∀ q, (t.core q).locks = (s.core q).locks
  chains : t.chains = s.chains
  teams : t.teams = s.teams

theorem Counted.setCore {s : State} {p i v : Nat} {c : Core} (hl : c.locks = (s.core p).locks) (hv : c.sems.get i 0 = v)
    (ho : ∀ j, j ≠ i → c.sems.get j 0 = (s.core p).sems.get j 0) : Counted s (s.setCore p c) p i v where
  count := by rw [State.core_setCore_self, hv]
  others := fun j hj => by rw [State.core_setCore_self, ho j hj]
  locks := fun q => by
    by_cases hq : q = p
    · rw [hq, State.core_setCore_self, hl]
    · rw [State.core_setCore_ne _ _ hq]
  chains := rfl
  teams := rfl

/-- A core that counts a saturated signal. -/
noncomputable def Core.saturated (c : Core) : Core := { c with semsat := min (c.semsat + 1) 65535 }

theorem State.signal_eq (s : State) (p i inc : Nat) : s.signal p i inc =
    if min ((s.core p).sems.get i 0 + inc) 65535 = (s.core p).sems.get i 0 then
      (if 65535 < (s.core p).sems.get i 0 + inc then s.setCore p (s.core p).saturated else s)
    else (if 65535 < (s.core p).sems.get i 0 + inc then s.setCore p (s.core p).saturated else s).setSem p i
      (min ((s.core p).sems.get i 0 + inc) 65535) 64 := rfl

/-- A signal of a semaphore for which nobody waits. -/
theorem State.signal_idle {s : State} {p i inc : Nat} (h : (s.core p).semWait.get i [] = []) :
    Counted s (s.signal p i inc) p i (min ((s.core p).sems.get i 0 + inc) 65535) := by
  have hput : ∀ (c : Core) v, c.sems = (s.core p).sems → c.locks = (s.core p).locks →
      Counted s (s.setCore p (c.counted i v [])) p i v := fun c v hc hl =>
    .setCore hl (KMap.get_put_self _ _ _ _) fun j hj => by
      rw [← hc]
      exact KMap.get_put_ne _ _ _ hj
  have hcore : (s.setCore p (s.core p).saturated).core p = (s.core p).saturated := State.core_setCore_self _ _ _
  rw [State.signal_eq]
  split
  · next hsame =>
    split
    · exact .setCore rfl hsame.symm fun _ _ => rfl
    · exact ⟨hsame.symm, fun _ _ => rfl, fun _ => rfl, rfl, rfl⟩
  · split
    · rw [State.setSem_idle (by rw [hcore]; exact h), hcore, State.setCore_setCore]
      exact hput _ _ rfl rfl
    · rw [State.setSem_idle h]
      exact hput _ _ rfl rfl

/-- A signal, whoever waits. -/
theorem State.setSem_carried (p i n : Nat) (s : State) (v : Nat) : Carried s (s.setSem p i v n) := by
  induction n generalizing s v with
  | zero => exact .setCore rfl
  | succ n ih =>
    rw [State.setSem_succ]
    refine Carried.trans (Carried.setCore (c := (s.core p).counted i v _) rfl) (Carried.foldl (fun u w => ?_) _ _)
    rw [State.semWoken]
    split
    · exact (Carried.of_stirred (u.wake_stirred p _)).trans (.setCore rfl)
    · have hset : Carried u (u.setChain w.chain { u.chain w.chain with semMet := true, semAsked := false }) :=
        .of_stirred (u.setChain_stirred _ _ rfl id)
      dsimp only
      split
      · exact hset.trans (ih _ _)
      · exact hset

theorem State.signal_carried (s : State) (p i inc : Nat) : Carried s (s.signal p i inc) := by
  have hsat : Carried s (if 65535 < (s.core p).sems.get i 0 + inc then s.setCore p (s.core p).saturated else s) := by
    split
    · exact .setCore rfl
    · exact .refl s
  rw [State.signal_eq]
  split
  · exact hsat
  · exact hsat.trans (State.setSem_carried _ _ _ _ _)

/-- The signal at the end of a record (R184). -/
noncomputable def State.recordSignal (s : State) (h : Nat) (r : Run) : State :=
  if rSidecar r.ws || rSinc r.ws = 0 then s
  else if rSigd r.ws then (s.destCores h r.ws).foldl (fun s p => s.signal p (rSsem r.ws) (rSinc r.ws)) s
  else match s.chainCore h with
    | some p => s.signal p (rSsem r.ws) (rSinc r.ws)
    | none => s

theorem State.recordSignal_carried (s : State) (h : Nat) (r : Run) : Carried s (s.recordSignal h r) := by
  rw [State.recordSignal]
  split
  · exact .refl s
  · split
    · exact .foldl (fun u p => u.signal_carried p _ _) _ s
    · split
      · exact s.signal_carried _ _ _
      · exact .refl s

/-- The engine leaves the record (R184). -/
noncomputable def Chain.left (x : Chain) : Chain := { x with run := none, recs := x.recs.tail }

theorem chainCore_left (s : State) (h : Nat) : (s.setChain h (s.chain h).left).chainCore h = s.chainCore h :=
  chainCore_setChain s rfl rfl

theorem State.signalRecord_eq {s : State} {h p : Nat} {r : Run} (hp : s.chainCore h = some p) : s.signalRecord h r =
    ((s.recordSignal h r).setChain h ((s.recordSignal h r).chain h).left).wakeIf p fun w => w == .busy 1 := by
  have hc := (chainCore_left (s.recordSignal h r) h).trans (((s.recordSignal_carried h r).chainCore h).trans hp)
  set u := (s.recordSignal h r).setChain h ((s.recordSignal h r).chain h).left with hu
  show (match u.chainCore h with
    | some p => u.wakeIf p fun w => w == WaitOn.busy 1
    | none => u) = _
  rw [hc]

/-- The engine signals and leaves the record. -/
theorem State.signalRecord_leaves {s : State} {h p : Nat} (r : Run) (hp : s.chainCore h = some p) : ∃ t,
    s.signalRecord h r = t ∧ (t.chain h).run = none ∧ (t.chain h).recs = (s.chain h).recs.tail ∧
      (t.chain h).delivered = (s.chain h).delivered ∧ (∀ q, ∀ l ∈ (t.core q).locks, l ∈ (s.core q).locks) ∧
      SemsKept (s.recordSignal h r) t := by
  have hsig := s.recordSignal_carried h r
  have hwake := Unlocked.wakeIf busyOne_plain ((s.recordSignal h r).setChain h ((s.recordSignal h r).chain h).left) p
  rw [← State.signalRecord_eq hp] at hwake
  have hc : (s.signalRecord h r).chain h = ((s.recordSignal h r).chain h).left := by
    rw [hwake.machine]
    exact State.chain_setChain_self _ _ _
  refine ⟨_, rfl, ?_, ?_, ?_, fun q l hl => hsig.locks q l (hwake.locks q l hl), hwake.semsKept⟩
  · rw [hc]
    rfl
  · rw [hc, ← hsig.recs]
    rfl
  · rw [hc, ← hsig.delivered]
    rfl

/-- Who signals a semaphore for which nobody waits. -/
theorem State.recordSignal_idle {s : State} {h p : Nat} {r : Run} (hp : s.chainCore h = some p) (h1 : rSidecar r.ws = false)
    (h2 : rSinc r.ws ≠ 0) (h3 : rSigd r.ws = false) (h4 : (s.core p).semWait.get (rSsem r.ws) [] = []) :
    Signalled s (s.recordSignal h r) p (rSsem r.ws) (rSinc r.ws) := by
  have hs : s.recordSignal h r = s.signal p (rSsem r.ws) (rSinc r.ws) := by
    simp only [State.recordSignal, h1, h2, h3, hp, Bool.false_or, decide_false, Bool.false_eq_true, if_false]
  obtain ⟨hcount, hothers, -, -, -⟩ := State.signal_idle (inc := rSinc r.ws) h4
  rw [hs, Signalled, if_neg h2]
  exact ⟨hcount, hothers⟩

/-- A chain of packets whose record has ended. -/
noncomputable def Chain.passed (x : Chain) (r : Run) : Chain :=
  { x with run := none, recs := r.rc.follow ++ x.recs.tail, delivered := r.rc.num }

/-- A record that has only its signal to give. -/
noncomputable def Run.posts (r : Run) : Run := { r with posting := true }

theorem exec_recordComplete {s : State} {h : Nat} {r : Run} (hr : (s.chain h).run = some r) :
    exec (.copyRecordComplete h) s = .next (
      if !r.ended || r.fault.isSome || !r.acks.isEmpty then s
      else if (s.chain h).team.isNone then s.setChain h ((s.chain h).passed r)
      else if r.posting then s.postRecord h r
      else match s.completeRecord h r with
        | (s, false) => s
        | (s, true) => s.postRecord h r.posts) := by
  show execCopyRecordComplete h s = _
  unfold execCopyRecordComplete
  rw [hr]
  rfl

theorem exec_recordComplete_signals {s v : State} {h : Nat} {r : Run} (hr : (s.chain h).run = some r) (he : r.ended = true)
    (hf : r.fault = none) (ha : r.acks = []) (ht : (s.chain h).team.isNone = false) (hpost : r.posting = false)
    (hv : s.completeRecord h r = (v, true)) : exec (.copyRecordComplete h) s = .next (v.postRecord h r.posts) := by
  rw [exec_recordComplete hr, he, hf, ha, ht, hpost, hv]
  rfl

theorem recordComplete_waits {s : State} {h : Nat} {r : Run} (hr : (s.chain h).run = some r)
    (hw : r.ended = false ∨ r.fault ≠ none ∨ r.acks ≠ []) : exec (.copyRecordComplete h) s = .next s := by
  rw [exec_recordComplete hr, if_pos]
  obtain he | hf | ha := hw
  · rw [he]
    rfl
  · rw [Option.isSome_iff_ne_none.mpr hf, Bool.or_true, Bool.true_or]
  · rw [List.isEmpty_eq_false_iff.mpr ha, Bool.not_false, Bool.or_true]

/-- A record of a team that has ended, without an event record of its own. -/
theorem recordComplete_delivers {s : State} {h tid p : Nat} {r : Run} (hr : (s.chain h).run = some r) (he : r.ended = true)
    (hf : r.fault = none) (ha : r.acks = []) (ht : (s.chain h).team = some tid) (hp : s.chainCore h = some p)
    (hpost : r.posting = false) (hev : rEvq r.ws = false) (ho : s.offers = []) (hva : (s.chain h).seqVa.toNat % 8 = 0)
    (hx : ∀ u, s.xlate r.rc.dom (s.chain h).seqVa rW ≠ (u, .absent)) :
    ∃ t, exec (.copyRecordComplete h) s = .next t ∧ (t.chain h).run = none ∧
      (t.chain h).recs = (s.chain h).recs.tail ∧ (t.chain h).delivered = r.rc.num ∧
      (∀ q, ∀ l ∈ (t.core q).locks, ¬ (l.2.kind = 2 ∧ l.2.owner = recKey h r.rc.num)) ∧
      (rSidecar r.ws = true ∨ rSinc r.ws = 0 → (t.core p).sems = (s.core p).sems) ∧
      (rSidecar r.ws = false → rSinc r.ws ≠ 0 → rSigd r.ws = false →
        (s.core p).semWait.get (rSsem r.ws) [] = [] → Signalled s t p (rSsem r.ws) (rSinc r.ws)) := by
  obtain ⟨v, hv, hsems, hvp, hrecs, hdel, hlocks⟩ := State.completeRecord_delivers (r := r) ho hp hva hx
  obtain ⟨hvs, hvw⟩ := hsems p
  obtain ⟨t, htv, hrun, hrecs', hdel', hlocks', hsems'⟩ := State.signalRecord_leaves r.posts hvp
  obtain ⟨hts, -⟩ := hsems' p
  have hnopost : v.postRecord h r.posts = v.signalRecord h r.posts := by
    have hev' : rEvq r.posts.ws = false := hev
    rw [State.postRecord, if_neg (by rw [hev']; exact Bool.false_ne_true)]
  refine ⟨t, ?_, hrun, hrecs'.trans (congrArg List.tail hrecs), hdel'.trans hdel, fun q l hl => hlocks q l (hlocks' q l hl),
    fun hno => ?_, fun h1 h2 h3 h4 => ?_⟩
  · rw [exec_recordComplete_signals hr he hf ha (by rw [ht]; rfl) hpost hv, hnopost, htv]
  · have hno' : rSidecar r.posts.ws = true ∨ rSinc r.posts.ws = 0 := hno
    rw [hts, ← hvs, State.recordSignal, if_pos (by simpa using hno')]
  · obtain ⟨hcount, hothers⟩ : Signalled v (v.recordSignal h r.posts) p (rSsem r.ws) (rSinc r.ws) :=
      State.recordSignal_idle (r := r.posts) hvp h1 h2 h3 (by rw [hvw]; exact h4)
    exact ⟨by rw [hts, hcount, hvs], fun j hj => by rw [hts, hothers j hj, hvs]⟩

/-! ### A record that stopped at a fault (R450) -/

theorem State.unpark_kept (s : State) (p k : Nat) : (∀ q, ((s.unpark p k).core q).locks = (s.core q).locks) ∧
    (s.unpark p k).chains = s.chains := by
  rw [State.unpark]
  split
  · have hcore : ∀ q, ((s.cancelWatches p k).core q).locks = (s.core q).locks := fun q => by
      rw [State.cancelWatches, State.core_removeWatches]
    have hhome : ∀ f : Watch → Bool, (s.removeHomeWatches f).chains = s.chains := fun f =>
      (Bookkept.foldl (fun s key => s.setWatches_bookkept key _ _) _ s).chains
    refine ⟨fun q => ?_, hhome _⟩
    by_cases hq : q = p
    · rw [State.cancelWait, hq, State.core_setCore_self]
      exact hcore p
    · rw [State.cancelWait, State.core_setCore_ne _ _ hq, hcore]
  · exact ⟨fun _ => rfl, rfl⟩

theorem CtxsOnly.core_locks {s t : State} (h : CtxsOnly s t) (p : Nat) : (t.core p).locks = (s.core p).locks := by
  have e := congrArg Core.locks (h.cores p)
  exact e

theorem State.holdTrap_kept {s : State} {p k gen : Nat} (t : Trap) (hl : (s.ctx p k).live = true)
    (hg : (s.ctx p k).gen.toNat = gen) (hf : (s.core p).finishing = none) :
    (∀ q, ((s.holdTrap p k gen t).core q).locks = (s.core q).locks) ∧ (s.holdTrap p k gen t).chains = s.chains := by
  obtain ⟨hlocks, hchains⟩ := s.unpark_kept p k
  rw [State.holdTrap_live t hl hg hf]
  refine ⟨fun q => ?_, hchains⟩
  rw [← hlocks q]
  exact (CtxsOnly.setCtx _ p k _).core_locks q

/-- A chain whose record stopped at a fault. -/
noncomputable def Chain.broken (x : Chain) : Chain :=
  { x with run := none, recs := x.recs.tail, stopped := true, semAsked := false, semMet := false }

/-- The trap of a record that stopped at the fault `f` (R450). -/
noncomputable def Run.trap (r : Run) (f : Nat × Word) : Trap :=
  { cause := f.1, info := f.2, src := r.rc.ip
    srcx := BitVec.ofNat 64 ((r.plane * (rRows r.ws + 1) + r.row) * 2 ^ 32) + r.rc.cls }

theorem exec_chainFault {s : State} {h tid p : Nat} {r : Run} {f : Nat × Word} (hr : (s.chain h).run = some r)
    (hf : r.fault = some f) (ht : (s.chain h).team = some tid) (hp : s.chainCore h = some p) :
    let d := s.dropRecord h r.rc.num
    exec (.workFault (.chain h)) s = .next (((d.setChain h (d.chain h).broken).wakeIf p fun w => w == .busy 1).holdTrap p
      r.rc.ctx r.rc.gen (r.trap f)) := by
  intro d
  have hd : d.chainCore h = some p := ((Carried.of_unlocked (s.dropRecord_unlocked h r.rc.num).1).chainCore h).trans hp
  have hc : (d.setChain h (d.chain h).broken).chainCore h = some p := (chainCore_setChain (x := (d.chain h).broken) d rfl rfl).trans hd
  show Host.Outcome.next (s.recordFails h) = _
  unfold State.recordFails
  simp only [hr, hf, ht, Option.isNone_some, Bool.false_eq_true, if_false]
  show Host.Outcome.next (match (d.setChain h (d.chain h).broken).chainCore h with
    | none => d.setChain h (d.chain h).broken
    | some p => ((d.setChain h (d.chain h).broken).wakeIf p fun w => w == WaitOn.busy 1).holdTrap p r.rc.ctx r.rc.gen
        (r.trap f)) = _
  rw [hc]

theorem chainFault_holds {s : State} {h tid p : Nat} {r : Run} {f : Nat × Word} (hr : (s.chain h).run = some r)
    (hf : r.fault = some f) (ht : (s.chain h).team = some tid) (hp : s.chainCore h = some p)
    (hfin : (s.core p).finishing = none) (hl : (s.ctx p r.rc.ctx).live = true) (hg : (s.ctx p r.rc.ctx).gen.toNat = r.rc.gen) :
    ∃ t, exec (.workFault (.chain h)) s = .next t ∧ (t.chain h).run = none ∧ (t.chain h).stopped = true ∧
      (t.chain h).recs = (s.chain h).recs.tail ∧ (t.chain h).delivered = (s.chain h).delivered ∧
      (∀ q, ∀ l ∈ (t.core q).locks, ¬ (l.2.kind = 2 ∧ l.2.owner = recKey h r.rc.num)) ∧
      (t.ctx p r.rc.ctx).held = (s.ctx p r.rc.ctx).held ++ [r.trap f] := by
  obtain ⟨hun, hfree⟩ := s.dropRecord_unlocked h r.rc.num
  have hexec := exec_chainFault hr hf ht hp
  set d := s.dropRecord h r.rc.num with hd
  have hwake := Unlocked.wakeIf busyOne_plain (d.setChain h (d.chain h).broken) p
  set u := (d.setChain h (d.chain h).broken).wakeIf p fun w => w == .busy 1 with hu
  have hstill : (u.ctx p r.rc.ctx).still = (s.ctx p r.rc.ctx).still := (hwake.contexts p _).trans (hun.contexts p _)
  have hlive : (u.ctx p r.rc.ctx).live = true := (congrArg Ctx.live hstill : (u.ctx p r.rc.ctx).still.live = _).trans hl
  have hgen : (u.ctx p r.rc.ctx).gen.toNat = r.rc.gen :=
    (congrArg (fun x : Ctx => x.gen.toNat) hstill : (u.ctx p r.rc.ctx).still.gen.toNat = _).trans hg
  have hufin : (u.core p).finishing = none := (hwake.cores p).2.2.trans ((hun.cores p).2.2.trans hfin)
  have hheld : (u.ctx p r.rc.ctx).held = (s.ctx p r.rc.ctx).held := (congrArg Ctx.held hstill : (u.ctx p r.rc.ctx).still.held = _)
  obtain ⟨hlocks, hchains⟩ := State.holdTrap_kept (r.trap f) hlive hgen hufin
  have hdc : d.chain h = s.chain h := by rw [hun.machine]; rfl
  have hchain : (u.holdTrap p r.rc.ctx r.rc.gen (r.trap f)).chain h = (s.chain h).broken := by
    rw [State.chain, hchains, hwake.machine, ← hdc]
    exact State.chain_setChain_self _ _ _
  refine ⟨_, hexec, ?_, ?_, ?_, ?_, fun q l hm => ?_, ?_⟩
  · rw [hchain]
    rfl
  · rw [hchain]
    rfl
  · rw [hchain]
    rfl
  · rw [hchain]
    rfl
  · rw [hlocks] at hm
    exact hfree q l (hwake.locks q l hm)
  · rw [(State.holdTrap_holds (r.trap f) hlive hgen hufin).2, hheld]

/-! ### Follow-on images (R361) -/

/-- An operation offered to an array that has no work, in a zone whose window nobody uses. -/
theorem State.offerWork_free {s : State} {pid : Nat} {w : Work} {p : XPlan} (own : Option Nat) (skip : List Nat)
    (hs : (s.core pid).sweeps = []) (hl : (s.core pid).locks = []) (hm : (s.core pid).mats = [])
    (hq : (s.zone (zoneOf pid)).asked pid = 0) (hlen : p.ranges.length ≤ 16) :
    ∃ t, s.offerWork pid w p own skip = .ok t ∧ (t.core pid).mats = [w] ∧ t.mem = s.mem ∧ t.offers = s.offers := by
  have hheld : (p.ranges.filter fun r => r.lock).length ≤ 16 := (List.length_filter_le _ _).trans hlen
  have hask : ((s.zone (zoneOf pid)).ask pid w.dom (mmaUnits w.instr) w.op).2 = true :=
    (Zone.ask_ok (by rintro ⟨-, h, -⟩; omega)).1
  have hfree : ∀ l : MRange, (s.core pid).matLocked own skip l.lo l.len = false := fun l => by
    rw [Core.matLocked, hl]
    rfl
  have hlock : ((s.core pid).lockWork 1 w.ctx w.id ((p.ranges.filter fun r => r.lock).map fun l => (true, l.lo, l.len))).mats =
      (s.core pid).mats := by rw [Core.lockWork_eq]
  have hmats : ∀ (u : State) (c : Core), c.mats = [] → ∃ t, Accept.ok { u.setCore pid { c with mats := c.mats ++ [w] } with
      nextId := s.nextId + 1 } = Accept.ok t ∧ (t.core pid).mats = [w] ∧ t.mem = u.mem ∧ t.offers = u.offers := fun u c hc =>
    ⟨_, rfl, (congrArg Core.mats (State.core_setCore_self u pid _)).trans (by rw [hc]; rfl), rfl, rfl⟩
  unfold State.offerWork
  dsimp only
  rw [hs, List.any_nil, if_neg Bool.false_ne_true,
    if_neg (by simp only [hfree, List.any_eq_true, Bool.false_eq_true, and_false, exists_false, not_false_eq_true]),
    if_neg (by rw [Core.freeLocks, hl, List.length_nil]; omega), hm, List.length_nil, if_neg (by decide),
    if_neg (by rw [show (if mmaUnits w.instr = 0 then (s.zone (zoneOf pid), true)
      else (s.zone (zoneOf pid)).grant pid w.dom (mmaUnits w.instr) w.op).2 = true from hask]; exact Bool.false_ne_true)]
  exact hmats _ _ (hlock.trans hm)

theorem mmaPlan_ranges (G : Spec → Word) (x : XOp) : (mmaPlan G x).ranges.length ≤ 3 := by
  unfold mmaPlan
  rw [XPlan.ranges_and, XPlan.ranges_and]
  exact Nat.add_le_add (accPlan_ranges G x false) (Nat.add_le_add (ite_ranges (n := 1) (Nat.le_refl _) (Nat.zero_le _))
    (ite_ranges (n := 1) (Nat.le_refl _) (Nat.zero_le _)))

/-- The work of a follow-on image (R361). -/
noncomputable def State.imageWork (s : State) (o : Offer) (x : XOp) : Work :=
  { workOf s (.mma x) x (mmaPlan (s.imageReg o.pid) x) (s.imageReg o.pid) o.rc.ctx o.rc.gen o.rc.ip o.rc.cls {} (s.core o.pid).dom
    with chain := some o.chain }

/-- The state without an offer. -/
noncomputable def State.taken_up (s : State) (o : Offer) : State := { s with offers := s.offers.filter (·.id != o.id) }

/-- An image that stands for an operation is offered to the array. The definition is opened as a function: the kernel
would evaluate the decoder on the image if it had to compare the two sides of its equation. -/
theorem State.tryOffer_image {s : State} {o : Offer} {x : XOp}
    (hx : followOn [0, 0, 0, 0, 0, 0, BitVec.ofNat 64 o.image, BitVec.ofNat 64 (o.image / 2 ^ 64)] = some x)
    (hf : imageFault o (mmaPlan (s.imageReg o.pid) x) = none) : s.tryOffer o =
      match s.offerWork o.pid (s.imageWork o x) (mmaPlan (s.imageReg o.pid) x) none (if o.locked then
        ((s.core o.pid).locks.filter fun e => e.2.kind == 2 && e.2.owner == recKey o.chain o.rc.num).map (·.1) else []) with
      | .ok s1 => s1.taken_up o
      | .busy _ => s
      | .withheld s1 => s1 := by
  have h : State.tryOffer = State.tryOffer := rfl
  conv_rhs at h => delta State.tryOffer
  replace h := congrFun (congrFun h s) o
  beta_reduce at h
  rw [hx] at h
  dsimp only at h
  rw [hf] at h
  exact h

theorem exec_followOnOffer {s : State} {o : Offer} (ho : s.offers = [o]) :
    exec (.followOnOffer o.id) s = .next (s.tryOffer o) := by
  have hfind : s.offers.find? (fun q => q.id == o.id) = some o := by
    rw [ho, List.find?_cons_of_pos (by exact beq_self_eq_true o.id)]
  show execFollowOnOffer o.id s = _
  rw [execFollowOnOffer, hfind]

theorem followOnOffer_taken {s : State} {o : Offer} {x : XOp} (ho : s.offers = [o])
    (hx : followOn [0, 0, 0, 0, 0, 0, BitVec.ofNat 64 o.image, BitVec.ofNat 64 (o.image / 2 ^ 64)] = some x)
    (hl : (s.core o.pid).locks = []) (hs : (s.core o.pid).sweeps = []) (hm : (s.core o.pid).mats = [])
    (hr : (s.zone (zoneOf o.pid)).r = 0) (hq : (s.zone (zoneOf o.pid)).refused = [])
    (hf : imageFault o (mmaPlan (s.imageReg o.pid) x) = none) :
    ∃ t, exec (.followOnOffer o.id) s = .next t ∧ t.offers = [] ∧ (t.core o.pid).mats = [s.imageWork o x] ∧ t.mem = s.mem := by
  obtain ⟨t, ht, hmats, hmem, hoffers⟩ := State.offerWork_free (w := s.imageWork o x) (p := mmaPlan (s.imageReg o.pid) x) none
    (if o.locked then ((s.core o.pid).locks.filter fun e => e.2.kind == 2 && e.2.owner == recKey o.chain o.rc.num).map (·.1)
      else []) hs hl hm (by rw [Zone.asked, hr, hq]; rfl) ((mmaPlan_ranges _ _).trans (by decide))
  refine ⟨t.taken_up o, by rw [exec_followOnOffer ho, State.tryOffer_image hx hf, ht], ?_, hmats, hmem⟩
  show t.offers.filter _ = []
  rw [hoffers, ho, List.filter_cons_of_neg (by simp), List.filter_nil]

/-! ### Event records (R368) -/

theorem foldl_fixed_on {α β : Type} {f : α → β → α} {a : α} (l : List β) (h : ∀ b ∈ l, f a b = a) : l.foldl f a = a := by
  induction l with
  | nil => rfl
  | cons b l ih =>
    rw [List.foldl_cons, h b List.mem_cons_self]
    exact ih fun c hc => h c (List.mem_cons_of_mem _ hc)

theorem exec_eventRecordPost {s u : State} {p : Nat} (hu : s.postAll p = u) (hn : NoRuns u) :
    exec (.eventRecordPost p) s = .next u := by
  show execEventRecordPost p s = _
  unfold execEventRecordPost
  dsimp only
  rw [hu]
  exact congrArg Host.Outcome.next (foldl_fixed_on _ fun e he => by rw [hn e he])

theorem State.postDropped_none {s : State} {p : Nat} (h : (s.core p).dropped = 0) : s.postDropped p = s := by
  simp [State.postDropped, h]

/-- The words of a record of the event queue stand in local store. -/
noncomputable def State.putPost (s : State) (p off : Nat) (e : Post) : State :=
  ((s.wr (lsAddr p off) 8 e.w0.toNat).wr (lsAddr p (off + 8)) 8 e.w1.toNat).lsWake p off false false true

/-- The event queue of a core has one record more. -/
noncomputable def Core.posted (c : Core) (tail : Nat) (ps : List Post) : Core := { c with evqtail := (tail + 1) % 128, posts := ps }

/-- The first record that waits enters the event queue if it has room, and the next ones follow. -/
noncomputable def State.drainFirst (s : State) (p n : Nat) (e : Post) (ps : List Post) : State :=
  if (s.core p).evqEn && ringCount (s.core p).evqhead (s.core p).evqtail 64 < 64 then
    let u := s.putPost p ((s.core p).evqBase * 1024 + 16 * ((s.core p).evqtail % 64)) e
    let u := (u.setCore p ((u.core p).posted (s.core p).evqtail ps)).wakeIf p fun w => w == .events
    let u := match e.trap with
      | some (k, gen, t) => u.holdTrap p k gen t
      | none => u
    u.drainPosts p n
  else s

theorem State.drainPosts_none {s : State} {p : Nat} (h : (s.core p).posts = []) (n : Nat) : s.drainPosts p n = s := by
  cases n with
  | zero => rfl
  | succ n =>
    show (match (s.core p).posts with
      | [] => s
      | e :: ps => s.drainFirst p n e ps) = s
    rw [h]

theorem State.drainPosts_succ {s : State} {p : Nat} {e : Post} {ps : List Post} (h : (s.core p).posts = e :: ps) (n : Nat) :
    s.drainPosts p (n + 1) = s.drainFirst p n e ps := by
  show (match (s.core p).posts with
    | [] => s
    | e :: ps => s.drainFirst p n e ps) = _
  rw [h]

theorem State.drainFirst_enters {s : State} {p n : Nat} {e : Post} {ps : List Post} (ht : e.trap = none)
    (hen : (s.core p).evqEn = true) (hroom : ringCount (s.core p).evqhead (s.core p).evqtail 64 < 64) :
    let u := s.putPost p ((s.core p).evqBase * 1024 + 16 * ((s.core p).evqtail % 64)) e
    s.drainFirst p n e ps =
      ((u.setCore p ((u.core p).posted (s.core p).evqtail ps)).wakeIf p fun w => w == .events).drainPosts p n := by
  rw [State.drainFirst, if_pos (by rw [hen, decide_eq_true hroom]; rfl), ht]

theorem State.drainFirst_waits {s : State} {p n : Nat} {e : Post} {ps : List Post} (hfull : (s.core p).evqEn = false ∨
    ringCount (s.core p).evqhead (s.core p).evqtail 64 = 64) : s.drainFirst p n e ps = s := by
  rw [State.drainFirst, if_neg]
  obtain hen | hroom := hfull
  · rw [hen]
    exact Bool.false_ne_true
  · rw [hroom, Bool.and_eq_true]
    exact fun h => absurd h.2 (by decide)

theorem eventRecordPost_enters {s : State} {p : Nat} {e : Post} (hch : s.chains = []) (h : (s.core p).posts = [e])
    (ht : e.trap = none) (hd : (s.core p).dropped = 0) (hen : (s.core p).evqEn = true)
    (hroom : ringCount (s.core p).evqhead (s.core p).evqtail 64 < 64) (hb : (s.core p).evqBase < 1024) :
    let off := (s.core p).evqBase * 1024 + 16 * ((s.core p).evqtail % 64)
    ∃ t, exec (.eventRecordPost p) s = .next t ∧ (t.core p).posts = [] ∧ (t.core p).evqtail = ((s.core p).evqtail + 1) % 128 ∧
      t.rd (lsAddr p off) 8 = e.w0.toNat ∧ t.rd (lsAddr p (off + 8)) 8 = e.w1.toNat ∧ SameBytes s t (lsAddr p off) 16 := by
  intro off
  have hoff : off + 8 < 2 ^ 20 := by omega
  have hword : ∀ w : Word, w.toNat % 256 ^ 8 = w.toNat := fun w => Nat.mod_eq_of_lt (Nat.lt_of_lt_of_eq w.isLt (by norm_num))
  have hadd := lsAddr_add (p := p) hoff
  set v := (s.wr (lsAddr p off) 8 e.w0.toNat).wr (lsAddr p (off + 8)) 8 e.w1.toNat with hv
  set u := s.putPost p off e with hu
  have hstir : Stirred v u := v.lsWake_stirred p off false false true
  set d := (u.core p).posted (s.core p).evqtail [] with hdd
  set t := (u.setCore p d).wakeIf p fun w => w == .events with htt
  have hwake := (State.ctx_wakeIf (f := fun w => w == .events) (fun w hw => by
    obtain rfl := beq_iff_eq.mp hw
    rfl) (u.setCore p d) p).1
  have hcore : { t.core p with ctxs := [] } = { d with ctxs := [] } := by
    rw [hwake.cores p, State.core_setCore_self]
  have hposts : (t.core p).posts = [] := by
    have e1 := congrArg Core.posts hcore
    exact e1
  have htail : (t.core p).evqtail = ((s.core p).evqtail + 1) % 128 := by
    have e1 := congrArg Core.evqtail hcore
    exact e1
  have hdrop : (t.core p).dropped = 0 := by
    have e1 := congrArg Core.dropped hcore
    have e2 := congrArg Core.dropped (hstir.cores p)
    exact e1.trans (e2.trans hd)
  have hmem : t.mem = v.mem := (State.wakeIf_mem _ _ _).trans (v.lsWake_mem p off false false true)
  have hrd : ∀ a n, t.rd a n = v.rd a n := fun a n => by rw [State.rd, State.rd, hmem]
  have hpost : s.postAll p = t := by
    rw [State.postAll, State.drainPosts_succ h 63, State.drainFirst_enters ht hen hroom]
    exact (congrArg (fun w : State => w.postDropped p) (State.drainPosts_none hposts 63)).trans (State.postDropped_none hdrop)
  have hv0 : NoRuns v := fun e' he' => by
    have hne : e' ∈ s.chains := he'
    rw [hch] at hne
    exact nomatch hne
  have hruns : NoRuns t := by
    have hut : t.chains = u.chains := by
      have e1 := congrArg State.chains hwake.machine
      exact e1
    exact (hstir.runs hv0).of_chains hut
  refine ⟨t, exec_eventRecordPost hpost hruns, hposts, htail, ?_, ?_, fun b hb => ?_⟩
  · rw [hrd, hv, State.rd_wr_out _ _ _ (by omega), State.rd_wr, hword]
  · rw [hrd, hv, State.rd_wr, hword]
  · rw [hmem]
    have h1 : b < lsAddr p off ∨ lsAddr p off + 8 ≤ b := hb.imp id fun h => by omega
    have h2 : b < lsAddr p (off + 8) ∨ lsAddr p (off + 8) + 8 ≤ b := by
      rw [hadd]
      exact hb.imp (fun h => by omega) fun h => by omega
    exact (Memory.read_writeN_out (Memory.writeN s.mem (lsAddr p off) 8 e.w0.toNat) 8 _ h2).trans
      (Memory.read_writeN_out s.mem 8 _ h1)

/-- The next record of a multi-record packet. -/
noncomputable def CRec.image (rc : CRec) : CRec :=
  { rc with va := BitVec.ofNat 64 (recW rc.ws 0 / 64 * 64), num := rc.num + 1, more := rc.more - 1, ws := [] }

theorem eventRecordPost_nothing {s : State} {p : Nat} (hch : s.chains = []) (hd : s.drainPosts p 64 = s)
    (h0 : (s.core p).dropped = 0) : exec (.eventRecordPost p) s = .next s := by
  refine exec_eventRecordPost (by rw [State.postAll, hd, State.postDropped_none h0]) fun e he => ?_
  rw [hch] at he
  exact nomatch he

/-- Settles O51, clause by clause: a record's release of its locks keeps every semaphore, the write of its number is a step
of its home, and the signal of the engine comes last. -/
theorem recordsComplete : Obligations.RecordsComplete := by
  unfold Obligations.RecordsComplete
  intro h s
  refine ⟨fun r hr => ⟨recordComplete_waits hr, fun he hf ha ht => ⟨?_, fun hmore => by rw [CRec.follow, if_pos hmore], fun hmore =>
      ⟨r.rc.image, if_neg (Nat.ne_of_gt hmore), BitVec.toNat_ofNat _ _, rfl, rfl, rfl⟩⟩, ?_, ?_⟩, ?_, ?_⟩
  · rw [exec_recordComplete hr, if_neg (by rw [he, hf, ha]; exact Bool.false_ne_true), if_pos (by rw [ht]; rfl)]
    rfl
  · intro tid p he hf ha ht hp hpost hev ho hva hx
    exact recordComplete_delivers hr he hf ha ht hp hpost hev ho hva hx
  · intro tid p fa hf ht hp hfin hl hg
    obtain ⟨t, hexec, hrun, hstop, hrecs, hdel, hlocks, hheld⟩ := chainFault_holds hr hf ht hp hfin hl hg
    exact ⟨t, hexec, hrun, hstop, hrecs, hdel, hlocks, r.trap fa, hheld, rfl, rfl, rfl⟩
  · intro o x ho hx c z word hl hs hm hr hq hf
    obtain ⟨t, hexec, hoffers, hmats, hmem⟩ := followOnOffer_taken ho hx hl hs hm hr hq hf
    exact ⟨t, _, hexec, hoffers, hmats, rfl, rfl, rfl, rfl, rfl, rfl, rfl, hmem⟩
  · intro p c off hch
    refine ⟨fun hposts => eventRecordPost_nothing hch (State.drainPosts_none hposts 64), fun e he ht hd => ⟨fun hfull => ?_,
      fun hen hroom hb => eventRecordPost_enters hch he ht hd hen hroom hb⟩⟩
    exact eventRecordPost_nothing hch ((State.drainPosts_succ he 63).trans (State.drainFirst_waits hfull)) hd

end Sys2Proof.Machine
end

section
/-! O54 is refuted: a team that starts writes the sequence number of its chain at the home of its word (R376), a full slice
displaces a modified line for it (R484), and the frame of that line may lie in the local store of the core that starts. -/

namespace Sys2Proof.Machine
open Sys2Proof

/-- The state with other lines in its slices. -/
noncomputable def State.withLines (s : State) (ls : KMap Line) : State := { s with lines := ls }

theorem State.assign_withLines (s : State) (ls : KMap Line) (tid cool watts pid : Nat) :
    (s.withLines ls).assign tid cool watts pid = (s.assign tid cool watts pid).withLines ls := rfl

theorem State.zonesHold_withLines (s : State) (ls : KMap Line) (pids : List Nat) :
    (s.withLines ls).zonesHold pids = s.zonesHold pids := rfl

theorem State.startCore_withLines (s : State) (ls : KMap Line) (tid : Nat) (g : Grid) (fit : Range × List Ranges × Range)
    (pid rank : Nat) : (s.withLines ls).startCore tid g fit pid rank = (s.startCore tid g fit pid rank).withLines ls := rfl

theorem State.writeBack_withLines (s : State) (ls : KMap Line) (key : Nat) (l : Line) (h : keyHost key = true) :
    (s.withLines ls).writeBack key l = (s.writeBack key l).withLines ls := by
  have hf : ∀ t : State, t.lineFrame key l = l.frame := fun t => by rw [State.lineFrame, if_pos h]
  rw [State.writeBack, State.writeBack, hf, hf]
  rfl

theorem State.tryAssign_withLines (s : State) (ls : KMap Line) (tid cool watts : Nat) (pids : List Nat) :
    (s.withLines ls).tryAssign tid cool watts pids = (s.tryAssign tid cool watts pids).map (·.withLines ls) := by
  have hfold : ∀ u : State, pids.foldl (fun u p => u.assign tid cool watts p) (u.withLines ls) =
      (pids.foldl (fun u p => u.assign tid cool watts p) u).withLines ls := by
    induction pids with
    | nil => exact fun _ => rfl
    | cons p l ih => exact fun u => ih (u.assign tid cool watts p)
  rw [State.tryAssign, State.tryAssign, hfold]
  show (if (State.zonesHold _ pids) = true then _ else none) = _
  rw [State.zonesHold_withLines]
  split <;> rfl

theorem State.placeSmall_withLines (s : State) (ls : KMap Line) (tid cool watts n : Nat) (cs : List (List Nat)) :
    (s.withLines ls).placeSmall tid cool watts n cs = (s.placeSmall tid cool watts n cs).map fun (r : State × List Nat) => (r.1.withLines ls, r.2) := by
  induction cs with
  | nil => rfl
  | cons ps l ih =>
    set x := (if ((ps.filter s.idle).take n).length = n && ps.all s.open && !ps.any s.inLarge then
      s.tryAssign tid cool watts ((ps.filter s.idle).take n) else none) with hx
    have hif : (if ((ps.filter s.idle).take n).length = n && ps.all s.open && !ps.any s.inLarge then
        (s.withLines ls).tryAssign tid cool watts ((ps.filter s.idle).take n) else none) = x.map (·.withLines ls) := by
      rw [hx, State.tryAssign_withLines]
      split <;> rfl
    show (match (if ((ps.filter s.idle).take n).length = n && ps.all s.open && !ps.any s.inLarge then
        (s.withLines ls).tryAssign tid cool watts ((ps.filter s.idle).take n) else none) with
      | some t => some (t, (ps.filter s.idle).take n)
      | none => State.placeSmall (s.withLines ls) tid cool watts n l) =
      (match x with
      | some t => some (t, (ps.filter s.idle).take n)
      | none => State.placeSmall s tid cool watts n l).map fun (r : State × List Nat) => (r.1.withLines ls, r.2)
    rw [hif]
    cases x with
    | none => exact ih
    | some t => rfl

theorem State.xlate_cached {s : State} {dom need : Nat} {va : Word} {x : Xlate} (hv : isHost va = true)
    (hx : s.xlates.find? (pageKey dom va) = some x) (hr : hasRights x.rights need = true) :
    s.xlate dom va need = (s, .ok (x.base + va.toNat % 4096)) := by
  rw [State.xlate, if_pos hv, State.xlateHost_eq, hx]
  exact if_pos hr

/-- The state whose slice gave up a line. -/
noncomputable def State.displaced (s : State) (dom : Nat) (e : Nat × Line) : State :=
  let t := if e.2.dirty then s.writeBack e.1 e.2 else s
  let t := t.countCache e.1 e.2.fillDom (if e.2.fillDom = dom then CacheCnt.addEvown else CacheCnt.addDispo)
  { t with lines := t.lines.del e.1, free := t.free + 1 }

theorem State.displace_eq (s : State) (key dom : Nat) : s.displace key dom =
    if (s.lines.filter fun a => s.sliceOf a.1 == s.sliceOf key).length < sliceLines then s
    else match (s.lines.filter fun a => s.sliceOf a.1 == s.sliceOf key)[(Config.freeValue s.free).toNat %
        (s.lines.filter fun a => s.sliceOf a.1 == s.sliceOf key).length]? with
      | none => s
      | some e => s.displaced dom e := rfl

theorem KMap.del_replicate {α : Type} (n : Nat) (e : Nat × α) : KMap.del (List.replicate n e) e.1 = [] := by
  rw [KMap.del, List.filter_eq_nil_iff]
  intro a ha
  rw [List.eq_of_mem_replicate ha]
  simp

/-- A slice full of one modified line of the host half writes it back. -/
theorem State.displace_full (s : State) {key dom : Nat} {e : Nat × Line} (hs : s.sliceOf e.1 = s.sliceOf key)
    (hd : e.2.dirty = true) (hk : keyHost e.1 = true) :
    (s.withLines (List.replicate sliceLines e)).displace key dom = (s.displaced dom e).withLines [] := by
  have hmine : (List.replicate sliceLines e).filter (fun a => s.sliceOf a.1 == s.sliceOf key) = List.replicate sliceLines e :=
    List.filter_eq_self.mpr fun a ha => by
      rw [List.eq_of_mem_replicate ha]
      exact beq_iff_eq.mpr hs
  have hget : ∀ n, (List.replicate sliceLines e)[n % sliceLines]? = some e := fun n => by
    rw [List.getElem?_replicate, if_pos (Nat.mod_lt _ (by decide))]
  rw [State.displace_eq]
  show (if ((List.replicate sliceLines e).filter fun a => s.sliceOf a.1 == s.sliceOf key).length < sliceLines then _
    else match ((List.replicate sliceLines e).filter fun a => s.sliceOf a.1 == s.sliceOf key)[(Config.freeValue s.free).toNat %
        ((List.replicate sliceLines e).filter fun a => s.sliceOf a.1 == s.sliceOf key).length]? with
      | none => s.withLines (List.replicate sliceLines e)
      | some a => (s.withLines (List.replicate sliceLines e)).displaced dom a) = _
  rw [hmine, List.length_replicate, if_neg (Nat.lt_irrefl _), hget]
  dsimp only
  rw [State.displaced, State.displaced, if_pos hd, State.writeBack_withLines s _ _ _ hk]
  rw [show (((s.writeBack e.1 e.2).withLines (List.replicate sliceLines e)).countCache e.1 e.2.fillDom
    (if e.2.fillDom = dom then CacheCnt.addEvown else CacheCnt.addDispo)).lines = List.replicate sliceLines e from rfl,
    KMap.del_replicate, if_pos hd]
  rfl

/-- The state with a line that it lacked. -/
noncomputable def State.brought (s : State) (key dom : Nat) (l : Line) : State :=
  { s.countCache key dom CacheCnt.addMiss with lines := s.lines.put key l }

theorem State.homeStep_missed {s : State} {dom need pa : Nat} {va : Word} (mask : Nat) (f : Nat → Word → Bool → Bool → OpRes)
    (revoke : OpRes → Bool) (hx : s.xlate dom va need = (s, .ok pa)) (hl : s.lines.find? (lineKey dom va) = none) :
    ∃ r, s.homeStep dom va need mask f revoke =
      (let t := s.displace (lineKey dom va) dom
       let l := { t.lineOrMem (lineKey dom va) (pa / 64 * 64) with fillDom := dom }
       (t.brought (lineKey dom va) dom l).performed dom va mask f revoke l, .done r) := by
  rw [State.homeStep_eq, hx]
  dsimp only
  rw [State.openLine, hl]
  exact ⟨_, rfl⟩

/-- The state with one more team of a grid. -/
noncomputable def State.withTeam (s : State) (tid : Nat) (g : Grid) (tm : Team) : State :=
  { s with
    teams := s.teams.put tid tm
    nextId := tid + 1
    grids := s.grids.put tm.grid { g with next := g.next + 1, lastDie := some tm.die } }

theorem State.startTeam_placed {s t u : State} {die gid : Nat} {g : Grid} {pids hs : List Nat}
    {fit : Range × List Ranges × Range} (hg : s.grids.find? gid = some g) (hr : (s.residents die).length < 256)
    (hp : s.placeTeam die s.nextId (fld (g.types.getD 0 (0, 0)).2.toNat 0 4)
      (s.classWatts (fld (g.types.getD 0 (0, 0)).2.toNat 4 4)) g.size = some (t, pids))
    (hf : entry0Fit (needOf (g.types.getD 0 (0, 0)).1) = some fit)
    (hb : (pids.zipIdx.foldl (fun t e => t.startCore s.nextId g fit e.1 e.2) t).bindChains die s.nextId g.next g.dom pids
      g.binds = .done u hs) : s.startTeam die gid = .placed (u.withTeam s.nextId g
        { grid := gid, number := g.next, die := die, size := g.size, map := pids, done := g.size, since := u.ticks
          chains := hs }) := by
  rw [State.startTeam, hg]
  dsimp only
  rw [if_neg (Nat.not_le.mpr hr), hp, hf]
  dsimp only
  rw [hb]
  rfl

end Sys2Proof.Machine

namespace Sys2Proof.Machine.Counter
open Sys2Proof Sys2Proof.Machine

/-- A grid of one team of one core, with one chain. -/
noncomputable def oneTeam : Grid :=
  { queue := 0, pkt := 0, prio := 0, dom := 0, entry := 0, arg := 0, ttab := 0, types := [], save := 0, nsave := 0
    binds := [[0]], teams := 1, size := 1, dies := 1 }

/-- The page of the chain's sequence number is at hand. -/
noncomputable def launched : State := { State.reset with grids := [(0, oneTeam)], xlates := [(pageKey 0 0, ⟨hostBase, 31, 0, true⟩)] }

/-- A modified line of the host half with empty words, whose frame lies in the local store of core 0. -/
noncomputable def stray : Nat × Line := (513, ⟨[], 0, 0, false, true, lsAddr 0 0, 0⟩)

/-- Where the team's core starts. -/
noncomputable def fit : Range × List Ranges × Range := ((0, 0), List.replicate 6 ⟨(0, 0), (0, 0), (0, 0), (0, 0)⟩, (0, 0))

/-- Core 0 begins the team. -/
noncomputable def begun : State := (launched.assign 0 0 0 0).startCore 0 oneTeam fit 0 0

/-- Chain 0 is bound to it. -/
noncomputable def bound : State := begun.setChain 0 { team := some 0, rank := 0, seqVa := 0, pend := 0, tail := 0 }

/-- The line of the sequence number takes the place of a stray one. -/
noncomputable def squeezed : State := (bound.displaced 0 stray).withLines []

/-- The sequence number is written. -/
noncomputable def numbered : State :=
  let l := { squeezed.lineOrMem 0 hostBase with fillDom := 0 }
  (squeezed.brought 0 0 l).performed 0 0 255 (opEval (.put 0 255 none false)) (opRevokes (.put 0 255 none false)) l

/-- The chain is entered in the core. -/
noncomputable def chained : State := numbered.setCore 0 { numbered.core 0 with chn := (numbered.core 0).chn.put 0 (2 ^ 13) }

theorem launched_place : launched.placeSmall 0 0 0 1 ((List.range 64).map (launched.clusterCores 0)) =
    some (launched.assign 0 0 0 0, [0]) := by
  decide +kernel

theorem launched_places (ls : KMap Line) :
    (launched.withLines ls).placeTeam 0 0 0 0 1 = some ((launched.assign 0 0 0 0).withLines ls, [0]) := by
  have hc : (launched.withLines ls).clusterCores 0 = launched.clusterCores 0 := rfl
  rw [State.placeTeam, if_neg (by decide), hc, State.placeSmall_withLines, launched_place]
  rfl

theorem find?_replicate {α : Type} (n : Nat) (e : Nat × α) {k : Nat} (h : e.1 ≠ k) : KMap.find? (List.replicate n e) k = none := by
  induction n with
  | zero => rfl
  | succ n ih =>
    rw [List.replicate_succ]
    exact (if_neg h).trans ih

theorem bound_write {ls : KMap Line} (hl : ls.find? 0 = none) (hd : (bound.withLines ls).displace 0 0 = squeezed) :
    ∃ r, (bound.withLines ls).homeWrite 0 0 0 255 none false = (numbered, .done r) := by
  have hx : (bound.withLines ls).xlates = [(pageKey 0 0, ⟨hostBase, 31, 0, true⟩)] := rfl
  obtain ⟨r, hr⟩ := State.homeStep_missed (s := bound.withLines ls) (need := rW) 255 (opEval (.put 0 255 none false))
    (opRevokes (.put 0 255 none false))
    (State.xlate_cached (dom := 0) (va := 0) (x := ⟨hostBase, 31, 0, true⟩) (by decide) (by rw [hx]; rfl) (by decide)) hl
  refine ⟨r, ?_⟩
  rw [State.homeWrite_aligned _ _ _ (by decide), hr]
  show (let t := (bound.withLines ls).displace 0 0
       let l := { t.lineOrMem 0 hostBase with fillDom := 0 }
       ((t.brought 0 0 l).performed 0 0 255 _ _ l, HomeAns.done r)) = _
  rw [hd]
  rfl

theorem begun_bind {ls : KMap Line} (hl : ls.find? 0 = none) (hd : (bound.withLines ls).displace 0 0 = squeezed) :
    (begun.withLines ls).bindChains 0 0 0 0 [0] [[0]] = .done chained [0] := by
  obtain ⟨r, hr⟩ := bound_write hl hd
  show (match (bound.withLines ls).homeWrite 0 0 0 255 none false with
    | (s, .absent) => Io.wait s
    | (s, _) => match State.bindChains (s.setCore 0 { s.core 0 with chn := (s.core 0).chn.put 0 (2 ^ 13) }) 0 0 0 0 [0] [] with
        | .done s hs => Io.done s (0 :: hs)
        | r => r) = _
  rw [hr]
  rfl

/-- The team that runs. -/
noncomputable def running : State :=
  chained.withTeam launched.nextId oneTeam
    { grid := 0, number := 0, die := 0, size := 1, map := [0], done := 1, since := chained.ticks, chains := [0] }

theorem launched_start {ls : KMap Line} (hl : ls.find? 0 = none) (hd : (bound.withLines ls).displace 0 0 = squeezed) :
    (launched.withLines ls).startTeam 0 0 = .placed running := by
  have hw : (launched.withLines ls).classWatts 0 = launched.classWatts 0 := rfl
  have hw0 : launched.classWatts 0 = 0 := by decide +kernel
  have hfit : entry0Fit (needOf 0) = some fit := by decide +kernel
  have hplace : (launched.withLines ls).placeTeam 0 0 0 ((launched.withLines ls).classWatts 0) 1 =
      some ((launched.assign 0 0 0 0).withLines ls, [0]) := by rw [hw, hw0, launched_places]
  exact State.startTeam_placed (g := oneTeam) rfl (by show (launched.residents 0).length < 256; decide) hplace hfit
    (begun_bind hl hd)

/-- Refutes O54: the line that gives up its place to the chain's sequence number is written back into the local store of the
core that starts, whose word is then empty. -/
theorem not_dispatchEvents : ¬ Obligations.DispatchEvents := by
  intro h
  obtain ⟨-, -, hstart, -⟩ := h 0 (launched.withLines (List.replicate sliceLines stray))
  have hs := launched_start (find?_replicate sliceLines stray (by decide))
    (State.displace_full bound (by decide +kernel) rfl (by decide))
  obtain ⟨tm, htm, -, -, -, -, -, -, -, -, hranks⟩ := hstart 0 oneTeam running rfl hs ⟨rfl, rfl⟩
  have hmap : tm.map = [0] := by
    have h1 : running.teams.find? 0 = some tm := htm
    have h2 : (running.teams.find? 0).map Team.map = some [0] := by decide +kernel
    rw [h1] at h2
    exact Option.some.inj h2
  obtain ⟨-, -, -, -, -, hfull, -⟩ := hranks (by rw [hmap]; decide) 0 0 (by rw [hmap]; rfl)
  exact absurd (hfull 0) (by decide +kernel)

end Sys2Proof.Machine.Counter
end
